-- ==== Sys2Proof/Word.lean ====
section
/-! DEFINITION. The word types of the Caervol Q9: bytes, 64-bit registers and lanes, 256-byte register images (R6), 32-lane masks. -/

namespace Sys2Proof

/-- One byte. -/
abbrev Byte := BitVec 8

/-- A 64-bit register, lane or instruction word (R6, R248). -/
abbrev Word := BitVec 64

/-- The 256-byte image of a vector register, an `a` register or a queue entry:
lane `t` is bytes `8t` to `8t + 7` (R6). -/
abbrev Image := BitVec 2048

/-- One bit per thread of a warp. -/
abbrev Mask := BitVec 32

/-- An 11-bit operand field (R258). -/
abbrev Fld := BitVec 11

/-- A device address or an offset, after it has been computed. -/
abbrev Addr := Nat

end Sys2Proof
end

