-- ==== Sys2Proof/Syntax.lean ====
section
/-! DEFINITION. The syntax: the operand records of the word formats (09, Tables 9.2 to 9.6; 10 to 14) and Instr,
one constructor per row of spec/opcode_table.json. A device event carries what arrives from outside the device, or
which of its objects acts; a word carries the fields its format uses, each at the width the format gives it. -/

namespace Sys2Proof

/-- Predicate field and negate bit (R255, R262). -/
structure Guard where
  p   : BitVec 3
  neg : Bool
  deriving DecidableEq, Repr

/-- Ordinary word with one source operand (Table 9.2). -/
structure Alu1 where
  ty  : BitVec 4
  d   : Fld
  a   : Fld
  cc  : BitVec 2
  g   : Guard
  uni : Bool
  deriving DecidableEq, Repr

/-- Ordinary word with two source operands (Table 9.2). -/
structure Alu2 where
  ty  : BitVec 4
  d   : Fld
  a   : Fld
  b   : Fld
  cc  : BitVec 2
  g   : Guard
  uni : Bool
  deriving DecidableEq, Repr

/-- Ordinary word with three source operands (Table 9.2). -/
structure Alu3 where
  ty  : BitVec 4
  d   : Fld
  a   : Fld
  b   : Fld
  c   : Fld
  cc  : BitVec 2
  g   : Guard
  uni : Bool
  deriving DecidableEq, Repr

/-- Ordinary word whose A, B and C are one 33-bit immediate in bits [39:7] (R291). -/
structure AluImm where
  ty  : BitVec 4
  d   : Fld
  imm : BitVec 33
  cc  : BitVec 2
  g   : Guard
  uni : Bool
  deriving DecidableEq, Repr

/-- Comparison word: condition in bits [9:7], `.any` in bit [10] (R292, R294, R303). -/
structure AluCmp where
  ty   : BitVec 4
  d    : Fld
  a    : Fld
  b    : Fld
  any  : Bool
  cond : BitVec 3
  cc   : BitVec 2
  g    : Guard
  uni  : Bool
  deriving DecidableEq, Repr

/-- `vfclass`: class mask in bits [16:7], `.any` in bit [17] (R304). -/
structure AluClass where
  ty   : BitVec 4
  d    : Fld
  a    : Fld
  any  : Bool
  mask : BitVec 10
  cc   : BitVec 2
  g    : Guard
  uni  : Bool
  deriving DecidableEq, Repr

/-- Long-latency word with one source operand (R256, R305). -/
structure Long1 where
  ty : BitVec 4
  d  : Fld
  a  : Fld
  la : BitVec 4
  cc : BitVec 2
  g  : Guard
  deriving DecidableEq, Repr

/-- Long-latency word with two source operands (R256, R305). -/
structure Long2 where
  ty : BitVec 4
  d  : Fld
  a  : Fld
  b  : Fld
  la : BitVec 4
  cc : BitVec 2
  g  : Guard
  deriving DecidableEq, Repr

/-- `bra` and `call` (Table 10.1). -/
structure BraF where
  all  : Bool
  disp : BitVec 33
  g    : Guard
  deriving DecidableEq, Repr

/-- `brc`: target and join displacements (Table 10.1). -/
structure BrcF where
  tdisp : BitVec 22
  jdisp : BitVec 22
  g     : Guard
  deriving DecidableEq, Repr

/-- `jmpi` (Table 10.1). -/
structure JmpiF where
  all : Bool
  a   : Fld
  g   : Guard
  deriving DecidableEq, Repr

/-- `loop` (Table 10.1). -/
structure LoopF where
  d    : Fld
  disp : BitVec 33
  g    : Guard
  deriving DecidableEq, Repr

/-- `trap` and `bpt`: the code n in field C (Table 10.1). -/
structure CodeF where
  n : BitVec 11
  g : Guard
  deriving DecidableEq, Repr

/-- `rep` (Table 9.6): repetitions minus 1 and the signed steps of the fields. -/
structure RepF where
  n  : BitVec 6
  sd : BitVec 8
  sa : BitVec 8
  sb : BitVec 8
  sc : BitVec 8
  deriving DecidableEq, Repr

/-- `rgn` (Table 10.5). -/
structure RgnF where
  a     : Fld
  count : BitVec 8
  new   : Bool
  g     : Guard
  deriving DecidableEq, Repr

/-- A word with a destination field D and a source field A only. -/
structure DAF where
  d : Fld
  a : Fld
  g : Guard
  deriving DecidableEq, Repr

/-- A word with source fields A and B only. -/
structure ABF where
  a : Fld
  b : Fld
  g : Guard
  deriving DecidableEq, Repr

/-- A word with source field A only. -/
structure AF where
  a : Fld
  g : Guard
  deriving DecidableEq, Repr

/-- `vmovx` (Table 10.5). -/
structure MovxF where
  d  : Fld
  a  : Fld
  cc : BitVec 2
  g  : Guard
  deriving DecidableEq, Repr

/-- `rkill` (Table 10.5). -/
structure RkillF where
  a     : Fld
  count : BitVec 8
  g     : Guard
  deriving DecidableEq, Repr

/-- `vcvt` (Table 11.5); `ty` is the destination type. -/
structure CvtF where
  ty   : BitVec 4
  d    : Fld
  a    : Fld
  part : BitVec 4
  la   : BitVec 4
  sf   : Bool
  rm   : BitVec 2
  st   : BitVec 4
  cc   : BitVec 2
  g    : Guard
  deriving DecidableEq, Repr

/-- `vcvti` (Table 11.5). -/
structure CvtiF where
  ty   : BitVec 4
  d    : Fld
  a    : Fld
  sat  : Bool
  part : BitVec 4
  st   : BitVec 4
  cc   : BitVec 2
  g    : Guard
  deriving DecidableEq, Repr

/-- `vcvtf` (Table 11.5). -/
structure CvtfF where
  ty   : BitVec 4
  d    : Fld
  a    : Fld
  part : BitVec 4
  rm   : BitVec 2
  st   : BitVec 4
  cc   : BitVec 2
  g    : Guard
  deriving DecidableEq, Repr

/-- `vqnt` (Table 11.5). -/
structure QntF where
  ty   : BitVec 4
  d    : Fld
  a    : Fld
  b    : Fld
  la   : BitVec 4
  part : BitVec 3
  st   : BitVec 4
  cc   : BitVec 2
  g    : Guard
  deriving DecidableEq, Repr

/-- `vdqnt` (Table 11.5). -/
structure DqntF where
  ty   : BitVec 4
  d    : Fld
  a    : Fld
  b    : Fld
  part : BitVec 4
  st   : BitVec 4
  cc   : BitVec 2
  g    : Guard
  deriving DecidableEq, Repr

/-- `amaxr` (R315). -/
structure AmaxF where
  d   : Fld
  clr : Bool
  cc  : BitVec 2
  g   : Guard
  deriving DecidableEq, Repr

/-- `vshfl` (Table 11.6). -/
structure ShflF where
  ty : BitVec 4
  d  : Fld
  a  : Fld
  b  : Fld
  pe : Bool
  pn : BitVec 3
  gs : BitVec 4
  cc : BitVec 2
  g  : Guard
  deriving DecidableEq, Repr

/-- `vbcast` (Table 11.6). -/
structure BcastF where
  ty  : BitVec 4
  d   : Fld
  a   : Fld
  pos : BitVec 11
  gs  : BitVec 4
  cc  : BitVec 2
  g   : Guard
  deriving DecidableEq, Repr

/-- `vred` and `vscan` (Table 11.6); `ex` is 0 in `vred`. -/
structure RedF where
  ty : BitVec 4
  d  : Fld
  a  : Fld
  ex : Bool
  op : BitVec 3
  gs : BitVec 4
  cc : BitVec 2
  g  : Guard
  deriving DecidableEq, Repr

/-- `vtopk` (Table 11.6). -/
structure TopkF where
  ty : BitVec 4
  d  : Fld
  a  : Fld
  k  : BitVec 11
  lo : Bool
  gs : BitVec 4
  cc : BitVec 2
  g  : Guard
  deriving DecidableEq, Repr

/-- `tcset` (Table 12.1). -/
structure TcsetF where
  n : BitVec 4
  a : Fld
  g : Guard
  deriving DecidableEq, Repr

/-- `tcget` (Table 12.1). -/
structure TcgetF where
  d : Fld
  n : BitVec 4
  g : Guard
  deriving DecidableEq, Repr

/-- `mzero` and `mnorm` (Table 12.1). -/
structure TileF where
  n : BitVec 4
  g : Guard
  deriving DecidableEq, Repr

/-- `mxacc` and `mxsub` (Table 12.1). -/
structure MxF where
  tcd : BitVec 4
  tca : BitVec 4
  oe  : Bool
  ko  : BitVec 6
  tcb : BitVec 4
  la  : BitVec 4
  fe  : Bool
  fb  : BitVec 4
  g   : Guard
  deriving DecidableEq, Repr

/-- `mcvt` (Table 12.1); `ty` is the destination type. -/
structure McvtF where
  ty : BitVec 4
  d  : Fld
  n  : BitVec 4
  la : BitVec 4
  sf : Bool
  rm : BitVec 2
  cc : BitVec 2
  g  : Guard
  deriving DecidableEq, Repr

/-- `mrmask` (Table 12.1). -/
structure MrmaskF where
  d   : Fld
  a   : Fld
  off : BitVec 8
  g   : Guard
  deriving DecidableEq, Repr

/-- `mexp` and `mexp.to` (Table 12.1). -/
structure MexpF where
  n : BitVec 4
  b : Fld
  g : Guard
  deriving DecidableEq, Repr

/-- `wset` (R350). -/
structure WsetF where
  n   : BitVec 3
  a   : Fld
  dom : Bool
  g   : Guard
  deriving DecidableEq, Repr

/-- `winv` (R350). -/
structure WinvF where
  n : BitVec 3
  g : Guard
  deriving DecidableEq, Repr

/-- The memory word (Table 13.1). -/
structure MemF where
  ty    : BitVec 4
  d     : Fld
  scope : BitVec 2
  order : BitVec 3
  off   : BitVec 6
  b     : BitVec 11
  la    : BitVec 4
  sh    : Bool
  op    : BitVec 3
  tw    : BitVec 3
  g     : Guard
  deriving DecidableEq, Repr

/-- `rld` (R358); `n` is the byte count minus 1. -/
structure RldF where
  d   : Fld
  off : BitVec 6
  n   : BitVec 8
  la  : BitVec 4
  g   : Guard
  deriving DecidableEq, Repr

/-- `scopy` (R360). -/
structure ScopyF where
  d  : Fld
  a  : Fld
  b  : Fld
  la : BitVec 4
  g  : Guard
  deriving DecidableEq, Repr

/-- `fence` (R361). -/
structure FenceF where
  scope : BitVec 2
  order : BitVec 3
  g     : Guard
  deriving DecidableEq, Repr

/-- `fbset` (Table 13.4). -/
structure FbsetF where
  n : BitVec 4
  a : Fld
  g : Guard
  deriving DecidableEq, Repr

/-- `bar` (Table 13.7); `barw` has `err` 0 and `bara` has `d` 0. -/
structure BarF where
  d   : Fld
  err : Bool
  n   : BitVec 8
  g   : Guard
  deriving DecidableEq, Repr

/-- `ewait` (R376). -/
structure EwaitF where
  d : Fld
  a : Fld
  e : BitVec 4
  g : Guard
  deriving DecidableEq, Repr

/-- `sysr` (Table 13.9). -/
structure SysrF where
  d : Fld
  n : BitVec 11
  w : BitVec 3
  g : Guard
  deriving DecidableEq, Repr

/-- `sysw` (Table 13.9). -/
structure SyswF where
  a : Fld
  n : BitVec 11
  w : BitVec 3
  g : Guard
  deriving DecidableEq, Repr

/-- `cnt` (Table 13.9). -/
structure CntF where
  d    : Fld
  sync : Bool
  g    : Guard
  deriving DecidableEq, Repr

/-- `push` (R374); `e` is 0 in `spawn` (R375). -/
structure PushF where
  d  : Fld
  a  : Fld
  la : BitVec 4
  e  : BitVec 4
  g  : Guard
  deriving DecidableEq, Repr

/-- What the code found on the 64-byte word a read covers (R46). -/
inductive Ecc where
  | clean
  | corrected
  | uncorrectable
  deriving DecidableEq, Repr

/-- The PCIe AtomicOps of Table 2.2. -/
inductive HostAtomicOp where
  | fetchAdd
  | swap
  | cas
  deriving DecidableEq, Repr

/-- How an aperture access ended on the link (R53). -/
inductive Completion where
  | ok (data : List Byte)
  | unsupportedRequest
  | completerAbort
  deriving DecidableEq, Repr

/-- What a frame carries (R54). -/
inductive FrameKind where
  | uet
  | neighbourDiscovery
  | other
  deriving DecidableEq, Repr

/-- What a request of another device asks for (R60, R61). -/
inductive DomOp where
  | read (len : Nat)
  | write (data : List Byte) (bad : Bool)
  | fetchAdd (x : Word)
  | swap (x : Word)
  | cas (x e : Word)
  deriving DecidableEq, Repr

/-- A request that another device of the domain sends to this one (R60). -/
structure DomReq where
  src   : Nat
  tag   : Nat
  domid : BitVec 16
  va    : Nat
  op    : DomOp
  deriving DecidableEq, Repr

/-- What the other members of a collective operation bring to it, in rank order: each rank's command fields and its
source bytes; `none` for a member that became unreachable (R56, R65, R409). -/
structure Contribution where
  kind  : Nat
  count : Nat
  ty    : Nat
  oper  : Nat
  root  : Nat
  data  : List Byte
  deriving DecidableEq, Repr

/-- Who issues a BAR0 access: the PF, or VF 1 to 16 (R48). -/
inductive Fn where
  | pf
  | vf (n : Nat)
  deriving DecidableEq, Repr

/-- An issue port: one per partition, two on the Tender (R186, R187). -/
inductive Port where
  | part (n : Nat)
  | tender (n : Nat)
  deriving DecidableEq, Repr

/-- One constructor per row of spec/opcode_table.json: the warp instructions, the micro-instructions, then the device events.
(The order is not the table's: Lean's compiled code cannot build a constructor with fields whose place is above 244, and
the words that the decoder builds come first for that reason.) -/
inductive Instr where
  -- control (10)
  | bra (f : BraF)
  | brc (f : BrcF)
  | call (f : BraF)
  | ret (g : Guard)
  | jmpi (f : JmpiF)
  | loop (f : LoopF)
  | exit (g : Guard)
  | yield (g : Guard)
  | spin (g : Guard)
  | reconv (g : Guard)
  | nop (g : Guard)
  | rep (f : RepF)
  | trap (f : CodeF)
  | bpt (f : CodeF)
  | eret (g : Guard)
  -- uniform scalar (10)
  | kmov (f : Alu1)
  | kmovi (f : AluImm)
  | kadd (f : Alu2)
  | ksub (f : Alu2)
  | kmul (f : Alu2)
  | kmad (f : Alu3)
  | kdiv (f : Alu2)
  | kmod (f : Alu2)
  | kand (f : Alu2)
  | kor (f : Alu2)
  | kxor (f : Alu2)
  | kshl (f : Alu2)
  | kshr (f : Alu2)
  | ksar (f : Alu2)
  | kcmp (f : AluCmp)
  | ksel (f : Alu3)
  | kmin (f : Alu2)
  | kmax (f : Alu2)
  | kclz (f : Alu1)
  | kpopc (f : Alu1)
  -- vector integer (10)
  | vadd (f : Alu2)
  | vsub (f : Alu2)
  | vmul (f : Alu2)
  | vmulh (f : Alu2)
  | vmad (f : Alu3)
  | vdiv (f : Alu2)
  | vadds (f : Alu2)
  | vsubs (f : Alu2)
  | vmin (f : Alu2)
  | vmax (f : Alu2)
  | vabs (f : Alu1)
  | vneg (f : Alu1)
  | vand (f : Alu2)
  | vor (f : Alu2)
  | vxor (f : Alu2)
  | vnot (f : Alu1)
  | vshl (f : Alu2)
  | vshr (f : Alu2)
  | vsar (f : Alu2)
  | vrot (f : Alu2)
  | vclz (f : Alu1)
  | vpopc (f : Alu1)
  | vcmp (f : AluCmp)
  | vsel (f : Alu3)
  | vmov (f : Alu1)
  | vmovi (f : AluImm)
  -- register management (10)
  | rgn (f : RgnF)
  | rgrow (f : DAF)
  | rshrink (f : DAF)
  | vmovx (f : MovxF)
  | vstx (f : ABF)
  | rkill (f : RkillF)
  -- vector floating point (11)
  | vfadd (f : Alu2)
  | vfsub (f : Alu2)
  | vfmul (f : Alu2)
  | vfma (f : Alu3)
  | vfms (f : Alu3)
  | vfnma (f : Alu3)
  | vfmin (f : Alu2)
  | vfmax (f : Alu2)
  | vfabs (f : Alu1)
  | vfneg (f : Alu1)
  | vfcmp (f : AluCmp)
  | vfclass (f : AluClass)
  | vfrcp (f : Long1)
  | vfrsq (f : Long1)
  | vfsqrt (f : Long1)
  | vfdiv (f : Long2)
  | vfexp2 (f : Long1)
  | vflog2 (f : Long1)
  | vfsin (f : Long1)
  | vfcos (f : Long1)
  | vftanh (f : Long1)
  | vfsig (f : Long1)
  -- conversion (11)
  | vcvt (f : CvtF)
  | vcvti (f : CvtiF)
  | vcvtf (f : CvtfF)
  | vqnt (f : QntF)
  | vdqnt (f : DqntF)
  | amaxr (f : AmaxF)
  | amaxc (g : Guard)
  -- cross-lane (11)
  | vshfl (f : ShflF)
  | vbcast (f : BcastF)
  | vperm (f : Alu3)
  | vpack (f : Alu1)
  | vunpk (f : Alu1)
  | vred (f : RedF)
  | vscan (f : RedF)
  | vtopk (f : TopkF)
  | vballot (f : Alu1)
  | vmatch (f : Alu1)
  -- matrix mode (12)
  | mmodeOn
  | mmodeOff
  | tcset (f : TcsetF)
  | tcget (f : TcgetF)
  | mzero (f : TileF)
  | mxacc (f : MxF)
  | mxsub (f : MxF)
  | mnorm (f : TileF)
  | mcvt (f : McvtF)
  | mrmask (f : MrmaskF)
  | mexp (f : MexpF)
  | mexpTo (f : MexpF)
  -- access slice (13)
  | wset (f : WsetF)
  | winv (f : WinvF)
  | ldq (f : MemF)
  | lda (f : MemF)
  | sta (f : MemF)
  | stq (f : MemF)
  | lds (f : MemF)
  | sts (f : MemF)
  | ldacq (f : MemF)
  | strel (f : MemF)
  | atom (f : MemF)
  | atomq (f : MemF)
  | redl2 (f : MemF)
  | gatl2 (f : MemF)
  | mcast (f : MemF)
  | rld (f : RldF)
  | pref (f : MemF)
  | cflushL1 (f : MemF)
  | cflushL2 (f : MemF)
  | scopy (f : ScopyF)
  | fence (f : FenceF)
  | iinv (f : ABF)
  | isync (g : Guard)
  | l1res (f : DAF)
  | tide (f : AF)
  | fbset (f : FbsetF)
  | qpush (f : DAF)
  | qpop (f : DAF)
  | qdrop (f : AF)
  | qflush (f : AF)
  | qstat (f : DAF)
  | qwait (f : AF)
  | bar (f : BarF)
  | bara (f : BarF)
  | barw (f : BarF)
  | ewait (f : EwaitF)
  | sysr (f : SysrF)
  | sysw (f : SyswF)
  | park (f : AF)
  | cnt (f : CntF)
  | push (f : PushF)
  | spawn (f : PushF)
  -- Lighter words (14)
  | xend
  | xli (d : BitVec 4) (i : BitVec 15)
  | xlsh (d : BitVec 4) (i : BitVec 15)
  | xadd (d a b : BitVec 4) (i : BitVec 15)
  | xsub (d a b : BitVec 4)
  | xmul (d a b : BitVec 4)
  | xand (d a b : BitVec 4)
  | xshl (d a : BitVec 4) (n : BitVec 6)
  | xshr (d a : BitVec 4) (n : BitVec 6)
  | xpopc (d a : BitVec 4)
  | xld (d a : BitVec 4) (z : BitVec 2) (i : BitVec 15)
  | xbr (c : BitVec 2) (a b : BitVec 4) (i : BitVec 15)
  | xblk (i : BitVec 15)
  | xput (d a b : BitVec 4) (i : BitVec 15)
  | xmask (a : BitVec 4)
  | xchk (a b : BitVec 4)
  | xemit (a : BitVec 4)
  -- Pilot words (14)
  | pend (n : BitVec 1)
  | pli (d : BitVec 3) (i : BitVec 19)
  | padd (d a b : BitVec 3) (i : BitVec 19)
  | psub (d a b : BitVec 3)
  | pmul (d a b : BitVec 3)
  | pand (d a b : BitVec 3)
  | pxor (d a b : BitVec 3)
  | pshr (d a : BitVec 3) (n : BitVec 6)
  | pshl (d a : BitVec 3) (n : BitVec 6)
  | pld (d : BitVec 3) (z : BitVec 2) (o : BitVec 8)
  | pldx (d a : BitVec 3) (z : BitVec 2) (o : BitVec 8)
  | pbr (c : BitVec 2) (a b : BitVec 3) (i : BitVec 19)
  | pnext (a : BitVec 3)
  | pwr (a : BitVec 3) (z : BitVec 2) (o : BitVec 8)
  -- module, power and reset (01)
  | islandIdleEntry (island : Nat)
  | islandWake (island : Nat)
  | islandWakeComplete (island : Nat)
  | bringupStep (hbmOk : Bool)
  -- links (02)
  | apertureCompletion (tag : Nat) (c : Completion)
  | completionTimeout (tag : Nat)
  | retransmitTimer (packet : Nat)
  | domainAck (tag : Nat) (old : Word) (bad : Bool)
  | domainNack (tag : Nat)
  | rldReply (tag : Nat) (data : List Byte) (bad : Bool)
  -- host interface and scheduler (03, 04)
  | recordFetch (area : Nat)
  | leaseWalk (area id : Nat)
  | msixMessage (area : Nat)
  | restoreComplete (team : Nat)
  | ageing (task : Nat)
  | saveComplete (team : Nat)
  | engineSuspend (team e : Nat)
  | parkTeam (team : Nat)
  | parkTimeout (team : Nat)
  | teamRetire (team : Nat)
  -- memory hierarchy (05, 06)
  | dirtyWritebackTimer (core : Nat)
  | sliceLoad (slice : Nat)
  | sliceStore (slice : Nat)
  | sliceAtomic (slice : Nat)
  | sliceReduce (slice : Nat)
  | sliceGather (slice : Nat)
  | hbmFillDone (slice line : Nat) (lo hi : Ecc)
  | replyInject (slice line : Nat)
  | replyReceive (core n : Nat)
  | deadLineInvalidate (slice : Nat)
  | phaseApply (slice : Nat)
  | translationWalkDone (core asid va : Nat)
  -- core (07)
  | clauseIssue (core : Nat) (port : Port)
  | clauseSuspend (core : Nat) (port : Port)
  | spinTimeout (team warp : Nat)
  | decouplingDeadlock (team : Nat)
  | trapDelivery (team warp : Nat)
  | gridGrant (core part : Nat)
  | gridStepDone (core part : Nat)
  | longLatencyComplete (team warp pos : Nat)
  | queueEntryReady (core n : Nat)
  -- engines (14)
  | engineCommandStart (team e : Nat)
  | commandComplete (team e : Nat)
  | copyLinear (team : Nat)
  | rowGather (team : Nat)
  | lighterRun (team : Nat)
  | lighterLimit (core : Nat)
  | pilotWalk (team : Nat)
  | pilotResultDelivery (team : Nat)
  | av1Decode (team unit : Nat)
  | av1Frame (team unit : Nat)
  | spawnRecord (team : Nat)
  -- memory (06)
  | storeAcknowledged (core : Nat)
  -- events that arrive from outside: mailbox commands, host accesses, collective contributions
  | powerCapWrite (v : Word)
  | powerCapStepDown (avgW : Nat)
  | powerCapStepUp (avgW : Nat)
  | vfFunctionLevelReset (vf : Nat)
  | readIdentityCertificate (w : Word)
  | readAliasCertificate (w : Word)
  | attest (w : Word)
  | raiseFuseSvn (w : Word)
  | readConfiguration (w : Word)
  | imageBegin (w : Word)
  | imageChunk (w : Word)
  | imageCommit (w : Word)
  | mailboxBadCode (w : Word)
  | patrolScrub (pa : Nat) (lo hi : Ecc)
  | hostBar2Read (pa len : Nat)
  | hostBar2Write (pa : Nat) (data : List Byte)
  | hostAtomic (op : HostAtomicOp) (pa : Nat) (x e : Word)
  | atsInvalidation (page : Nat)
  | atsTranslationReply (page : Nat) (ok : Bool)
  | portLinkUp (port : Nat) (llr credit : Bool)
  | portLinkDown (port : Nat)
  | frameReceive (port : Nat) (k : FrameKind)
  | domainRequest (r : DomReq)
  | domainConfigWrite (v : Word)
  | subTailWrite (area : Nat) (v : Word)
  | subCtlWrite (fn : Fn) (area : Nat) (v : Word)
  | cplHeadWrite (area : Nat) (v : Word)
  | leaseReleaseWrite (fn : Fn) (v : Word)
  | tidePhaseWrite (v : Word)
  | tlbInvalidate (v : Word)
  | faultResolve (v : Word)
  | counterClear (off : Nat)
  | collListsWrite (v : Word)
  | registerWrite (fn : Fn) (off : Nat) (v : Word)
  | allReduce (team : Nat) (members : List (Option Contribution))
  | reduceScatter (team : Nat) (members : List (Option Contribution))
  | reduce (team : Nat) (members : List (Option Contribution))
  | allGather (team : Nat) (members : List (Option Contribution))
  | broadcast (team : Nat) (members : List (Option Contribution))
  | collectiveBarrier (team : Nat) (members : List (Option Contribution))
  -- events without arguments
  -- module, power and reset (01)
  | supplyUndervoltage
  | supplyOvervoltage
  | supplyRestored
  | thermalHold
  | thermalRelease
  | thermalStop
  | toleranceRecompute
  | coldReset
  | deviceReset
  | thermClear
  | pfFunctionLevelReset
  | mailboxCommandDone
  -- host interface and scheduler (03, 04)
  | killTask
  | withdrawRecord
  | resumeTeam
  | killTeam
  | preemptTeam
  | preemptTask
  | placement
  | continuationAccept
  -- memory hierarchy (05, 06)
  | tideLoad
  | tideLoadDone
  | tideBasic
  | tlbInvalidateDone
  | faultRecordWrite
  deriving DecidableEq, Repr

end Sys2Proof
end

