-- ==== Sys2Proof/WellFormed.lean ====
section
/-! DEFINITION. Well-formed instructions: the type codes, variant codes and zero fields that the spec allows each word
(R261, R263, R264 and the instruction chapters). A word that breaks one raises "reserved opcode". A device event is
always well formed. -/

namespace Sys2Proof

/-- Types 0 to 7: the integer types (Table 8.1). -/
def Ty.int (t : BitVec 4) : Bool := t.toNat < 8

/-- The integer types and b64. -/
def Ty.intB (t : BitVec 4) : Bool := Ty.int t || t == 13

/-- f16, bf16 and f32. -/
def Ty.float (t : BitVec 4) : Bool := t == 8 || t == 9 || t == 10

/-- The quantised code types q4 and q8. -/
def Ty.quant (t : BitVec 4) : Bool := t == 11 || t == 12

/-- The integer types and the quantised codes. -/
def Ty.code (t : BitVec 4) : Bool := Ty.int t || Ty.quant t

/-- Every type but the reserved codes 14 and 15 (R221). -/
def Ty.any (t : BitVec 4) : Bool := t.toNat < 14

/-- Every type but b64 and the reserved codes. -/
def Ty.numeric (t : BitVec 4) : Bool := t.toNat < 13

/-- log2 of the width of a type in bits (Table 8.1). -/
def Ty.log2w (t : BitVec 4) : Nat :=
  match t.toNat with
  | 0 | 4 | 12 => 3
  | 1 | 5 | 8 | 9 => 4
  | 2 | 6 | 10 => 5
  | 11 => 2
  | _ => 6

/-- The width of a type in bits (Table 8.1). -/
def Ty.width (t : BitVec 4) : Nat := 2 ^ Ty.log2w t

/-- log2 of the number of positions of a register (R316). -/
def Ty.log2N (t : BitVec 4) : Nat := 11 - Ty.log2w t

/-- The conversion ratio r of R307. -/
def Ty.ratio (s d : BitVec 4) : Nat :=
  max (Ty.width s) (Ty.width d) / min (Ty.width s) (Ty.width d)

/-- Field values 1728 to 1735 name p0 to p7 (Table 9.4). -/
def Fld.isPred (f : Fld) : Bool := 1728 ≤ f.toNat && f.toNat ≤ 1735

/-- Field values 1664 to 1727 name k0 to k63 (Table 9.4). -/
def Fld.isK (f : Fld) : Bool := 1664 ≤ f.toNat && f.toNat ≤ 1727

/-- Access types of the memory instructions (R349). -/
def Ty.mem (t : BitVec 4) : Bool := Ty.any t && t != 11

/-- The types of an atomic operation code (R354). -/
def Ty.atomic (op : BitVec 3) (t : BitVec 4) : Bool :=
  let i := t == 2 || t == 3 || t == 6 || t == 7
  match op.toNat with
  | 0 | 1 | 2 => i || Ty.float t
  | 3 | 4 | 5 => i
  | _ => i || t == 13

/-- Engine queue numbers 5 to 7 are reserved (Table 13.8). -/
def engineOk (e : BitVec 4) : Bool := e.toNat < 5 || 8 ≤ e.toNat

/-- A uniform scalar word: uniform bit 1, no consumer count (R263, R264). -/
def Alu1.wfK (f : Alu1) (ty : BitVec 4 → Bool) : Bool := f.uni && f.cc == 0 && ty f.ty

/-- A uniform scalar word with two sources. -/
def Alu2.wfK (f : Alu2) (ty : BitVec 4 → Bool) : Bool := f.uni && f.cc == 0 && ty f.ty

/-- A uniform scalar word with three sources. -/
def Alu3.wfK (f : Alu3) (ty : BitVec 4 → Bool) : Bool := f.uni && f.cc == 0 && ty f.ty

/-- A comparison: six conditions on integers; `.any` needs a predicate destination and no uniform form (R292, R294, R303). -/
def AluCmp.wfV (f : AluCmp) (ty : BitVec 4 → Bool) (conds : Nat) : Bool :=
  ty f.ty && f.cond.toNat < conds && (!f.any || (Fld.isPred f.d && !f.uni))

/-- `vfclass`: a predicate destination takes a class mask that is not 0, any other destination takes none (R304); the uniform form with a predicate is judged
as log entry 109 has it. -/
def AluClass.wf (f : AluClass) : Bool :=
  Ty.float f.ty && (if Fld.isPred f.d then f.mask != 0 else f.mask == 0 && !f.any) && (!f.any || !f.uni)

/-- The group size of a cross-lane word is at most the number of positions (R316). -/
def gsOk (gs t : BitVec 4) : Bool := gs.toNat ≤ Ty.log2N t

/-- `vred` and `vscan`: operation codes 0 to 5, the bitwise ones not on floating-point types; a reduction to a k
register takes the whole register (R318, R319). -/
def RedF.wf (f : RedF) (scan : Bool) : Bool :=
  Ty.numeric f.ty && gsOk f.gs f.ty && f.op.toNat < 6 && (!Ty.float f.ty || f.op.toNat < 3) &&
    (scan || (!f.ex && (!Fld.isK f.d || f.gs.toNat == Ty.log2N f.ty)))

/-- `vcvt`: from a floating-point type to any numeric type; `sf` only with a floating-point destination (R308 to R310). -/
def CvtF.wf (f : CvtF) : Bool :=
  Ty.numeric f.ty && Ty.float f.st && f.part.toNat < Ty.ratio f.st f.ty && (!f.sf || Ty.float f.ty)

/-- A memory word that carries no scope, order, shared flag or operation (R351). -/
def MemF.wfPlain (f : MemF) : Bool :=
  Ty.mem f.ty && f.scope == 0 && f.order == 0 && !f.sh && f.op == 0

/-- A word with the shared flag names window 0 (R348). -/
def MemF.wfSh (f : MemF) : Bool := !f.sh || f.tw == 0

/-- A prefetch or a clean-and-invalidate uses the address fields and the operation code only. -/
def MemF.wfAddr (f : MemF) (op : BitVec 3) : Bool :=
  f.ty == 0 && f.d == 0 && f.scope == 0 && f.order == 0 && !f.sh && f.op == op && f.la == 0

/-- An atomic: an order, an operation with its types (R354). -/
def MemF.wfAtomic (f : MemF) : Bool := f.order.toNat ≤ 4 && Ty.atomic f.op f.ty && f.wfSh

/-- The checks of a well-formed instruction. For `mxacc` and `mxsub` a format or origin number beside a clear enable is no fault (DEDUCED, log entry 133). -/
def Instr.wf : Instr → Bool
  | .kmov f => f.wfK Ty.intB
  | .kmovi f => f.uni && f.cc == 0 && Ty.intB f.ty
  | .kadd f | .ksub f | .kmul f | .kdiv f | .kmod f | .kshl f | .kshr f | .ksar f | .kmin f | .kmax f => f.wfK Ty.int
  | .kand f | .kor f | .kxor f => f.wfK Ty.intB
  | .kmad f => f.wfK Ty.int
  | .ksel f => f.wfK Ty.intB
  | .kcmp f => f.uni && f.cc == 0 && Ty.int f.ty && !f.any && f.cond.toNat < 6
  | .kclz f | .kpopc f => f.wfK Ty.int
  | .vadd f | .vsub f | .vmul f | .vmulh f | .vdiv f | .vadds f | .vsubs f | .vmin f | .vmax f
  | .vshl f | .vshr f | .vsar f | .vrot f => Ty.int f.ty
  | .vmad f => Ty.int f.ty
  | .vabs f | .vneg f | .vclz f | .vpopc f => Ty.int f.ty
  | .vand f | .vor f | .vxor f => Ty.intB f.ty
  | .vnot f => Ty.intB f.ty
  | .vcmp f => f.wfV Ty.int 6
  | .vsel f => f.ty.toNat < 11 || f.ty == 13
  | .vmov f => Ty.any f.ty
  | .vmovi f => Ty.intB f.ty
  | .rgrow f | .rshrink f => 1 ≤ f.a.toNat && f.a.toNat ≤ 47
  | .vfadd f | .vfsub f | .vfmul f | .vfmin f | .vfmax f => Ty.float f.ty
  | .vfma f | .vfms f | .vfnma f => Ty.float f.ty
  | .vfabs f | .vfneg f => Ty.float f.ty
  | .vfcmp f => f.wfV Ty.float 8
  | .vfclass f => f.wf
  | .vfrcp f | .vfrsq f | .vfsqrt f | .vfexp2 f | .vflog2 f | .vfsin f | .vfcos f | .vftanh f | .vfsig f => Ty.float f.ty
  | .vfdiv f => Ty.float f.ty
  | .vcvt f => f.wf
  | .vcvti f => Ty.code f.ty && Ty.code f.st && f.part.toNat < Ty.ratio f.st f.ty
  | .vcvtf f => Ty.float f.ty && Ty.code f.st && f.part.toNat < Ty.ratio f.st f.ty
  | .vqnt f => Ty.quant f.ty && Ty.float f.st && f.part.toNat < Ty.ratio f.st f.ty
  | .vdqnt f => Ty.float f.ty && Ty.quant f.st && f.part.toNat < Ty.ratio f.st f.ty
  | .vshfl f => Ty.any f.ty && gsOk f.gs f.ty && (f.pe || f.pn == 0)
  | .vbcast f => Ty.any f.ty && gsOk f.gs f.ty && f.pos.toNat < 2 ^ f.gs.toNat
  | .vperm f => f.ty == 13 && !f.uni
  | .vpack f | .vunpk f => Ty.any f.ty && !f.uni
  | .vred f => f.wf false
  | .vscan f => f.wf true
  | .vtopk f => Ty.numeric f.ty && gsOk f.gs f.ty
  | .vballot f | .vmatch f => f.ty == 13 && !f.uni
  | .mcvt f => f.ty.toNat ≤ 10 && (!f.sf || Ty.float f.ty)
  | .mrmask f => f.off.toNat % 4 == 0
  | .ldq f | .lda f | .sta f | .stq f => f.wfPlain
  | .lds f | .sts f => f.wfPlain && f.tw == 0
  | .ldacq f | .strel f => Ty.mem f.ty && f.order == 0 && f.op == 0 && f.wfSh
  | .atom f | .atomq f => f.wfAtomic
  | .redl2 f => f.d == 0 && f.op.toNat < 6 && Ty.atomic f.op f.ty && f.scope == 0 && f.order == 0 && !f.sh
  | .gatl2 f => 4 ≤ f.ty.toNat && f.ty.toNat ≤ 7 && f.scope == 0 && f.order == 0 && !f.sh
  | .mcast f => f.ty == 0 && f.d == 0 && f.scope == 0 && f.order == 0 && !f.sh && f.op == 0
  | .pref f | .cflushL1 f => f.wfAddr 0
  | .cflushL2 f => f.wfAddr 1
  | .fence f => 1 ≤ f.order.toNat && f.order.toNat ≤ 4
  | .bara f => f.d == 0
  | .barw f => !f.err
  | .ewait f => engineOk f.e
  | .sysr f => f.w.toNat < 4 || f.w == 7
  | .sysw f => f.w.toNat < 4 || f.w == 7
  | .push f => f.e != 4 && engineOk f.e
  | .spawn f => f.e == 0
  | .xput _ _ _ i => 1 ≤ i.toNat && i.toNat ≤ 128
  | _ => true

end Sys2Proof
end

