-- ==== Sys2Proof/Decode.lean ====
section
/-! DEFINITION. Decoding and encoding. A decoded word is accepted exactly when its instruction is well formed and encodes back to the
same word, so that a non-zero unused field is refused as R264 says. -/

namespace Sys2Proof

/-- Bits `[hi:lo]` of a word (R5), as a value of the named width. -/
def Dec.fld (w : Word) (lo width : Nat) : BitVec width := w.extractLsb' lo width

/-- One bit of a word. -/
def Dec.bit (w : Word) (n : Nat) : Bool := w.getLsbD n

/-- A Bool as one bit. -/
def Dec.b1 (b : Bool) : BitVec 1 := if b then 1 else 0

/-- The Alu1 fields below the opcode, from bit 54 down. -/
def Dec.packAlu1 (op : BitVec 9) (f : Alu1) : Word :=
  op ++ f.ty ++ f.d ++ f.a ++ 0#22 ++ f.cc ++ f.g.p ++ Dec.b1 f.g.neg ++ Dec.b1 f.uni

/-- The Alu1 fields of a word. -/
def Dec.getAlu1 (w : Word) : Alu1 :=
  { ty := Dec.fld w 51 4, d := Dec.fld w 40 11, a := Dec.fld w 29 11, cc := Dec.fld w 5 2, uni := Dec.bit w 0, g := { p := Dec.fld w 2 3, neg := Dec.bit w 1 } }

/-- The Alu2 fields below the opcode, from bit 54 down. -/
def Dec.packAlu2 (op : BitVec 9) (f : Alu2) : Word :=
  op ++ f.ty ++ f.d ++ f.a ++ f.b ++ 0#11 ++ f.cc ++ f.g.p ++ Dec.b1 f.g.neg ++ Dec.b1 f.uni

/-- The Alu2 fields of a word. -/
def Dec.getAlu2 (w : Word) : Alu2 :=
  { ty := Dec.fld w 51 4, d := Dec.fld w 40 11, a := Dec.fld w 29 11, b := Dec.fld w 18 11, cc := Dec.fld w 5 2, uni := Dec.bit w 0, g := { p := Dec.fld w 2 3, neg := Dec.bit w 1 } }

/-- The Alu3 fields below the opcode, from bit 54 down. -/
def Dec.packAlu3 (op : BitVec 9) (f : Alu3) : Word :=
  op ++ f.ty ++ f.d ++ f.a ++ f.b ++ f.c ++ f.cc ++ f.g.p ++ Dec.b1 f.g.neg ++ Dec.b1 f.uni

/-- The Alu3 fields of a word. -/
def Dec.getAlu3 (w : Word) : Alu3 :=
  { ty := Dec.fld w 51 4, d := Dec.fld w 40 11, a := Dec.fld w 29 11, b := Dec.fld w 18 11, c := Dec.fld w 7 11, cc := Dec.fld w 5 2, uni := Dec.bit w 0, g := { p := Dec.fld w 2 3, neg := Dec.bit w 1 } }

/-- The AluImm fields below the opcode, from bit 54 down. -/
def Dec.packAluImm (op : BitVec 9) (f : AluImm) : Word :=
  op ++ f.ty ++ f.d ++ f.imm ++ f.cc ++ f.g.p ++ Dec.b1 f.g.neg ++ Dec.b1 f.uni

/-- The AluImm fields of a word. -/
def Dec.getAluImm (w : Word) : AluImm :=
  { ty := Dec.fld w 51 4, d := Dec.fld w 40 11, imm := Dec.fld w 7 33, cc := Dec.fld w 5 2, uni := Dec.bit w 0, g := { p := Dec.fld w 2 3, neg := Dec.bit w 1 } }

/-- The AluCmp fields below the opcode, from bit 54 down. -/
def Dec.packAluCmp (op : BitVec 9) (f : AluCmp) : Word :=
  op ++ f.ty ++ f.d ++ f.a ++ f.b ++ 0#7 ++ Dec.b1 f.any ++ f.cond ++ f.cc ++ f.g.p ++ Dec.b1 f.g.neg ++ Dec.b1 f.uni

/-- The AluCmp fields of a word. -/
def Dec.getAluCmp (w : Word) : AluCmp :=
  { ty := Dec.fld w 51 4, d := Dec.fld w 40 11, a := Dec.fld w 29 11, b := Dec.fld w 18 11, any := Dec.bit w 10, cond := Dec.fld w 7 3, cc := Dec.fld w 5 2, uni := Dec.bit w 0, g := { p := Dec.fld w 2 3, neg := Dec.bit w 1 } }

/-- The AluClass fields below the opcode, from bit 54 down. -/
def Dec.packAluClass (op : BitVec 9) (f : AluClass) : Word :=
  op ++ f.ty ++ f.d ++ f.a ++ 0#11 ++ Dec.b1 f.any ++ f.mask ++ f.cc ++ f.g.p ++ Dec.b1 f.g.neg ++ Dec.b1 f.uni

/-- The AluClass fields of a word. -/
def Dec.getAluClass (w : Word) : AluClass :=
  { ty := Dec.fld w 51 4, d := Dec.fld w 40 11, a := Dec.fld w 29 11, any := Dec.bit w 17, mask := Dec.fld w 7 10, cc := Dec.fld w 5 2, uni := Dec.bit w 0, g := { p := Dec.fld w 2 3, neg := Dec.bit w 1 } }

/-- The Long1 fields below the opcode, from bit 54 down. -/
def Dec.packLong1 (op : BitVec 9) (f : Long1) : Word :=
  op ++ f.ty ++ f.d ++ f.a ++ 0#11 ++ f.la ++ 0#7 ++ f.cc ++ f.g.p ++ Dec.b1 f.g.neg ++ 0#1

/-- The Long1 fields of a word. -/
def Dec.getLong1 (w : Word) : Long1 :=
  { ty := Dec.fld w 51 4, d := Dec.fld w 40 11, a := Dec.fld w 29 11, la := Dec.fld w 14 4, cc := Dec.fld w 5 2, g := { p := Dec.fld w 2 3, neg := Dec.bit w 1 } }

/-- The Long2 fields below the opcode, from bit 54 down. -/
def Dec.packLong2 (op : BitVec 9) (f : Long2) : Word :=
  op ++ f.ty ++ f.d ++ f.a ++ f.b ++ f.la ++ 0#7 ++ f.cc ++ f.g.p ++ Dec.b1 f.g.neg ++ 0#1

/-- The Long2 fields of a word. -/
def Dec.getLong2 (w : Word) : Long2 :=
  { ty := Dec.fld w 51 4, d := Dec.fld w 40 11, a := Dec.fld w 29 11, b := Dec.fld w 18 11, la := Dec.fld w 14 4, cc := Dec.fld w 5 2, g := { p := Dec.fld w 2 3, neg := Dec.bit w 1 } }

/-- The BraF fields below the opcode, from bit 54 down. -/
def Dec.packBraF (op : BitVec 9) (f : BraF) : Word :=
  op ++ 0#14 ++ Dec.b1 f.all ++ f.disp ++ 0#2 ++ f.g.p ++ Dec.b1 f.g.neg ++ 0#1

/-- The BraF fields of a word. -/
def Dec.getBraF (w : Word) : BraF :=
  { all := Dec.bit w 40, disp := Dec.fld w 7 33, g := { p := Dec.fld w 2 3, neg := Dec.bit w 1 } }

/-- The BrcF fields below the opcode, from bit 54 down. -/
def Dec.packBrcF (op : BitVec 9) (f : BrcF) : Word :=
  op ++ 0#4 ++ f.tdisp ++ f.jdisp ++ 0#2 ++ f.g.p ++ Dec.b1 f.g.neg ++ 0#1

/-- The BrcF fields of a word. -/
def Dec.getBrcF (w : Word) : BrcF :=
  { tdisp := Dec.fld w 29 22, jdisp := Dec.fld w 7 22, g := { p := Dec.fld w 2 3, neg := Dec.bit w 1 } }

/-- The Guard fields below the opcode, from bit 54 down. -/
def Dec.packGuard (op : BitVec 9) (f : Guard) : Word :=
  op ++ 0#50 ++ f.p ++ Dec.b1 f.neg ++ 0#1

/-- The Guard fields of a word. -/
def Dec.getGuard (w : Word) : Guard :=
  { p := Dec.fld w 2 3, neg := Dec.bit w 1 }

/-- The JmpiF fields below the opcode, from bit 54 down. -/
def Dec.packJmpiF (op : BitVec 9) (f : JmpiF) : Word :=
  op ++ 0#14 ++ Dec.b1 f.all ++ f.a ++ 0#24 ++ f.g.p ++ Dec.b1 f.g.neg ++ 0#1

/-- The JmpiF fields of a word. -/
def Dec.getJmpiF (w : Word) : JmpiF :=
  { all := Dec.bit w 40, a := Dec.fld w 29 11, g := { p := Dec.fld w 2 3, neg := Dec.bit w 1 } }

/-- The LoopF fields below the opcode, from bit 54 down. -/
def Dec.packLoopF (op : BitVec 9) (f : LoopF) : Word :=
  op ++ 0#4 ++ f.d ++ f.disp ++ 0#2 ++ f.g.p ++ Dec.b1 f.g.neg ++ 0#1

/-- The LoopF fields of a word. -/
def Dec.getLoopF (w : Word) : LoopF :=
  { d := Dec.fld w 40 11, disp := Dec.fld w 7 33, g := { p := Dec.fld w 2 3, neg := Dec.bit w 1 } }

/-- The CodeF fields below the opcode, from bit 54 down. -/
def Dec.packCodeF (op : BitVec 9) (f : CodeF) : Word :=
  op ++ 0#37 ++ f.n ++ 0#2 ++ f.g.p ++ Dec.b1 f.g.neg ++ 0#1

/-- The CodeF fields of a word. -/
def Dec.getCodeF (w : Word) : CodeF :=
  { n := Dec.fld w 7 11, g := { p := Dec.fld w 2 3, neg := Dec.bit w 1 } }

/-- The RepF fields below the opcode, from bit 54 down. -/
def Dec.packRepF (op : BitVec 9) (f : RepF) : Word :=
  op ++ f.n ++ f.sd ++ f.sa ++ f.sb ++ f.sc ++ 0#17

/-- The RepF fields of a word. -/
def Dec.getRepF (w : Word) : RepF :=
  { n := Dec.fld w 49 6, sd := Dec.fld w 41 8, sa := Dec.fld w 33 8, sb := Dec.fld w 25 8, sc := Dec.fld w 17 8 }

/-- The RgnF fields below the opcode, from bit 54 down. -/
def Dec.packRgnF (op : BitVec 9) (f : RgnF) : Word :=
  op ++ 0#15 ++ f.a ++ 0#3 ++ f.count ++ 0#10 ++ Dec.b1 f.new ++ 0#2 ++ f.g.p ++ Dec.b1 f.g.neg ++ 0#1

/-- The RgnF fields of a word. -/
def Dec.getRgnF (w : Word) : RgnF :=
  { a := Dec.fld w 29 11, count := Dec.fld w 18 8, new := Dec.bit w 7, g := { p := Dec.fld w 2 3, neg := Dec.bit w 1 } }

/-- The DAF fields below the opcode, from bit 54 down. -/
def Dec.packDAF (op : BitVec 9) (f : DAF) : Word :=
  op ++ 0#4 ++ f.d ++ f.a ++ 0#24 ++ f.g.p ++ Dec.b1 f.g.neg ++ 0#1

/-- The DAF fields of a word. -/
def Dec.getDAF (w : Word) : DAF :=
  { d := Dec.fld w 40 11, a := Dec.fld w 29 11, g := { p := Dec.fld w 2 3, neg := Dec.bit w 1 } }

/-- The ABF fields below the opcode, from bit 54 down. -/
def Dec.packABF (op : BitVec 9) (f : ABF) : Word :=
  op ++ 0#15 ++ f.a ++ f.b ++ 0#13 ++ f.g.p ++ Dec.b1 f.g.neg ++ 0#1

/-- The ABF fields of a word. -/
def Dec.getABF (w : Word) : ABF :=
  { a := Dec.fld w 29 11, b := Dec.fld w 18 11, g := { p := Dec.fld w 2 3, neg := Dec.bit w 1 } }

/-- The AF fields below the opcode, from bit 54 down. -/
def Dec.packAF (op : BitVec 9) (f : AF) : Word :=
  op ++ 0#15 ++ f.a ++ 0#24 ++ f.g.p ++ Dec.b1 f.g.neg ++ 0#1

/-- The AF fields of a word. -/
def Dec.getAF (w : Word) : AF :=
  { a := Dec.fld w 29 11, g := { p := Dec.fld w 2 3, neg := Dec.bit w 1 } }

/-- The MovxF fields below the opcode, from bit 54 down. -/
def Dec.packMovxF (op : BitVec 9) (f : MovxF) : Word :=
  op ++ 0#4 ++ f.d ++ f.a ++ 0#22 ++ f.cc ++ f.g.p ++ Dec.b1 f.g.neg ++ 0#1

/-- The MovxF fields of a word. -/
def Dec.getMovxF (w : Word) : MovxF :=
  { d := Dec.fld w 40 11, a := Dec.fld w 29 11, cc := Dec.fld w 5 2, g := { p := Dec.fld w 2 3, neg := Dec.bit w 1 } }

/-- The RkillF fields below the opcode, from bit 54 down. -/
def Dec.packRkillF (op : BitVec 9) (f : RkillF) : Word :=
  op ++ 0#15 ++ f.a ++ 0#3 ++ f.count ++ 0#13 ++ f.g.p ++ Dec.b1 f.g.neg ++ 0#1

/-- The RkillF fields of a word. -/
def Dec.getRkillF (w : Word) : RkillF :=
  { a := Dec.fld w 29 11, count := Dec.fld w 18 8, g := { p := Dec.fld w 2 3, neg := Dec.bit w 1 } }

/-- The CvtF fields below the opcode, from bit 54 down. -/
def Dec.packCvtF (op : BitVec 9) (f : CvtF) : Word :=
  op ++ f.ty ++ f.d ++ f.a ++ 0#7 ++ f.part ++ f.la ++ Dec.b1 f.sf ++ f.rm ++ f.st ++ f.cc ++ f.g.p ++ Dec.b1 f.g.neg ++ 0#1

/-- The CvtF fields of a word. -/
def Dec.getCvtF (w : Word) : CvtF :=
  { ty := Dec.fld w 51 4, d := Dec.fld w 40 11, a := Dec.fld w 29 11, part := Dec.fld w 18 4, la := Dec.fld w 14 4, sf := Dec.bit w 13, rm := Dec.fld w 11 2, st := Dec.fld w 7 4, cc := Dec.fld w 5 2, g := { p := Dec.fld w 2 3, neg := Dec.bit w 1 } }

/-- The CvtiF fields below the opcode, from bit 54 down. -/
def Dec.packCvtiF (op : BitVec 9) (f : CvtiF) : Word :=
  op ++ f.ty ++ f.d ++ f.a ++ 0#11 ++ 0#2 ++ Dec.b1 f.sat ++ f.part ++ f.st ++ f.cc ++ f.g.p ++ Dec.b1 f.g.neg ++ 0#1

/-- The CvtiF fields of a word. -/
def Dec.getCvtiF (w : Word) : CvtiF :=
  { ty := Dec.fld w 51 4, d := Dec.fld w 40 11, a := Dec.fld w 29 11, sat := Dec.bit w 15, part := Dec.fld w 11 4, st := Dec.fld w 7 4, cc := Dec.fld w 5 2, g := { p := Dec.fld w 2 3, neg := Dec.bit w 1 } }

/-- The CvtfF fields below the opcode, from bit 54 down. -/
def Dec.packCvtfF (op : BitVec 9) (f : CvtfF) : Word :=
  op ++ f.ty ++ f.d ++ f.a ++ 0#11 ++ 0#1 ++ f.part ++ f.rm ++ f.st ++ f.cc ++ f.g.p ++ Dec.b1 f.g.neg ++ 0#1

/-- The CvtfF fields of a word. -/
def Dec.getCvtfF (w : Word) : CvtfF :=
  { ty := Dec.fld w 51 4, d := Dec.fld w 40 11, a := Dec.fld w 29 11, part := Dec.fld w 13 4, rm := Dec.fld w 11 2, st := Dec.fld w 7 4, cc := Dec.fld w 5 2, g := { p := Dec.fld w 2 3, neg := Dec.bit w 1 } }

/-- The QntF fields below the opcode, from bit 54 down. -/
def Dec.packQntF (op : BitVec 9) (f : QntF) : Word :=
  op ++ f.ty ++ f.d ++ f.a ++ f.b ++ f.la ++ f.part ++ f.st ++ f.cc ++ f.g.p ++ Dec.b1 f.g.neg ++ 0#1

/-- The QntF fields of a word. -/
def Dec.getQntF (w : Word) : QntF :=
  { ty := Dec.fld w 51 4, d := Dec.fld w 40 11, a := Dec.fld w 29 11, b := Dec.fld w 18 11, la := Dec.fld w 14 4, part := Dec.fld w 11 3, st := Dec.fld w 7 4, cc := Dec.fld w 5 2, g := { p := Dec.fld w 2 3, neg := Dec.bit w 1 } }

/-- The DqntF fields below the opcode, from bit 54 down. -/
def Dec.packDqntF (op : BitVec 9) (f : DqntF) : Word :=
  op ++ f.ty ++ f.d ++ f.a ++ f.b ++ 0#3 ++ f.part ++ f.st ++ f.cc ++ f.g.p ++ Dec.b1 f.g.neg ++ 0#1

/-- The DqntF fields of a word. -/
def Dec.getDqntF (w : Word) : DqntF :=
  { ty := Dec.fld w 51 4, d := Dec.fld w 40 11, a := Dec.fld w 29 11, b := Dec.fld w 18 11, part := Dec.fld w 11 4, st := Dec.fld w 7 4, cc := Dec.fld w 5 2, g := { p := Dec.fld w 2 3, neg := Dec.bit w 1 } }

/-- The AmaxF fields below the opcode, from bit 54 down. -/
def Dec.packAmaxF (op : BitVec 9) (f : AmaxF) : Word :=
  op ++ 0#4 ++ f.d ++ 0#32 ++ Dec.b1 f.clr ++ f.cc ++ f.g.p ++ Dec.b1 f.g.neg ++ 0#1

/-- The AmaxF fields of a word. -/
def Dec.getAmaxF (w : Word) : AmaxF :=
  { d := Dec.fld w 40 11, clr := Dec.bit w 7, cc := Dec.fld w 5 2, g := { p := Dec.fld w 2 3, neg := Dec.bit w 1 } }

/-- The ShflF fields below the opcode, from bit 54 down. -/
def Dec.packShflF (op : BitVec 9) (f : ShflF) : Word :=
  op ++ f.ty ++ f.d ++ f.a ++ f.b ++ 0#2 ++ Dec.b1 f.pe ++ f.pn ++ 0#1 ++ f.gs ++ f.cc ++ f.g.p ++ Dec.b1 f.g.neg ++ 0#1

/-- The ShflF fields of a word. -/
def Dec.getShflF (w : Word) : ShflF :=
  { ty := Dec.fld w 51 4, d := Dec.fld w 40 11, a := Dec.fld w 29 11, b := Dec.fld w 18 11, pe := Dec.bit w 15, pn := Dec.fld w 12 3, gs := Dec.fld w 7 4, cc := Dec.fld w 5 2, g := { p := Dec.fld w 2 3, neg := Dec.bit w 1 } }

/-- The BcastF fields below the opcode, from bit 54 down. -/
def Dec.packBcastF (op : BitVec 9) (f : BcastF) : Word :=
  op ++ f.ty ++ f.d ++ f.a ++ f.pos ++ 0#7 ++ f.gs ++ f.cc ++ f.g.p ++ Dec.b1 f.g.neg ++ 0#1

/-- The BcastF fields of a word. -/
def Dec.getBcastF (w : Word) : BcastF :=
  { ty := Dec.fld w 51 4, d := Dec.fld w 40 11, a := Dec.fld w 29 11, pos := Dec.fld w 18 11, gs := Dec.fld w 7 4, cc := Dec.fld w 5 2, g := { p := Dec.fld w 2 3, neg := Dec.bit w 1 } }

/-- The RedF fields below the opcode, from bit 54 down. -/
def Dec.packRedF (op : BitVec 9) (f : RedF) : Word :=
  op ++ f.ty ++ f.d ++ f.a ++ 0#11 ++ 0#2 ++ Dec.b1 f.ex ++ f.op ++ 0#1 ++ f.gs ++ f.cc ++ f.g.p ++ Dec.b1 f.g.neg ++ 0#1

/-- The RedF fields of a word. -/
def Dec.getRedF (w : Word) : RedF :=
  { ty := Dec.fld w 51 4, d := Dec.fld w 40 11, a := Dec.fld w 29 11, ex := Dec.bit w 15, op := Dec.fld w 12 3, gs := Dec.fld w 7 4, cc := Dec.fld w 5 2, g := { p := Dec.fld w 2 3, neg := Dec.bit w 1 } }

/-- The TopkF fields below the opcode, from bit 54 down. -/
def Dec.packTopkF (op : BitVec 9) (f : TopkF) : Word :=
  op ++ f.ty ++ f.d ++ f.a ++ f.k ++ 0#6 ++ Dec.b1 f.lo ++ f.gs ++ f.cc ++ f.g.p ++ Dec.b1 f.g.neg ++ 0#1

/-- The TopkF fields of a word. -/
def Dec.getTopkF (w : Word) : TopkF :=
  { ty := Dec.fld w 51 4, d := Dec.fld w 40 11, a := Dec.fld w 29 11, k := Dec.fld w 18 11, lo := Dec.bit w 11, gs := Dec.fld w 7 4, cc := Dec.fld w 5 2, g := { p := Dec.fld w 2 3, neg := Dec.bit w 1 } }

/-- The TcsetF fields below the opcode, from bit 54 down. -/
def Dec.packTcsetF (op : BitVec 9) (f : TcsetF) : Word :=
  op ++ 0#11 ++ f.n ++ f.a ++ 0#24 ++ f.g.p ++ Dec.b1 f.g.neg ++ 0#1

/-- The TcsetF fields of a word. -/
def Dec.getTcsetF (w : Word) : TcsetF :=
  { n := Dec.fld w 40 4, a := Dec.fld w 29 11, g := { p := Dec.fld w 2 3, neg := Dec.bit w 1 } }

/-- The TcgetF fields below the opcode, from bit 54 down. -/
def Dec.packTcgetF (op : BitVec 9) (f : TcgetF) : Word :=
  op ++ 0#4 ++ f.d ++ 0#7 ++ f.n ++ 0#24 ++ f.g.p ++ Dec.b1 f.g.neg ++ 0#1

/-- The TcgetF fields of a word. -/
def Dec.getTcgetF (w : Word) : TcgetF :=
  { d := Dec.fld w 40 11, n := Dec.fld w 29 4, g := { p := Dec.fld w 2 3, neg := Dec.bit w 1 } }

/-- The TileF fields below the opcode, from bit 54 down. -/
def Dec.packTileF (op : BitVec 9) (f : TileF) : Word :=
  op ++ 0#11 ++ f.n ++ 0#35 ++ f.g.p ++ Dec.b1 f.g.neg ++ 0#1

/-- The TileF fields of a word. -/
def Dec.getTileF (w : Word) : TileF :=
  { n := Dec.fld w 40 4, g := { p := Dec.fld w 2 3, neg := Dec.bit w 1 } }

/-- The MxF fields below the opcode, from bit 54 down. -/
def Dec.packMxF (op : BitVec 9) (f : MxF) : Word :=
  op ++ 0#11 ++ f.tcd ++ 0#7 ++ f.tca ++ Dec.b1 f.oe ++ f.ko ++ f.tcb ++ f.la ++ 0#2 ++ Dec.b1 f.fe ++ f.fb ++ 0#2 ++ f.g.p ++ Dec.b1 f.g.neg ++ 0#1

/-- The MxF fields of a word. -/
def Dec.getMxF (w : Word) : MxF :=
  { tcd := Dec.fld w 40 4, tca := Dec.fld w 29 4, oe := Dec.bit w 28, ko := Dec.fld w 22 6, tcb := Dec.fld w 18 4, la := Dec.fld w 14 4, fe := Dec.bit w 11, fb := Dec.fld w 7 4, g := { p := Dec.fld w 2 3, neg := Dec.bit w 1 } }

/-- The McvtF fields below the opcode, from bit 54 down. -/
def Dec.packMcvtF (op : BitVec 9) (f : McvtF) : Word :=
  op ++ f.ty ++ f.d ++ 0#7 ++ f.n ++ 0#11 ++ f.la ++ 0#4 ++ Dec.b1 f.sf ++ f.rm ++ f.cc ++ f.g.p ++ Dec.b1 f.g.neg ++ 0#1

/-- The McvtF fields of a word. -/
def Dec.getMcvtF (w : Word) : McvtF :=
  { ty := Dec.fld w 51 4, d := Dec.fld w 40 11, n := Dec.fld w 29 4, la := Dec.fld w 14 4, sf := Dec.bit w 9, rm := Dec.fld w 7 2, cc := Dec.fld w 5 2, g := { p := Dec.fld w 2 3, neg := Dec.bit w 1 } }

/-- The MrmaskF fields below the opcode, from bit 54 down. -/
def Dec.packMrmaskF (op : BitVec 9) (f : MrmaskF) : Word :=
  op ++ 0#4 ++ f.d ++ f.a ++ 0#11 ++ 0#3 ++ f.off ++ 0#2 ++ f.g.p ++ Dec.b1 f.g.neg ++ 0#1

/-- The MrmaskF fields of a word. -/
def Dec.getMrmaskF (w : Word) : MrmaskF :=
  { d := Dec.fld w 40 11, a := Dec.fld w 29 11, off := Dec.fld w 7 8, g := { p := Dec.fld w 2 3, neg := Dec.bit w 1 } }

/-- The MexpF fields below the opcode, from bit 54 down. -/
def Dec.packMexpF (op : BitVec 9) (isTo : Bool) (f : MexpF) : Word :=
  op ++ 0#11 ++ f.n ++ 0#11 ++ f.b ++ 0#10 ++ Dec.b1 isTo ++ 0#2 ++ f.g.p ++ Dec.b1 f.g.neg ++ 0#1

/-- The MexpF fields of a word. -/
def Dec.getMexpF (w : Word) : MexpF :=
  { n := Dec.fld w 40 4, b := Dec.fld w 18 11, g := { p := Dec.fld w 2 3, neg := Dec.bit w 1 } }

/-- The WsetF fields below the opcode, from bit 54 down. -/
def Dec.packWsetF (op : BitVec 9) (f : WsetF) : Word :=
  op ++ 0#12 ++ f.n ++ f.a ++ 0#21 ++ Dec.b1 f.dom ++ 0#2 ++ f.g.p ++ Dec.b1 f.g.neg ++ 0#1

/-- The WsetF fields of a word. -/
def Dec.getWsetF (w : Word) : WsetF :=
  { n := Dec.fld w 40 3, a := Dec.fld w 29 11, dom := Dec.bit w 7, g := { p := Dec.fld w 2 3, neg := Dec.bit w 1 } }

/-- The WinvF fields below the opcode, from bit 54 down. -/
def Dec.packWinvF (op : BitVec 9) (f : WinvF) : Word :=
  op ++ 0#12 ++ f.n ++ 0#35 ++ f.g.p ++ Dec.b1 f.g.neg ++ 0#1

/-- The WinvF fields of a word. -/
def Dec.getWinvF (w : Word) : WinvF :=
  { n := Dec.fld w 40 3, g := { p := Dec.fld w 2 3, neg := Dec.bit w 1 } }

/-- The MemF fields below the opcode, from bit 54 down. -/
def Dec.packMemF (op : BitVec 9) (f : MemF) : Word :=
  op ++ f.ty ++ f.d ++ f.scope ++ f.order ++ f.off ++ f.b ++ f.la ++ Dec.b1 f.sh ++ f.op ++ f.tw ++ 0#2 ++ f.g.p ++ Dec.b1 f.g.neg ++ 0#1

/-- The MemF fields of a word. -/
def Dec.getMemF (w : Word) : MemF :=
  { ty := Dec.fld w 51 4, d := Dec.fld w 40 11, scope := Dec.fld w 38 2, order := Dec.fld w 35 3, off := Dec.fld w 29 6, b := Dec.fld w 18 11, la := Dec.fld w 14 4, sh := Dec.bit w 13, op := Dec.fld w 10 3, tw := Dec.fld w 7 3, g := { p := Dec.fld w 2 3, neg := Dec.bit w 1 } }

/-- The RldF fields below the opcode, from bit 54 down. -/
def Dec.packRldF (op : BitVec 9) (f : RldF) : Word :=
  op ++ 0#4 ++ f.d ++ 0#5 ++ f.off ++ 0#3 ++ f.n ++ f.la ++ 0#9 ++ f.g.p ++ Dec.b1 f.g.neg ++ 0#1

/-- The RldF fields of a word. -/
def Dec.getRldF (w : Word) : RldF :=
  { d := Dec.fld w 40 11, off := Dec.fld w 29 6, n := Dec.fld w 18 8, la := Dec.fld w 14 4, g := { p := Dec.fld w 2 3, neg := Dec.bit w 1 } }

/-- The ScopyF fields below the opcode, from bit 54 down. -/
def Dec.packScopyF (op : BitVec 9) (f : ScopyF) : Word :=
  op ++ 0#4 ++ f.d ++ f.a ++ f.b ++ f.la ++ 0#9 ++ f.g.p ++ Dec.b1 f.g.neg ++ 0#1

/-- The ScopyF fields of a word. -/
def Dec.getScopyF (w : Word) : ScopyF :=
  { d := Dec.fld w 40 11, a := Dec.fld w 29 11, b := Dec.fld w 18 11, la := Dec.fld w 14 4, g := { p := Dec.fld w 2 3, neg := Dec.bit w 1 } }

/-- The FenceF fields below the opcode, from bit 54 down. -/
def Dec.packFenceF (op : BitVec 9) (f : FenceF) : Word :=
  op ++ 0#15 ++ f.scope ++ f.order ++ 0#30 ++ f.g.p ++ Dec.b1 f.g.neg ++ 0#1

/-- The FenceF fields of a word. -/
def Dec.getFenceF (w : Word) : FenceF :=
  { scope := Dec.fld w 38 2, order := Dec.fld w 35 3, g := { p := Dec.fld w 2 3, neg := Dec.bit w 1 } }

/-- The FbsetF fields below the opcode, from bit 54 down. -/
def Dec.packFbsetF (op : BitVec 9) (f : FbsetF) : Word :=
  op ++ 0#11 ++ f.n ++ f.a ++ 0#24 ++ f.g.p ++ Dec.b1 f.g.neg ++ 0#1

/-- The FbsetF fields of a word. -/
def Dec.getFbsetF (w : Word) : FbsetF :=
  { n := Dec.fld w 40 4, a := Dec.fld w 29 11, g := { p := Dec.fld w 2 3, neg := Dec.bit w 1 } }

/-- The BarF fields below the opcode, from bit 54 down. -/
def Dec.packBarF (op : BitVec 9) (f : BarF) : Word :=
  op ++ 0#4 ++ f.d ++ 0#22 ++ 0#2 ++ Dec.b1 f.err ++ f.n ++ 0#2 ++ f.g.p ++ Dec.b1 f.g.neg ++ 0#1

/-- The BarF fields of a word. -/
def Dec.getBarF (w : Word) : BarF :=
  { d := Dec.fld w 40 11, err := Dec.bit w 15, n := Dec.fld w 7 8, g := { p := Dec.fld w 2 3, neg := Dec.bit w 1 } }

/-- The EwaitF fields below the opcode, from bit 54 down. -/
def Dec.packEwaitF (op : BitVec 9) (f : EwaitF) : Word :=
  op ++ 0#4 ++ f.d ++ f.a ++ 0#11 ++ 0#7 ++ f.e ++ 0#2 ++ f.g.p ++ Dec.b1 f.g.neg ++ 0#1

/-- The EwaitF fields of a word. -/
def Dec.getEwaitF (w : Word) : EwaitF :=
  { d := Dec.fld w 40 11, a := Dec.fld w 29 11, e := Dec.fld w 7 4, g := { p := Dec.fld w 2 3, neg := Dec.bit w 1 } }

/-- The SysrF fields below the opcode, from bit 54 down. -/
def Dec.packSysrF (op : BitVec 9) (f : SysrF) : Word :=
  op ++ 0#4 ++ f.d ++ 0#11 ++ f.n ++ 0#8 ++ f.w ++ 0#2 ++ f.g.p ++ Dec.b1 f.g.neg ++ 0#1

/-- The SysrF fields of a word. -/
def Dec.getSysrF (w : Word) : SysrF :=
  { d := Dec.fld w 40 11, n := Dec.fld w 18 11, w := Dec.fld w 7 3, g := { p := Dec.fld w 2 3, neg := Dec.bit w 1 } }

/-- The SyswF fields below the opcode, from bit 54 down. -/
def Dec.packSyswF (op : BitVec 9) (f : SyswF) : Word :=
  op ++ 0#15 ++ f.a ++ f.n ++ 0#8 ++ f.w ++ 0#2 ++ f.g.p ++ Dec.b1 f.g.neg ++ 0#1

/-- The SyswF fields of a word. -/
def Dec.getSyswF (w : Word) : SyswF :=
  { a := Dec.fld w 29 11, n := Dec.fld w 18 11, w := Dec.fld w 7 3, g := { p := Dec.fld w 2 3, neg := Dec.bit w 1 } }

/-- The CntF fields below the opcode, from bit 54 down. -/
def Dec.packCntF (op : BitVec 9) (f : CntF) : Word :=
  op ++ 0#4 ++ f.d ++ 0#22 ++ 0#10 ++ Dec.b1 f.sync ++ 0#2 ++ f.g.p ++ Dec.b1 f.g.neg ++ 0#1

/-- The CntF fields of a word. -/
def Dec.getCntF (w : Word) : CntF :=
  { d := Dec.fld w 40 11, sync := Dec.bit w 7, g := { p := Dec.fld w 2 3, neg := Dec.bit w 1 } }

/-- The PushF fields below the opcode, from bit 54 down. -/
def Dec.packPushF (op : BitVec 9) (f : PushF) : Word :=
  op ++ 0#4 ++ f.d ++ f.a ++ 0#11 ++ f.la ++ 0#3 ++ f.e ++ 0#2 ++ f.g.p ++ Dec.b1 f.g.neg ++ 0#1

/-- The PushF fields of a word. -/
def Dec.getPushF (w : Word) : PushF :=
  { d := Dec.fld w 40 11, a := Dec.fld w 29 11, la := Dec.fld w 14 4, e := Dec.fld w 7 4, g := { p := Dec.fld w 2 3, neg := Dec.bit w 1 } }

/-- The 64-bit word of a warp instruction (R255, R256, R265); none for a device event and for a micro-instruction. -/
def encode : Instr → Option Word
  | .bra f => some (Dec.packBraF 0x000#9 f)
  | .brc f => some (Dec.packBrcF 0x001#9 f)
  | .call f => some (Dec.packBraF 0x002#9 f)
  | .ret g => some (Dec.packGuard 0x003#9 g)
  | .jmpi f => some (Dec.packJmpiF 0x004#9 f)
  | .loop f => some (Dec.packLoopF 0x005#9 f)
  | .exit g => some (Dec.packGuard 0x006#9 g)
  | .yield g => some (Dec.packGuard 0x007#9 g)
  | .spin g => some (Dec.packGuard 0x008#9 g)
  | .reconv g => some (Dec.packGuard 0x009#9 g)
  | .nop g => some (Dec.packGuard 0x00a#9 g)
  | .rep f => some (Dec.packRepF 0x00b#9 f)
  | .trap f => some (Dec.packCodeF 0x00c#9 f)
  | .bpt f => some (Dec.packCodeF 0x00d#9 f)
  | .eret g => some (Dec.packGuard 0x00e#9 g)
  | .kmov f => some (Dec.packAlu1 0x020#9 f)
  | .kmovi f => some (Dec.packAluImm 0x021#9 f)
  | .kadd f => some (Dec.packAlu2 0x022#9 f)
  | .ksub f => some (Dec.packAlu2 0x023#9 f)
  | .kmul f => some (Dec.packAlu2 0x024#9 f)
  | .kmad f => some (Dec.packAlu3 0x025#9 f)
  | .kdiv f => some (Dec.packAlu2 0x026#9 f)
  | .kmod f => some (Dec.packAlu2 0x027#9 f)
  | .kand f => some (Dec.packAlu2 0x028#9 f)
  | .kor f => some (Dec.packAlu2 0x029#9 f)
  | .kxor f => some (Dec.packAlu2 0x02a#9 f)
  | .kshl f => some (Dec.packAlu2 0x02b#9 f)
  | .kshr f => some (Dec.packAlu2 0x02c#9 f)
  | .ksar f => some (Dec.packAlu2 0x02d#9 f)
  | .kcmp f => some (Dec.packAluCmp 0x02e#9 f)
  | .ksel f => some (Dec.packAlu3 0x02f#9 f)
  | .kmin f => some (Dec.packAlu2 0x030#9 f)
  | .kmax f => some (Dec.packAlu2 0x031#9 f)
  | .kclz f => some (Dec.packAlu1 0x032#9 f)
  | .kpopc f => some (Dec.packAlu1 0x033#9 f)
  | .vadd f => some (Dec.packAlu2 0x040#9 f)
  | .vsub f => some (Dec.packAlu2 0x041#9 f)
  | .vmul f => some (Dec.packAlu2 0x042#9 f)
  | .vmulh f => some (Dec.packAlu2 0x043#9 f)
  | .vmad f => some (Dec.packAlu3 0x044#9 f)
  | .vdiv f => some (Dec.packAlu2 0x045#9 f)
  | .vadds f => some (Dec.packAlu2 0x046#9 f)
  | .vsubs f => some (Dec.packAlu2 0x047#9 f)
  | .vmin f => some (Dec.packAlu2 0x048#9 f)
  | .vmax f => some (Dec.packAlu2 0x049#9 f)
  | .vabs f => some (Dec.packAlu1 0x04a#9 f)
  | .vneg f => some (Dec.packAlu1 0x04b#9 f)
  | .vand f => some (Dec.packAlu2 0x04c#9 f)
  | .vor f => some (Dec.packAlu2 0x04d#9 f)
  | .vxor f => some (Dec.packAlu2 0x04e#9 f)
  | .vnot f => some (Dec.packAlu1 0x04f#9 f)
  | .vshl f => some (Dec.packAlu2 0x050#9 f)
  | .vshr f => some (Dec.packAlu2 0x051#9 f)
  | .vsar f => some (Dec.packAlu2 0x052#9 f)
  | .vrot f => some (Dec.packAlu2 0x053#9 f)
  | .vclz f => some (Dec.packAlu1 0x054#9 f)
  | .vpopc f => some (Dec.packAlu1 0x055#9 f)
  | .vcmp f => some (Dec.packAluCmp 0x056#9 f)
  | .vsel f => some (Dec.packAlu3 0x057#9 f)
  | .vmov f => some (Dec.packAlu1 0x058#9 f)
  | .vmovi f => some (Dec.packAluImm 0x059#9 f)
  | .rgn f => some (Dec.packRgnF 0x060#9 f)
  | .rgrow f => some (Dec.packDAF 0x061#9 f)
  | .rshrink f => some (Dec.packDAF 0x062#9 f)
  | .vmovx f => some (Dec.packMovxF 0x063#9 f)
  | .vstx f => some (Dec.packABF 0x064#9 f)
  | .rkill f => some (Dec.packRkillF 0x065#9 f)
  | .vfadd f => some (Dec.packAlu2 0x080#9 f)
  | .vfsub f => some (Dec.packAlu2 0x081#9 f)
  | .vfmul f => some (Dec.packAlu2 0x082#9 f)
  | .vfma f => some (Dec.packAlu3 0x083#9 f)
  | .vfms f => some (Dec.packAlu3 0x084#9 f)
  | .vfnma f => some (Dec.packAlu3 0x085#9 f)
  | .vfmin f => some (Dec.packAlu2 0x086#9 f)
  | .vfmax f => some (Dec.packAlu2 0x087#9 f)
  | .vfabs f => some (Dec.packAlu1 0x088#9 f)
  | .vfneg f => some (Dec.packAlu1 0x089#9 f)
  | .vfcmp f => some (Dec.packAluCmp 0x08a#9 f)
  | .vfclass f => some (Dec.packAluClass 0x08b#9 f)
  | .vfrcp f => some (Dec.packLong1 0x090#9 f)
  | .vfrsq f => some (Dec.packLong1 0x091#9 f)
  | .vfsqrt f => some (Dec.packLong1 0x092#9 f)
  | .vfdiv f => some (Dec.packLong2 0x093#9 f)
  | .vfexp2 f => some (Dec.packLong1 0x094#9 f)
  | .vflog2 f => some (Dec.packLong1 0x095#9 f)
  | .vfsin f => some (Dec.packLong1 0x096#9 f)
  | .vfcos f => some (Dec.packLong1 0x097#9 f)
  | .vftanh f => some (Dec.packLong1 0x098#9 f)
  | .vfsig f => some (Dec.packLong1 0x099#9 f)
  | .vcvt f => some (Dec.packCvtF 0x0c0#9 f)
  | .vcvti f => some (Dec.packCvtiF 0x0c1#9 f)
  | .vcvtf f => some (Dec.packCvtfF 0x0c2#9 f)
  | .vqnt f => some (Dec.packQntF 0x0c3#9 f)
  | .vdqnt f => some (Dec.packDqntF 0x0c4#9 f)
  | .amaxr f => some (Dec.packAmaxF 0x0c5#9 f)
  | .amaxc g => some (Dec.packGuard 0x0c6#9 g)
  | .vshfl f => some (Dec.packShflF 0x0e0#9 f)
  | .vbcast f => some (Dec.packBcastF 0x0e1#9 f)
  | .vperm f => some (Dec.packAlu3 0x0e2#9 f)
  | .vpack f => some (Dec.packAlu1 0x0e3#9 f)
  | .vunpk f => some (Dec.packAlu1 0x0e4#9 f)
  | .vred f => some (Dec.packRedF 0x0e5#9 f)
  | .vscan f => some (Dec.packRedF 0x0e6#9 f)
  | .vtopk f => some (Dec.packTopkF 0x0e7#9 f)
  | .vballot f => some (Dec.packAlu1 0x0e8#9 f)
  | .vmatch f => some (Dec.packAlu1 0x0e9#9 f)
  | .tcset f => some (Dec.packTcsetF 0x101#9 f)
  | .tcget f => some (Dec.packTcgetF 0x102#9 f)
  | .mzero f => some (Dec.packTileF 0x103#9 f)
  | .mxacc f => some (Dec.packMxF 0x104#9 f)
  | .mxsub f => some (Dec.packMxF 0x105#9 f)
  | .mnorm f => some (Dec.packTileF 0x106#9 f)
  | .mcvt f => some (Dec.packMcvtF 0x107#9 f)
  | .mrmask f => some (Dec.packMrmaskF 0x108#9 f)
  | .mexp f => some (Dec.packMexpF 0x109#9 false f)
  | .mexpTo f => some (Dec.packMexpF 0x109#9 true f)
  | .wset f => some (Dec.packWsetF 0x140#9 f)
  | .winv f => some (Dec.packWinvF 0x141#9 f)
  | .ldq f => some (Dec.packMemF 0x142#9 f)
  | .lda f => some (Dec.packMemF 0x143#9 f)
  | .sta f => some (Dec.packMemF 0x144#9 f)
  | .stq f => some (Dec.packMemF 0x145#9 f)
  | .lds f => some (Dec.packMemF 0x146#9 f)
  | .sts f => some (Dec.packMemF 0x147#9 f)
  | .ldacq f => some (Dec.packMemF 0x148#9 f)
  | .strel f => some (Dec.packMemF 0x149#9 f)
  | .atom f => some (Dec.packMemF 0x14a#9 f)
  | .atomq f => some (Dec.packMemF 0x14b#9 f)
  | .redl2 f => some (Dec.packMemF 0x14c#9 f)
  | .gatl2 f => some (Dec.packMemF 0x14d#9 f)
  | .mcast f => some (Dec.packMemF 0x14e#9 f)
  | .rld f => some (Dec.packRldF 0x14f#9 f)
  | .pref f => some (Dec.packMemF 0x150#9 f)
  | .scopy f => some (Dec.packScopyF 0x151#9 f)
  | .fence f => some (Dec.packFenceF 0x152#9 f)
  | .iinv f => some (Dec.packABF 0x153#9 f)
  | .isync g => some (Dec.packGuard 0x154#9 g)
  | .l1res f => some (Dec.packDAF 0x155#9 f)
  | .tide f => some (Dec.packAF 0x156#9 f)
  | .cflushL1 f => some (Dec.packMemF 0x157#9 f)
  | .cflushL2 f => some (Dec.packMemF 0x157#9 f)
  | .fbset f => some (Dec.packFbsetF 0x158#9 f)
  | .qpush f => some (Dec.packDAF 0x180#9 f)
  | .qpop f => some (Dec.packDAF 0x181#9 f)
  | .qdrop f => some (Dec.packAF 0x182#9 f)
  | .qflush f => some (Dec.packAF 0x183#9 f)
  | .qstat f => some (Dec.packDAF 0x184#9 f)
  | .qwait f => some (Dec.packAF 0x185#9 f)
  | .bar f => some (Dec.packBarF 0x1a0#9 f)
  | .bara f => some (Dec.packBarF 0x1a1#9 f)
  | .barw f => some (Dec.packBarF 0x1a2#9 f)
  | .ewait f => some (Dec.packEwaitF 0x1a3#9 f)
  | .sysr f => some (Dec.packSysrF 0x1a8#9 f)
  | .sysw f => some (Dec.packSyswF 0x1a9#9 f)
  | .park f => some (Dec.packAF 0x1aa#9 f)
  | .cnt f => some (Dec.packCntF 0x1ab#9 f)
  | .push f => some (Dec.packPushF 0x1c0#9 f)
  | .spawn f => some (Dec.packPushF 0x1c1#9 f)
  | .mmodeOn => some 0x8000000000000080#64
  | .mmodeOff => some 0x8000000000000000#64
  | _ => none

/-- The 32-bit word of a Lighter instruction (R394). -/
def encodeX : Instr → Option (BitVec 32)
  | .xend => some (0#5 ++ 0#27)
  | .xli d i => some (1#5 ++ d ++ 0#8 ++ i)
  | .xlsh d i => some (2#5 ++ d ++ 0#8 ++ i)
  | .xadd d a b i => some (3#5 ++ d ++ a ++ b ++ i)
  | .xsub d a b => some (4#5 ++ d ++ a ++ b ++ 0#15)
  | .xmul d a b => some (5#5 ++ d ++ a ++ b ++ 0#15)
  | .xand d a b => some (6#5 ++ d ++ a ++ b ++ 0#15)
  | .xshl d a n => some (7#5 ++ d ++ a ++ 0#13 ++ n)
  | .xshr d a n => some (8#5 ++ d ++ a ++ 0#13 ++ n)
  | .xpopc d a => some (9#5 ++ d ++ a ++ 0#19)
  | .xld d a z i => some (10#5 ++ d ++ a ++ 0#2 ++ z ++ i)
  | .xbr c a b i => some (11#5 ++ 0#2 ++ c ++ a ++ b ++ i)
  | .xblk i => some (12#5 ++ 0#12 ++ i)
  | .xput d a b i => some (13#5 ++ d ++ a ++ b ++ i)
  | .xmask a => some (14#5 ++ 0#4 ++ a ++ 0#19)
  | .xchk a b => some (15#5 ++ 0#4 ++ a ++ b ++ 0#15)
  | .xemit a => some (16#5 ++ 0#4 ++ a ++ 0#19)
  | _ => none

/-- The 32-bit word of a Pilot instruction (R401). -/
def encodeP : Instr → Option (BitVec 32)
  | .pend n => some (0#4 ++ 0#27 ++ n)
  | .pli d i => some (1#4 ++ d ++ 0#6 ++ i)
  | .padd d a b i => some (2#4 ++ d ++ a ++ b ++ i)
  | .psub d a b => some (3#4 ++ d ++ a ++ b ++ 0#19)
  | .pmul d a b => some (4#4 ++ d ++ a ++ b ++ 0#19)
  | .pand d a b => some (5#4 ++ d ++ a ++ b ++ 0#19)
  | .pxor d a b => some (6#4 ++ d ++ a ++ b ++ 0#19)
  | .pshr d a n => some (7#4 ++ d ++ a ++ 0#16 ++ n)
  | .pshl d a n => some (8#4 ++ d ++ a ++ 0#16 ++ n)
  | .pld d z o => some (9#4 ++ d ++ 0#3 ++ 0#1 ++ z ++ 0#11 ++ o)
  | .pldx d a z o => some (10#4 ++ d ++ a ++ 0#1 ++ z ++ 0#11 ++ o)
  | .pbr c a b i => some (11#4 ++ 0#1 ++ c ++ a ++ b ++ i)
  | .pnext a => some (12#4 ++ 0#3 ++ a ++ 0#22)
  | .pwr a z o => some (13#4 ++ 0#3 ++ a ++ 0#1 ++ z ++ 0#11 ++ o)
  | _ => none

/-- The instruction that the opcode and the fields of a word name (Table 9.7), before its unused fields and its type are checked. -/
def Dec.candidate (w : Word) : Option Instr :=
  match (Dec.fld w 55 9).toNat with
  | 0x100 => some (if Dec.bit w 7 then .mmodeOn else .mmodeOff)
  | 0x000 => some (.bra (Dec.getBraF w))
  | 0x001 => some (.brc (Dec.getBrcF w))
  | 0x002 => some (.call (Dec.getBraF w))
  | 0x003 => some (.ret (Dec.getGuard w))
  | 0x004 => some (.jmpi (Dec.getJmpiF w))
  | 0x005 => some (.loop (Dec.getLoopF w))
  | 0x006 => some (.exit (Dec.getGuard w))
  | 0x007 => some (.yield (Dec.getGuard w))
  | 0x008 => some (.spin (Dec.getGuard w))
  | 0x009 => some (.reconv (Dec.getGuard w))
  | 0x00a => some (.nop (Dec.getGuard w))
  | 0x00b => some (.rep (Dec.getRepF w))
  | 0x00c => some (.trap (Dec.getCodeF w))
  | 0x00d => some (.bpt (Dec.getCodeF w))
  | 0x00e => some (.eret (Dec.getGuard w))
  | 0x020 => some (.kmov (Dec.getAlu1 w))
  | 0x021 => some (.kmovi (Dec.getAluImm w))
  | 0x022 => some (.kadd (Dec.getAlu2 w))
  | 0x023 => some (.ksub (Dec.getAlu2 w))
  | 0x024 => some (.kmul (Dec.getAlu2 w))
  | 0x025 => some (.kmad (Dec.getAlu3 w))
  | 0x026 => some (.kdiv (Dec.getAlu2 w))
  | 0x027 => some (.kmod (Dec.getAlu2 w))
  | 0x028 => some (.kand (Dec.getAlu2 w))
  | 0x029 => some (.kor (Dec.getAlu2 w))
  | 0x02a => some (.kxor (Dec.getAlu2 w))
  | 0x02b => some (.kshl (Dec.getAlu2 w))
  | 0x02c => some (.kshr (Dec.getAlu2 w))
  | 0x02d => some (.ksar (Dec.getAlu2 w))
  | 0x02e => some (.kcmp (Dec.getAluCmp w))
  | 0x02f => some (.ksel (Dec.getAlu3 w))
  | 0x030 => some (.kmin (Dec.getAlu2 w))
  | 0x031 => some (.kmax (Dec.getAlu2 w))
  | 0x032 => some (.kclz (Dec.getAlu1 w))
  | 0x033 => some (.kpopc (Dec.getAlu1 w))
  | 0x040 => some (.vadd (Dec.getAlu2 w))
  | 0x041 => some (.vsub (Dec.getAlu2 w))
  | 0x042 => some (.vmul (Dec.getAlu2 w))
  | 0x043 => some (.vmulh (Dec.getAlu2 w))
  | 0x044 => some (.vmad (Dec.getAlu3 w))
  | 0x045 => some (.vdiv (Dec.getAlu2 w))
  | 0x046 => some (.vadds (Dec.getAlu2 w))
  | 0x047 => some (.vsubs (Dec.getAlu2 w))
  | 0x048 => some (.vmin (Dec.getAlu2 w))
  | 0x049 => some (.vmax (Dec.getAlu2 w))
  | 0x04a => some (.vabs (Dec.getAlu1 w))
  | 0x04b => some (.vneg (Dec.getAlu1 w))
  | 0x04c => some (.vand (Dec.getAlu2 w))
  | 0x04d => some (.vor (Dec.getAlu2 w))
  | 0x04e => some (.vxor (Dec.getAlu2 w))
  | 0x04f => some (.vnot (Dec.getAlu1 w))
  | 0x050 => some (.vshl (Dec.getAlu2 w))
  | 0x051 => some (.vshr (Dec.getAlu2 w))
  | 0x052 => some (.vsar (Dec.getAlu2 w))
  | 0x053 => some (.vrot (Dec.getAlu2 w))
  | 0x054 => some (.vclz (Dec.getAlu1 w))
  | 0x055 => some (.vpopc (Dec.getAlu1 w))
  | 0x056 => some (.vcmp (Dec.getAluCmp w))
  | 0x057 => some (.vsel (Dec.getAlu3 w))
  | 0x058 => some (.vmov (Dec.getAlu1 w))
  | 0x059 => some (.vmovi (Dec.getAluImm w))
  | 0x060 => some (.rgn (Dec.getRgnF w))
  | 0x061 => some (.rgrow (Dec.getDAF w))
  | 0x062 => some (.rshrink (Dec.getDAF w))
  | 0x063 => some (.vmovx (Dec.getMovxF w))
  | 0x064 => some (.vstx (Dec.getABF w))
  | 0x065 => some (.rkill (Dec.getRkillF w))
  | 0x080 => some (.vfadd (Dec.getAlu2 w))
  | 0x081 => some (.vfsub (Dec.getAlu2 w))
  | 0x082 => some (.vfmul (Dec.getAlu2 w))
  | 0x083 => some (.vfma (Dec.getAlu3 w))
  | 0x084 => some (.vfms (Dec.getAlu3 w))
  | 0x085 => some (.vfnma (Dec.getAlu3 w))
  | 0x086 => some (.vfmin (Dec.getAlu2 w))
  | 0x087 => some (.vfmax (Dec.getAlu2 w))
  | 0x088 => some (.vfabs (Dec.getAlu1 w))
  | 0x089 => some (.vfneg (Dec.getAlu1 w))
  | 0x08a => some (.vfcmp (Dec.getAluCmp w))
  | 0x08b => some (.vfclass (Dec.getAluClass w))
  | 0x090 => some (.vfrcp (Dec.getLong1 w))
  | 0x091 => some (.vfrsq (Dec.getLong1 w))
  | 0x092 => some (.vfsqrt (Dec.getLong1 w))
  | 0x093 => some (.vfdiv (Dec.getLong2 w))
  | 0x094 => some (.vfexp2 (Dec.getLong1 w))
  | 0x095 => some (.vflog2 (Dec.getLong1 w))
  | 0x096 => some (.vfsin (Dec.getLong1 w))
  | 0x097 => some (.vfcos (Dec.getLong1 w))
  | 0x098 => some (.vftanh (Dec.getLong1 w))
  | 0x099 => some (.vfsig (Dec.getLong1 w))
  | 0x0c0 => some (.vcvt (Dec.getCvtF w))
  | 0x0c1 => some (.vcvti (Dec.getCvtiF w))
  | 0x0c2 => some (.vcvtf (Dec.getCvtfF w))
  | 0x0c3 => some (.vqnt (Dec.getQntF w))
  | 0x0c4 => some (.vdqnt (Dec.getDqntF w))
  | 0x0c5 => some (.amaxr (Dec.getAmaxF w))
  | 0x0c6 => some (.amaxc (Dec.getGuard w))
  | 0x0e0 => some (.vshfl (Dec.getShflF w))
  | 0x0e1 => some (.vbcast (Dec.getBcastF w))
  | 0x0e2 => some (.vperm (Dec.getAlu3 w))
  | 0x0e3 => some (.vpack (Dec.getAlu1 w))
  | 0x0e4 => some (.vunpk (Dec.getAlu1 w))
  | 0x0e5 => some (.vred (Dec.getRedF w))
  | 0x0e6 => some (.vscan (Dec.getRedF w))
  | 0x0e7 => some (.vtopk (Dec.getTopkF w))
  | 0x0e8 => some (.vballot (Dec.getAlu1 w))
  | 0x0e9 => some (.vmatch (Dec.getAlu1 w))
  | 0x101 => some (.tcset (Dec.getTcsetF w))
  | 0x102 => some (.tcget (Dec.getTcgetF w))
  | 0x103 => some (.mzero (Dec.getTileF w))
  | 0x104 => some (.mxacc (Dec.getMxF w))
  | 0x105 => some (.mxsub (Dec.getMxF w))
  | 0x106 => some (.mnorm (Dec.getTileF w))
  | 0x107 => some (.mcvt (Dec.getMcvtF w))
  | 0x108 => some (.mrmask (Dec.getMrmaskF w))
  | 0x109 => some (if Dec.bit w 7 then .mexpTo (Dec.getMexpF w) else .mexp (Dec.getMexpF w))
  | 0x140 => some (.wset (Dec.getWsetF w))
  | 0x141 => some (.winv (Dec.getWinvF w))
  | 0x142 => some (.ldq (Dec.getMemF w))
  | 0x143 => some (.lda (Dec.getMemF w))
  | 0x144 => some (.sta (Dec.getMemF w))
  | 0x145 => some (.stq (Dec.getMemF w))
  | 0x146 => some (.lds (Dec.getMemF w))
  | 0x147 => some (.sts (Dec.getMemF w))
  | 0x148 => some (.ldacq (Dec.getMemF w))
  | 0x149 => some (.strel (Dec.getMemF w))
  | 0x14a => some (.atom (Dec.getMemF w))
  | 0x14b => some (.atomq (Dec.getMemF w))
  | 0x14c => some (.redl2 (Dec.getMemF w))
  | 0x14d => some (.gatl2 (Dec.getMemF w))
  | 0x14e => some (.mcast (Dec.getMemF w))
  | 0x14f => some (.rld (Dec.getRldF w))
  | 0x150 => some (.pref (Dec.getMemF w))
  | 0x151 => some (.scopy (Dec.getScopyF w))
  | 0x152 => some (.fence (Dec.getFenceF w))
  | 0x153 => some (.iinv (Dec.getABF w))
  | 0x154 => some (.isync (Dec.getGuard w))
  | 0x155 => some (.l1res (Dec.getDAF w))
  | 0x156 => some (.tide (Dec.getAF w))
  | 0x157 => some (if Dec.bit w 10 then .cflushL2 (Dec.getMemF w) else .cflushL1 (Dec.getMemF w))
  | 0x158 => some (.fbset (Dec.getFbsetF w))
  | 0x180 => some (.qpush (Dec.getDAF w))
  | 0x181 => some (.qpop (Dec.getDAF w))
  | 0x182 => some (.qdrop (Dec.getAF w))
  | 0x183 => some (.qflush (Dec.getAF w))
  | 0x184 => some (.qstat (Dec.getDAF w))
  | 0x185 => some (.qwait (Dec.getAF w))
  | 0x1a0 => some (.bar (Dec.getBarF w))
  | 0x1a1 => some (.bara (Dec.getBarF w))
  | 0x1a2 => some (.barw (Dec.getBarF w))
  | 0x1a3 => some (.ewait (Dec.getEwaitF w))
  | 0x1a8 => some (.sysr (Dec.getSysrF w))
  | 0x1a9 => some (.sysw (Dec.getSyswF w))
  | 0x1aa => some (.park (Dec.getAF w))
  | 0x1ab => some (.cnt (Dec.getCntF w))
  | 0x1c0 => some (.push (Dec.getPushF w))
  | 0x1c1 => some (.spawn (Dec.getPushF w))
  | _ => none

/-- The Lighter instruction that an op field names (Table 14.7). -/
def Dec.candidateX (w : BitVec 32) : Option Instr :=
  match (w.extractLsb' 27 5).toNat with
  | 0 => some (.xend)
  | 1 => some (.xli (w.extractLsb' 23 4) (w.extractLsb' 0 15))
  | 2 => some (.xlsh (w.extractLsb' 23 4) (w.extractLsb' 0 15))
  | 3 => some (.xadd (w.extractLsb' 23 4) (w.extractLsb' 19 4) (w.extractLsb' 15 4) (w.extractLsb' 0 15))
  | 4 => some (.xsub (w.extractLsb' 23 4) (w.extractLsb' 19 4) (w.extractLsb' 15 4))
  | 5 => some (.xmul (w.extractLsb' 23 4) (w.extractLsb' 19 4) (w.extractLsb' 15 4))
  | 6 => some (.xand (w.extractLsb' 23 4) (w.extractLsb' 19 4) (w.extractLsb' 15 4))
  | 7 => some (.xshl (w.extractLsb' 23 4) (w.extractLsb' 19 4) (w.extractLsb' 0 6))
  | 8 => some (.xshr (w.extractLsb' 23 4) (w.extractLsb' 19 4) (w.extractLsb' 0 6))
  | 9 => some (.xpopc (w.extractLsb' 23 4) (w.extractLsb' 19 4))
  | 10 => some (.xld (w.extractLsb' 23 4) (w.extractLsb' 19 4) (w.extractLsb' 15 2) (w.extractLsb' 0 15))
  | 11 => some (.xbr (w.extractLsb' 23 2) (w.extractLsb' 19 4) (w.extractLsb' 15 4) (w.extractLsb' 0 15))
  | 12 => some (.xblk (w.extractLsb' 0 15))
  | 13 => some (.xput (w.extractLsb' 23 4) (w.extractLsb' 19 4) (w.extractLsb' 15 4) (w.extractLsb' 0 15))
  | 14 => some (.xmask (w.extractLsb' 19 4))
  | 15 => some (.xchk (w.extractLsb' 19 4) (w.extractLsb' 15 4))
  | 16 => some (.xemit (w.extractLsb' 19 4))
  | _ => none

/-- The Pilot instruction that an op field names (Table 14.11). -/
def Dec.candidateP (w : BitVec 32) : Option Instr :=
  match (w.extractLsb' 28 4).toNat with
  | 0 => some (.pend (w.extractLsb' 0 1))
  | 1 => some (.pli (w.extractLsb' 25 3) (w.extractLsb' 0 19))
  | 2 => some (.padd (w.extractLsb' 25 3) (w.extractLsb' 22 3) (w.extractLsb' 19 3) (w.extractLsb' 0 19))
  | 3 => some (.psub (w.extractLsb' 25 3) (w.extractLsb' 22 3) (w.extractLsb' 19 3))
  | 4 => some (.pmul (w.extractLsb' 25 3) (w.extractLsb' 22 3) (w.extractLsb' 19 3))
  | 5 => some (.pand (w.extractLsb' 25 3) (w.extractLsb' 22 3) (w.extractLsb' 19 3))
  | 6 => some (.pxor (w.extractLsb' 25 3) (w.extractLsb' 22 3) (w.extractLsb' 19 3))
  | 7 => some (.pshr (w.extractLsb' 25 3) (w.extractLsb' 22 3) (w.extractLsb' 0 6))
  | 8 => some (.pshl (w.extractLsb' 25 3) (w.extractLsb' 22 3) (w.extractLsb' 0 6))
  | 9 => some (.pld (w.extractLsb' 25 3) (w.extractLsb' 19 2) (w.extractLsb' 0 8))
  | 10 => some (.pldx (w.extractLsb' 25 3) (w.extractLsb' 22 3) (w.extractLsb' 19 2) (w.extractLsb' 0 8))
  | 11 => some (.pbr (w.extractLsb' 25 2) (w.extractLsb' 22 3) (w.extractLsb' 19 3) (w.extractLsb' 0 19))
  | 12 => some (.pnext (w.extractLsb' 22 3))
  | 13 => some (.pwr (w.extractLsb' 22 3) (w.extractLsb' 19 2) (w.extractLsb' 0 8))
  | _ => none

/-- Why a word at an instruction position is not an instruction: it is a clause header (R255), or its opcode, type, uniform
bit or an unused field is reserved (R261, R263, R264, R268). -/
inductive DecodeError where
  | header
  | reserved
  deriving DecidableEq, Repr

/-- A 64-bit instruction word (R269, checks 1, 2 and 4). -/
def decodeWord (w : Word) : Except DecodeError Instr :=
  if Dec.fld w 60 4 = 0xf#4 then .error .header
  else
    match Dec.candidate w with
    | none => .error .reserved
    | some i => if encode i = some w ∧ i.wf = true then .ok i else .error .reserved

/-- A Lighter word; none when it is reserved or a field its opcode does not use is not zero (R393). -/
def decodeX (w : BitVec 32) : Option Instr :=
  match Dec.candidateX w with
  | none => none
  | some i => if encodeX i = some w ∧ i.wf = true then some i else none

/-- A Pilot word; none when it is reserved or a field its opcode does not use is not zero (R399). -/
def decodeP (w : BitVec 32) : Option Instr :=
  match Dec.candidateP w with
  | none => none
  | some i => if encodeP i = some w ∧ i.wf = true then some i else none

/-- Whether a 32-bit word is read as a Pilot word when nothing but the word is known: the two micro-sets share
words, and the opcode table numbers both from bit 0. A word that Lighter decodes is read as Lighter's. -/
def decodeMicro (w : BitVec 32) : Option Instr :=
  match decodeX w with
  | some i => some i
  | none => decodeP w

/-- The class of clause in which an opcode may stand (Table 9.7); none for a reserved opcode. `nop` and `rep` stand in
every class, class 5 here. -/
def opcodeClass (op : Nat) : Option Nat :=
  if op = 0x00a ∨ op = 0x00b then some 5
  else if op ≤ 0x00e then some 2
  else if 0x020 ≤ op ∧ op ≤ 0x033 then some 0
  else if 0x040 ≤ op ∧ op ≤ 0x059 then some 0
  else if 0x060 ≤ op ∧ op ≤ 0x065 then some 0
  else if 0x080 ≤ op ∧ op ≤ 0x08b then some 0
  else if 0x090 ≤ op ∧ op ≤ 0x099 then some 0
  else if 0x0c0 ≤ op ∧ op ≤ 0x0c6 then some 0
  else if 0x0e0 ≤ op ∧ op ≤ 0x0e9 then some 0
  else if 0x100 ≤ op ∧ op ≤ 0x109 then some 1
  else if 0x140 ≤ op ∧ op ≤ 0x158 then some 3
  else if 0x180 ≤ op ∧ op ≤ 0x185 then some 3
  else if 0x1a0 ≤ op ∧ op ≤ 0x1a3 then some 3
  else if 0x1a8 ≤ op ∧ op ≤ 0x1ab then some 3
  else if op = 0x1c0 ∨ op = 0x1c1 then some 4
  else none

/-- The opcode of a word. -/
def Dec.opcode (w : Word) : Nat := (Dec.fld w 55 9).toNat

/-- The instruction that the decoder reads from the bits of a table row (bits above `nbits` are 0): a 32-bit row is a
micro-instruction, a 64-bit row a warp instruction. -/
def decodeTableWord (nbits w : Nat) : Option Instr :=
  if nbits = 32 then decodeMicro (BitVec.ofNat 32 (w % 2 ^ nbits))
  else if nbits = 64 then (decodeWord (BitVec.ofNat 64 w)).toOption
  else none

end Sys2Proof
end

