-- ==== Sys2Proof/Config.lean ====
section
/-! DEFINITION. What an implementation fixes and the spec leaves open: factory constants (log entry 6) and free values (log
entry 2). None has a body, so no proof can see a value. -/

namespace Sys2Proof

/-- The 32-byte fused device secret (R36), byte i in bits 8i to 8i + 7. -/
opaque Config.deviceSecret : BitVec 256

/-- The 16-byte device serial number (R37, R42). -/
opaque Config.serial : BitVec 128

/-- The index of the manufacturing key that signed the identity certificate (R37). -/
opaque Config.mkidx : BitVec 32

/-- The private seed of the manufacturing key that signs identity certificates (R30, R37). -/
opaque Config.mfgSeed : BitVec 256

/-- The two root public keys in the boot ROM (R31). -/
opaque Config.rootKey : Nat → BitVec 256

/-- The SHA-512 of the boot ROM (R39). -/
opaque Config.romMeas : BitVec 512

/-- What flash slot A (0) and slot B (1) hold when the module leaves the factory (R34, R35). -/
opaque Config.factoryImage : Nat → List (BitVec 8)

/-- What an erased byte of the flash reads as (R35 does not say). -/
opaque Config.erasedByte : BitVec 8

/-- A number nothing constrains: the model's choice where the spec leaves an order or a victim open. -/
opaque Config.freeNat : Nat → Nat

/-- A number nothing constrains, by the step: which of several running commands goes on. -/
opaque Config.freePick : Nat → Nat

/-- A 64-bit value nothing constrains. -/
opaque Config.freeWord : Nat → Word

/-- A byte of a saved team's image, whose layout belongs to the device (R113): the image's number and the byte's offset. -/
opaque Config.imageByte : Nat → Nat → BitVec 8

/-- A byte of shared memory whose island has been off (R19: the contents are lost): the moment and the byte's offset. -/
opaque Config.lostByte : Nat → Nat → BitVec 8

/-- What the lanes of a released register hold when a later write leaves them out (R195, R300: the value is lost), as a function of what the
register held. -/
opaque Config.lostImage : BitVec 2048 → BitVec 2048

/-- The part of a stream that one decode command brings (R404): Annex B framing, operating point, film grain synthesis, the frames it has output, its bytes read so far, none for
one whose read failed, and how many of them had been read when the last of those frames was done. -/
structure Av1Part where
  annexb : Bool
  op     : Nat
  grain  : Bool
  frames : Nat
  bytes  : List (Option (BitVec 8))
  mark   : Nat
  deriving DecidableEq, Repr

/-- What the AV1 specification says of an output frame of the last part of a stream (R66; log entry 7). The arguments are the stream's parts, the frame's
number within the last one, and which fact is asked for: the facts are numbered where they are read (Machine/Av1.lean). -/
opaque Config.av1Fact : List Av1Part → Nat → Nat → Nat

/-- A sample of an output frame: the stream, the frame, then plane, row and column. -/
opaque Config.av1Sample : List Av1Part → Nat → Nat × Nat × Nat → Nat

/-- The block of the ring path into which an element falls when the element count is no multiple of the member count (R63 gives no cut): count, members,
element. -/
opaque Config.ringBlock : Nat → Nat → Nat → Nat

end Sys2Proof
end

