-- ==== Sys2Proof/Machine/State.lean ====
section
/-! DEFINITION. The state of the whole device as plain data: every piece of state the spec names, grouped by the unit that
holds it; the faults and refusals; the state at reset. -/

namespace Sys2Proof.Machine

/-- Who stops the model. No instruction or event whose cause holds ends in a fault. -/
inductive Fault where
  /-- Raised by `exec` on a warp, Lighter or Pilot instruction when no such agent is current, which no step produces:
  `step` sets the agent first. Safe: no claim about a run can rest on it. -/
  | noAgent
  deriving DecidableEq, Repr

/-- What the model refuses. -/
inductive Refusal where
  /-- Raised by an arm of `exec` that has no meaning yet. Safe: nothing is claimed of it. -/
  | notModelled (mnemonic : String)
  deriving DecidableEq, Repr

/-! ## Names -/

/-- The trap causes of Table 7.13. -/
inductive Cause where
  | illegalOperand | releasedRegister | uninitialised | reservedOpcode | illegalClause | userTrap | breakpoint
  | queueOwner | queueDirection | poisonedEntry | queueExhausted | decouplingDeadlock
  | address | range | badTranslation | leaseBroken | protection | frameOutOfRange | uncorrectable | faultFailed
  | misaligned | atomicToHost | hostAccess | sharedRange | remoteRange | noDomain | noSuchDevice | remoteUnreachable
  | mode | tile
  deriving DecidableEq, Repr

/-- A warp: its team's number and its place in the team, 0 the access warp, i + 1 execute warp i. -/
structure WarpId where
  team : Nat
  idx  : Nat
  deriving DecidableEq, Repr

/-- Whose instruction runs: a warp, the Lighter slot of a core, or a walk of a Pilot command. -/
inductive Agent where
  | warp (w : WarpId)
  | lighter (core : Nat)
  | pilot (team : Nat) (seq : BitVec 32) (key : Nat)
  deriving DecidableEq, Repr

/-- What happens next (the model's own, log entry 1): an event, an instruction of an agent, the passing of time on
the counter of one island (`none`: on the management controller's counter), the eviction of a line of a core's L1 (R126), or an uncorrectable
error in the storage of a sector of a core's L1 (`none`: of its home slice; R122), or the host's choice of 2^`n` bytes for the Resizable BAR2 in configuration space (R48). -/
inductive Turn where
  | bar2 (n : Nat)
  | event (i : Instr)
  | run (a : Agent)
  | elapse (island : Option Nat) (ns : Nat)
  | evict (core pa : Nat)
  | upset (core : Option Nat) (pa : Nat)
  deriving DecidableEq, Repr

/-! ## Module and security (01) -/

/-- The stages of Table 1.8. -/
inductive Stage where
  | rom | firmware | running | recovery | stopped
  deriving DecidableEq, Repr

/-- The island states of Table 1.3. -/
inductive IState where
  | s0 | s1 | s2 | s3
  deriving DecidableEq, Repr

/-- One island: its state, its local counter, the state it is waking to, the ns it has held no runnable work (R18, R20, R22, R25). -/
structure Island where
  st    : IState
  count : BitVec 64
  wake  : Option IState
  idle  : Nat
  deriving DecidableEq, Repr

/-- What a flash slot holds (R41). The bytes of an image are kept as cells of the slot. -/
inductive SlotState where
  | empty
  | loading (total : Nat)
  | valid (total : Nat)
  deriving DecidableEq, Repr

/-- A flash slot: its state, its bytes, and the written ones while it loads. -/
structure FlashSlot where
  st      : SlotState
  bytes   : List Host.Cell
  written : List (Nat × Nat)
  deriving DecidableEq, Repr

/-- The image that the ROM started, with the values derived from it (R33 to R38). -/
structure RunningImage where
  slot      : Nat
  svn       : BitVec 32
  fwmeas    : List Byte
  aliasSeed : List Byte
  aliasCert : List Byte
  deriving DecidableEq, Repr

/-- What a mailbox command will publish when it completes (R40). -/
structure MailboxRun where
  error : Nat
  out   : List Byte
  deriving DecidableEq, Repr

/-- The management and security controller. `capping` says that the power cap has been exceeded and the average has not yet fallen below it (R15). `step` is the next step of bring-up, `cold` says that the bring-up is a cold one, `recSvn` is the minimum security
version in the fuse configuration record that the ROM built at the last cold or device reset (R42). -/
structure Mgmt where
  stage     : Stage
  cause     : BitVec 8
  cold      : Bool
  recSvn    : BitVec 32
  therm     : Bool
  step      : Option Nat
  supplyOk  : Bool
  thermHold : Bool
  capHeld   : List Nat
  capping   : Bool
  capW      : BitVec 16
  devTol    : BitVec 32
  clsTol    : Vector (BitVec 32) 8
  eff       : BitVec 32
  count     : BitVec 64
  minSvn    : BitVec 32
  revoked0  : Bool
  slots     : Vector FlashSlot 2
  image     : Option RunningImage
  mbLen     : BitVec 16
  mbDone    : BitVec 8
  mbError   : BitVec 4
  mbBuf     : Vector Byte 1024
  mbRun     : Option MailboxRun
  deriving DecidableEq, Repr

/-! ## Memory images -/

/-- Bytes with a poison mark per 16-byte sector: home memory, or one core's region of a block's shared memory.
`cells` is in canonical form and an unlisted byte reads 0 (R28, R90); `poison` lists sector numbers, rising (R122). -/
structure Ram where
  cells  : List Host.Cell
  poison : List Nat
  deriving DecidableEq, Repr

/-! ## Queues and warps (07 to 10, 12, 13) -/

/-- The states of a non-Free queue entry (Table 7.4). -/
inductive EntryState where
  | issued
  | pending
  | ready
  | poisoned (c : Cause)
  deriving DecidableEq, Repr

/-- A non-Free entry: state, 256 bytes, and the poison bit of each 16-byte sector (R122, R199). -/
structure Entry where
  st   : EntryState
  data : Image
  psec : BitVec 16
  deriving DecidableEq, Repr

/-- The directions of R81. -/
inductive Dir where
  | forward | ret | engine
  deriving DecidableEq, Repr

/-- A queue of a team (R81, R199): its non-Free entries, oldest first, the slot of the head, and the generation of each
slot. -/
structure Queue where
  depth    : Nat
  dir      : Dir
  producer : Nat
  owner    : Nat
  head     : Nat
  gens     : List (BitVec 2)
  entries  : List Entry
  deriving DecidableEq, Repr

/-- A vector register with the hidden state of Table 7.2. -/
structure VReg where
  data     : Image
  uninit   : Mask
  count    : BitVec 2
  released : Bool
  deriving DecidableEq, Repr

/-- An entry of the path stack (R278); `tok` is, for a path still to run, the first token that its divergence had not taken, and none for a merge (R162, R284). -/
structure PathEntry where
  pc   : Int
  mask : Mask
  rpc  : Option Int
  tok  : Option Nat := none
  deriving DecidableEq, Repr

/-- The trap frame (R289); `wrote` is what the clause that trapped had written (R112). -/
structure TrapFrame where
  m      : Mask
  rpc    : Option Int
  pstack : List PathEntry
  cstack : List Int
  wrote  : List Nat
  deriving DecidableEq, Repr

/-- A translation window (R146, R350): `remote` names the device of a remote window, `dom` marks a window filled in the
domain space. -/
structure Window where
  va      : Nat
  pa      : Nat
  limit   : Nat
  write   : Bool
  replica : Bool
  remote  : Option Nat
  dom     : Bool
  deriving DecidableEq, Repr

/-- What the trap-information registers will record (R219). -/
structure TrapInfo where
  cause : Cause
  sub   : BitVec 8
  reg   : Nat
  va    : Nat
  lanes : Mask
  nxt   : Bool
  slot  : Nat
  rep   : Nat
  hpc   : Int
  deriving DecidableEq, Repr

/-- A long-latency instruction of a warp (R250, R257): whether it has completed, the words its lookahead still lets issue
(`none` once it has lapsed), and whether its completion is an event of its own (a load into a register). -/
structure LongLat where
  tok  : Nat
  done : Bool
  left : Option Nat
  load : Bool
  grid : Bool
  deriving DecidableEq, Repr

/-- Why a warp does not issue its next instruction (R186, R207): a pop of a head, a pop of a later entry, a push, a push of several entries, an outstanding fault, a barrier instance not complete; a load into a register or an atomic in flight; acknowledgements; loads that an acquire or a fence holds it for; its own loads before a release;
its gathers; no fault slot free; a line of code on its way; operand fields or registers waited for by interlock; every earlier instruction of a warp of its team; its grid steps; a lookahead that has run out; an entry of
an `ewait` or a `qwait`; earlier loads of bytes it stores. -/
inductive Stall where
  | popQ (q : Nat)
  | popAt (q pos : Nat)
  | pushQ (q : Nat)
  | room (q n : Nat)
  | fault (core slot : Nat) (reason : Nat)
  | barrier (group : Nat)
  | load (tok : Nat)
  | atomic
  | acks (host : Bool)
  | held
  | loads
  | gathers
  | slots
  | line (va : Nat)
  | fields (fs : List Nat)
  | regs (rs : List Nat)
  | quiet (idx : Nat)
  | grid
  | look
  | command (e : Nat) (v : BitVec 32)
  | queue (q : Nat)
  | bytes (pas : List Nat)
  deriving DecidableEq, Repr

/-- How far an instruction has come that has begun and not retired (R351, R353, R354, R359, R361, R372): its write-backs have been sent
and it waits for their acknowledgement; a load into a register is in flight under a token; an atomic's lanes have been sent, with the
token, the lanes not yet answered, the old values, the lanes that failed with a cause, and the slot and generation of the entry that it fills; it has arrived at a barrier. -/
inductive Progressing where
  | released
  | load (tok : Nat)
  | atomic (tok : Nat) (left : Mask) (result : Image) (bad : List (Nat × Cause)) (ent : Option (Nat × BitVec 2))
  | arrived
  deriving DecidableEq, Repr

/-- The 128-byte line of code a warp has fetched last: its address, one snapshot, its poisoned sectors, and whether a host access
for it failed (R182, R433). -/
structure CodeLine where
  va     : Nat
  pa     : Nat
  bytes  : BitVec 1024
  poison : BitVec 8
  fail   : Bool
  deriving DecidableEq, Repr

/-- The header under which a clause runs (Table 9.1), once it has been issued. -/
structure Clause where
  cls   : Nat
  count : Nat
  deriving DecidableEq, Repr

/-- Kinds of access (Table 5.10). -/
inductive Acc where
  | load | store | atomic
  deriving DecidableEq, Repr

/-- A page: its first address, and whether it is one of 2 MiB or one of 64 KiB (R143). -/
structure Page where
  va  : Nat
  big : Bool
  deriving DecidableEq, Repr

/-- A warp. `slot` is the next instruction's position in the clause at `hdr`; `clause` is none while the header is still
to be issued; `resumed` marks a clause that continues from its slot without its waits (R254); `wslot` is the warp's slot on its core;
`failed` lists the pages whose fault has ended with outcome 1 for the next access (R151), `recheck` says that the next access goes through the TLB (R147); `others` lists the
tokens taken on paths that the running path is not ordered with, with the depth of the path stack at which they rejoin it (R162); `wrote` lists the registers that the current clause has written (R112). -/
structure Warp where
  ended    : Bool
  wslot    : Nat
  hdr      : Int
  slot     : Nat
  clause   : Option Clause
  resumed  : Bool
  elig     : Option Nat
  spinning : Bool
  live     : Mask
  m        : Mask
  rpc      : Option Int
  pstack   : List PathEntry
  cstack   : List Int
  frame    : Option TrapFrame
  k        : Vector Word 64
  p        : Vector Mask 8
  a        : Vector Image 64
  v        : List VReg
  tc       : Vector Word 16
  tw       : Vector Window 8
  tinfo    : Vector Word 4
  fflags   : Word
  amax     : Word
  matrix   : Bool
  gridWait : Bool
  retired  : Word
  repLeft  : Nat
  code     : Option CodeLine
  window   : List LongLat
  stall    : Option Stall
  trap     : Option TrapInfo
  failed   : List Page
  recheck  : Bool
  others   : List (Nat × Nat × Nat)
  begun    : Option Progressing
  holdLd   : List Nat
  holdSt   : List Nat
  lastBar  : List (Nat × Nat)
  wrote    : List Nat
  deriving DecidableEq, Repr

/-! ## Engine commands (14) -/

/-- The Lighter machine (R393): program, registers, tile buffer as data units with the poison of each, row mask, counters; `err` is an error,
its cause and code, whose record is still to be written (R396). -/
structure Lighter where
  prog    : List (BitVec 32)
  s       : Vector Word 16
  tile    : List Image
  tpois   : List (Option Cause)
  mask    : Mask
  tileNo  : BitVec 32
  recov   : Int
  pc      : Int
  run     : Nat
  errors  : Nat
  err     : Option (Nat × Nat)
  deriving DecidableEq, Repr

/-- A Pilot walk (R400): `out` is its outcome and cause code once it has ended. -/
structure Walk where
  key     : Nat
  w       : Vector Word 8
  started : Bool
  steps   : Nat
  node    : Nat
  buf     : Option (List Byte)
  pc      : Int
  count   : Nat
  out     : Option (Nat × Nat)
  failed  : Bool
  deriving DecidableEq, Repr

/-- A Pilot command in progress: the program read at start, the walks not yet delivered in key order, and the counts. -/
structure PilotRun where
  prog   : List (BitVec 32)
  next   : Nat
  walks  : List Walk
  done   : Nat
  limits : Nat
  faults : Nat
  deriving DecidableEq, Repr

/-- An AV1 command in progress (R405, R406): whether it has begun its stream, the next frame, the number of that frame's first tile, the corrupt and
missing frames, the frames output whole, the barrier instance at which it arrived for the frame before, and the next piece of output within the frame (an entry
of a queue, a tile of memory). -/
structure Av1Run where
  begun   : Bool
  frame   : Nat
  tileNo  : Nat
  bad     : Nat
  whole   : Nat
  waitFor : Option Nat
  pos     : Nat
  ended   : Bool := false
  deriving DecidableEq, Repr

/-- How far a running command has come: a copy, its output offset; a gather, with the indices at or above nrow and the index of the row in hand. A
Lighter or Pilot command whose program is empty has still to read it. -/
inductive Progress where
  | copy (off : Nat)
  | gather (off misses idx : Nat)
  | lighter (m : Lighter)
  | pilot (r : PilotRun)
  | av1 (r : Av1Run)
  | coll
  deriving DecidableEq, Repr

/-- A command's life (R383, R384): queued; checked at the head; running; finished with status, cause and count; or, its arrival made, with
its completion record still to be written. -/
inductive CmdState where
  | queued
  | checked
  | running (p : Progress)
  | finished (status cause count : Nat)
  | arrived (status cause count : Nat)
  deriving DecidableEq, Repr

/-- An outstanding engine command: queue, number, eight quadwords, the predecessors resolved at the push, the stores that must be
acknowledged before its first access (R172, R178), its place in push order over the device (R392, R409), its state, whether it has been suspended for a save, whether a fault on one of its
accesses was resolved with outcome 1, whether it holds on an outstanding fault, and the output offset of the sector that faulted (R391). -/
structure Cmd where
  e         : Nat
  seq       : BitVec 32
  q         : Vector Word 8
  pre       : List (Nat × BitVec 32)
  badPre    : Bool
  after     : List Nat
  ord       : Nat
  st        : CmdState
  suspended : Bool
  failed    : Bool
  holding   : Bool
  heldAt    : Nat
  deriving DecidableEq, Repr

/-! ## Demand faults and loads in progress (05, 07) -/

/-- What has joined a demand fault (R150). -/
inductive Joined where
  | load (tok : Nat)
  | warp (w : WarpId) (a : Acc)
  | fetch (w : WarpId)
  | cmd (team e : Nat) (seq : BitVec 32) (a : Acc)
  | walk (team : Nat) (seq : BitVec 32) (key : Nat) (a : Acc)
  deriving DecidableEq, Repr

/-- An outstanding demand fault of a core (Table 5.12): the page, its kind, the first access's team, what has joined it, and
whether its record has been written. -/
structure FaultSlot where
  page     : Page
  asid     : BitVec 12
  kind     : Nat
  team     : Nat
  joined   : List Joined
  recorded : Bool
  deriving DecidableEq, Repr

/-- Where the data of a load goes: an `a` register, a queue entry (queue, slot, generation), nowhere (`zero`), or the caches of the cores of an `mcast` (R357). -/
inductive LoadDst where
  | reg (n : Nat)
  | entry (q slot : Nat) (gen : BitVec 2)
  | none
  | caches
  deriving DecidableEq, Repr

/-- One byte of a load: the byte of the destination image it fills, and its device physical address. -/
structure NeedByte where
  pos : Nat
  pa  : Nat
  deriving DecidableEq, Repr

/-- One access of a load: the place of its first byte in the destination image, its virtual address and its width, kept for the check at
a fault's resolution (R151), and whether it is made in the domain space (R59). -/
structure LaneAcc where
  pos  : Nat
  va   : Nat
  size : Nat
  dom  : Bool
  deriving DecidableEq, Repr

/-- A gather at the index line's home slice (R136, R356): the load whose entry it fills, the addresses of the bytes of its index line, the element size, the table
length, the active lanes, the table window. -/
structure GatherReq where
  core   : Nat
  tok    : Nat
  idx    : List Nat
  esz    : Nat
  len    : Word
  lanes  : Mask
  win    : Window
  deriving DecidableEq, Repr

/-- A load in progress (R189, R199, R351): its warp, destination, the extension to apply (none for bytes that stand as they arrive), its
accesses by lane, the bytes not yet arrived, those that have, the byte positions that failed with their causes, the accesses that wait
on a fault, those that are made once no access does (R171), the gather that a slice still has to make for it, and whether slices make its accesses (R136). -/
structure PendLoad where
  tok     : Nat
  w       : WarpId
  dst     : LoadDst
  ty      : Option (BitVec 4)
  accs    : List LaneAcc
  need    : List NeedByte
  data    : Image
  bad     : List (Nat × Cause)
  faulted : List LaneAcc
  later   : List LaneAcc := []
  gather  : Option GatherReq := none
  atSlice : Bool := false
  home    : Bool := false
  deriving DecidableEq, Repr

/-! ## Teams, blocks and tasks (03, 04) -/

/-- The team states of Table 4.7; an ended team is removed from the list of teams. -/
inductive TeamState where
  | resident | parked | saving | saved | restoring
  deriving DecidableEq, Repr

/-- A park condition (Table 4.8): reason, fault identifier, and the code or the page. -/
structure ParkCond where
  reason : Nat
  fid    : Nat
  code   : Word
  deriving DecidableEq, Repr

/-- The decoupling counters of Table 7.6; `inLoss` while a loss of decoupling lasts (R206). -/
structure Lod where
  events  : BitVec 32
  ns      : BitVec 48
  qfull   : BitVec 48
  pend    : BitVec 48
  inLoss  : Bool
  deriving DecidableEq, Repr

/-- A team (R100): its number, task, block, place, state, and everything that is saved with it. `ranAt` is the memory island's counter less the ns the team has been
Resident or Parked, and those ns themselves from a save's choice to the end of the restore (R110); `image` is the number of its image in the save store; `base` is its task's level when its block was placed, `level` the one it ages at while it is Saved (R104); `parkNs` counts the ns parked before a save; `saveRun` is its run of the save store; `flushed` says that its final write-back has been sent; `faults` and
`loads` are the outstanding faults and Pending entries of a saved image (Table 4.10). -/
structure Team where
  num      : Nat
  task     : Nat
  block    : Nat
  index    : Nat
  core     : Nat
  st       : TeamState
  draining : Bool
  level    : Nat
  base     : Nat
  parks    : List ParkCond
  parkNs   : Nat
  parkAt   : BitVec 64
  ranAt    : BitVec 64
  deadAt   : Option (BitVec 64)
  warps    : List Warp
  queues   : List Queue
  fb       : Vector (BitVec 512) 16
  eseq     : Vector (BitVec 32) 16
  edone    : Vector (BitVec 32) 16
  cmds     : List Cmd
  lod      : Lod
  waitSince : BitVec 64
  saveRun  : Option (Nat × Nat)
  image    : Nat
  flushed  : Bool
  faults   : List FaultSlot
  loads    : List PendLoad
  deriving DecidableEq, Repr

/-- A member of a barrier group: an execute warp of the block, the access warp of a team, or an engine channel (R82). -/
inductive Member where
  | team (t : Nat)
  | chan (c : Nat)
  deriving DecidableEq, Repr

/-- A barrier group of a block (R82, R371): its masks; the error bits of the completed instances, so that the current
instance is the length of that list; the arrivals for the current instance with their error bits; the held arrivals of
engine channels. -/
structure Group where
  gnum    : Nat
  xmask   : BitVec 64
  amask   : BitVec 64
  emask   : BitVec 16
  results : List Bool
  arrived : List (Member × Bool)
  held    : List (Nat × Bool)
  deriving DecidableEq, Repr

/-- A placed block: its task, its index, the cores of its set in core-index order, its shared size in KiB, a region for each
core, its groups, and when it was placed. -/
structure Block where
  id     : Nat
  task   : Nat
  index  : Nat
  cores  : List Nat
  shm    : Nat
  shared : List Ram
  groups : List Group
  seq    : Nat
  deriving DecidableEq, Repr

/-- The task states of Table 4.6; an ended task is removed from the list of tasks. -/
inductive TaskState where
  | queued | leaseWait | partially | placed | failing | killing
  deriving DecidableEq, Repr

/-- A group entry of a launch table (R82). -/
structure GroupDesc where
  gnum  : Nat
  xmask : BitVec 64
  amask : BitVec 64
  emask : BitVec 16
  deriving DecidableEq, Repr

/-- What validation read of the code object and the launch table (R78 to R83). -/
structure Launch where
  csize   : Nat
  liveOff : Nat
  liveCnt : Nat
  traph   : Nat
  parkh   : Nat
  queues  : List Word
  groups  : List GroupDesc
  demand  : List (Nat × Nat)
  deriving DecidableEq, Repr

/-- A task from its acceptance to its end (R94 to R99); `slot` is its record's place in the record store, none for one of the 4,096 slots on the chip. -/
structure Task where
  id       : Nat
  record   : Vector Word 8
  area     : Nat
  index    : BitVec 32
  asid     : BitVec 12
  spawned  : Bool
  launch   : Launch
  level    : Nat
  since    : BitVec 64
  accepted : BitVec 64
  slot     : Option Nat
  st       : TaskState
  next     : Nat
  back     : List Nat
  everPlaced : Bool
  killed   : Bool
  fault    : Option Nat
  retired  : Word
  teams    : Nat
  lastTime : Word
  deriving DecidableEq, Repr

/-- The lease states of Table 4.12 but Inactive: an inactive lease is not listed. -/
inductive LeaseState where
  | walking | waiting | active | held
  deriving DecidableEq, Repr

/-- A lease (R84 to R86, R118): its ranges, remote permissions, hold flag, a pending release, the pages pinned so far, and the
tasks told of the page at which the walk stopped. -/
structure Lease where
  area    : Nat
  id      : Nat
  st      : LeaseState
  ranges  : List (Nat × Nat)
  rread   : Bool
  rwrite  : Bool
  ratomic : Bool
  hold    : Bool
  relPend : Bool
  pinned  : Nat
  told    : List Nat
  asid    : BitVec 12
  deriving DecidableEq, Repr

/-- A finished completion that has not been written: the entry, and whether its info is the controller's counter of the moment it is written (R73, R74, Table 3.6). -/
structure Kept where
  bytes : List Byte
  now   : Bool
  deriving DecidableEq, Repr

/-- A submission area (Tables 3.1 to 3.5): its registers, the finished completions it keeps (R73, R74), a message due and
the time of the last one. -/
structure Area where
  subVa     : BitVec 40
  subSize   : BitVec 4
  subTail   : BitVec 32
  subHead   : BitVec 32
  halted    : Bool
  err       : BitVec 8
  asid      : BitVec 12
  vec       : BitVec 6
  pcap      : BitVec 4
  irq       : Bool
  en        : Bool
  cplVa     : BitVec 40
  cplSize   : BitVec 4
  cplTail   : BitVec 32
  cplHead   : BitVec 32
  leaseCnt  : BitVec 12
  leaseVa   : BitVec 46
  kept      : List Kept
  holdCpl   : Bool
  msgDue    : Bool
  msgAt     : Option (BitVec 64)
  deriving DecidableEq, Repr

/-- A request written to task_ctl (Table 4.5). -/
structure TaskCtl where
  fn : Fn
  v  : Word
  deriving DecidableEq, Repr

/-- A victim of the head's automatic pre-emption (R109): the team, its core and block, what it holds there, and whether it has freed it. -/
structure Victim where
  team    : Nat
  core    : Nat
  block   : Nat
  regs    : Nat
  warps   : Nat
  entries : Nat
  shm     : Nat
  freed   : Bool
  deriving DecidableEq, Repr

/-- The Harbourmaster's registers and queues (Tables 4.1 to 4.5, R100, R102, R106, R109). -/
structure Harbourmaster where
  parkTo    : BitVec 16
  pdelta    : BitVec 4
  ageUs     : BitVec 16
  recBase   : BitVec 19
  recSize   : BitVec 4
  saveBase  : BitVec 19
  saveSize  : BitVec 8
  parkBase  : BitVec 28
  parkVec   : BitVec 6
  parkSize  : BitVec 4
  parkTail  : BitVec 32
  parkHead  : BitVec 32
  parkWait  : List (List Byte)
  parkMsg   : Bool
  parkMsgAt : Option (BitVec 64)
  ctl       : List TaskCtl
  teamCtr   : BitVec 32
  nextTask  : Nat
  nextBlock : Nat
  tasks     : List Task
  blocks    : List Block
  teams     : List Team
  leases    : List Lease
  head      : Option (Nat × BitVec 64)
  victims   : List Victim
  conts     : List (Nat × Nat × BitVec 32 × Option (Vector Word 8))
  deriving DecidableEq, Repr

/-! ## Cores (05, 07) -/

/-- A line of an L1 cache (R120, R121, R126): its way, sectors valid and poisoned, the bytes written since they were last written back (a sector is
dirty while one of its bytes is, log entry 20), 128 bytes, and the core's counter when it first became dirty. -/
structure L1Line where
  pa      : Nat
  way     : Nat
  valid   : BitVec 8
  dirty   : BitVec 128
  poison  : BitVec 8
  data    : BitVec 1024
  dirtyAt : BitVec 64
  deriving DecidableEq, Repr

/-- An entry of a walk cache (R144): the table to which the entry of a level for a virtual address leads; `va` is the address without the bits that lower levels index. -/
structure WalkEntry where
  asid  : BitVec 12
  level : Nat
  va    : Nat
  table : Nat
  deriving DecidableEq, Repr

/-- A TLB entry (R144): address space, page, frame, 2 MiB or 64 KiB, permissions. -/
structure TlbEntry where
  asid    : BitVec 12
  va      : Nat
  pa      : Nat
  big     : Bool
  write   : Bool
  replica : Bool
  deriving DecidableEq, Repr

/-- A store of a core that has not been acknowledged (R166): its warp, whether it has been performed at its home slice,
whether it is a write-back, whether it is an aperture store, whether a remote one. -/
structure StoreTok where
  tok    : Nat
  w      : Option WarpId
  done   : Bool
  remote : Bool
  deriving DecidableEq, Repr

/-- A reply on its way to a core (Table 5.6): line, sector codes, poison, literal sectors; the loads that its merged requests serve. -/
structure Reply where
  mask     : BitVec 64
  line     : Nat
  codes    : BitVec 16
  tag      : BitVec 16
  poison   : BitVec 8
  literals : List (BitVec 128)
  toks     : List Nat
  deriving DecidableEq, Repr

/-- A reply that a core has still to take: bytes, with their poison, that the core has stored since the line stood as the reply has it and that its home slice had not served by then; sectors that the L1 does not take
from it, since the core knows of a newer state of theirs (R138, R165; log entry 28). -/
structure Arrival where
  r      : Reply
  stored : List (Host.Cell × Bool)
  skip   : BitVec 8
  deriving DecidableEq, Repr

/-- A type with its scale and zero-point arrays for the quantised operand of a grid instruction, per row or column and group
(R333). -/
structure Quant where
  glen : Nat
  sA   : List (BitVec 16)
  zA   : List (BitVec 8)
  sB   : List (BitVec 16)
  zB   : List (BitVec 8)
  deriving DecidableEq, Repr

/-- Where `mcvt` writes (R343). -/
inductive CvtDst where
  | regs (d : Nat) (cc : BitVec 2)
  | queue (q : Nat) (slots : List (Nat × BitVec 2))
  | none
  deriving DecidableEq, Repr

/-- What a grid instruction will do to its tile when its step is done (12). -/
inductive GridAct where
  | zero
  | norm
  | exp (n : Int)
  | expTo (n : Int)
  | acc (neg : Bool) (k : Nat) (aTy bTy : BitVec 4) (a b : List Image) (q : Option Quant)
  | cvt (dst : CvtDst) (ty : BitVec 4) (rm : BitVec 2) (sf : Bool) (rows : Mask)
  | nothing
  deriving DecidableEq, Repr

/-- A grid instruction in flight (R338, R339): its warp, its accumulator's tile-control number and first register. -/
structure GridOp where
  w    : WarpId
  tcn  : Nat
  base : Nat
  act  : GridAct
  tok  : Nat
  deriving DecidableEq, Repr

/-- A partition (R186, R210): the warp that holds its issue port, the warp that holds its grid, those that wait for the grid in
order, the grid instructions in flight in issue order, the registers requested resident per warp (R296). -/
structure Part where
  holder : Option WarpId
  grid   : Option WarpId
  waiters : List WarpId
  ops    : List GridOp
  rgn    : List (WarpId × Nat × Nat)
  deriving DecidableEq, Repr

/-- A core; `codes` holds the lines of code that its fetches have read and that no `iinv` has dropped (R182, R362). -/
structure Core where
  l1       : List L1Line
  tlb      : List TlbEntry
  walks    : List WalkEntry
  codes    : List CodeLine
  faults   : Vector (Option FaultSlot) 32
  loads    : List PendLoad
  unacked  : List StoreTok
  arriving : List Arrival
  parts    : Vector Part 32
  tender   : Vector (Option WarpId) 2
  copyCmd : List (Nat × BitVec 32)
  lightCmd : Option (Nat × BitVec 32)
  deriving DecidableEq, Repr

/-! ## Slices (05) -/

/-- A lane's atomic at its home slice (R134, R354): element address, type, operation, operand, expected value. -/
structure AtomElem where
  lane : Nat
  pa   : Nat
  ty   : BitVec 4
  op   : BitVec 3
  x    : Word
  e    : Word
  deriving DecidableEq, Repr

/-- Where the old values of an atomic go: to the instruction of a token, for an entry of a queue or for a register, or `zero` discards them (R354). -/
inductive AtomDst where
  | warp (w : WarpId) (tok : Nat)
  | reg (w : WarpId) (tok : Nat)
  | discard (w : WarpId) (tok : Nat)
  deriving DecidableEq, Repr

/-- A request in a slice's arrival queue (R129). The parts of a store become visible one by one (R158); `elem` is a forwarded read of a gather's element, or of the part of it in a line (R136). -/
inductive SliceReq where
  | load (mask : BitVec 64) (line : Nat) (sectors : BitVec 8) (tag : Nat)
  | store (core : Nat) (tok : Nat) (parts : List (List Host.Cell)) (poison whole : BitVec 8)
  | elem (core tok : Nat) (need : List NeedByte)
  | atomic (core : Nat) (dst : AtomDst) (elems : List AtomElem)
  | reduce (core tok : Nat) (elems : List AtomElem)
  | gather (g : GatherReq)
  | clean (core tok line : Nat)
  deriving DecidableEq, Repr

/-- A line that a slice holds (R129 to R131): only its presence; its bytes are home memory's. -/
structure L2Line where
  pa    : Nat
  way   : Nat
  cls   : Nat
  valid : BitVec 8
  dirty : BitVec 8
  deriving DecidableEq, Repr

/-- A fill or a scheduled reply whose merging window is open (R139). -/
structure OpenWindow where
  line    : Nat
  mask    : BitVec 64
  sectors : BitVec 8
  tag     : Nat
  toks    : List Nat
  filling : Bool
  deriving DecidableEq, Repr

/-- An L2 slice. -/
structure Slice where
  queue   : List SliceReq
  lines   : List L2Line
  ptr     : List (Nat × Nat)
  windows : List OpenWindow
  phase   : Nat
  deriving DecidableEq, Repr

/-- The tide table in force (R132). -/
structure TideTable where
  map   : List (Nat × Nat)
  ranks : List Word
  deriving DecidableEq, Repr

/-- The counters of Table 5.13. -/
structure Counters where
  hbmCorr  : Vector Word 8
  hbmUnc   : Vector Word 8
  sramCorr : Word
  hostErr  : Word
  domDrop  : Word
  tideErr  : Word
  joinErr  : Word
  recDrop  : Word
  ethDrop  : Vector Word 16
  slicePois : Vector Word 128
  reqFlits : Vector Word 128
  repFlits : Vector Word 128
  merged   : Vector Word 128
  elided   : Vector Word 128
  deriving DecidableEq, Repr

/-- An invalidation written to tlb_inv (R145): the value, and the first token that no access had taken when it was written. -/
structure TlbReq where
  v   : Word
  tok : Nat
  deriving DecidableEq, Repr

/-- Memory, its registers and counters (05); `tideFrom` is the base of the load in progress (R132). -/
structure MemSys where
  ram      : Ram
  domAsid  : BitVec 12
  asBase   : BitVec 24
  asEn     : Bool
  tlbDone  : BitVec 32
  tlbReqs  : List TlbReq
  fltBase  : BitVec 28
  fltVec   : BitVec 6
  fltSize  : BitVec 4
  fltTail  : BitVec 32
  fltHead  : BitVec 32
  fltMsg   : Bool
  fltMsgAt : Option (BitVec 64)
  tideBase : BitVec 28
  tideFrom : BitVec 28
  tideLoading : Bool
  tideLevel : Bool
  tidePhase : BitVec 6
  tide     : Option TideTable
  ctr      : Counters
  nextTok  : Nat
  deriving DecidableEq, Repr

/-! ## Links (02) -/

/-- Who reads host memory for a device event: an area's record fetch, a lease's activation, a spawned record, a continuation, a team's save, an
engine command, a walk (log entry 14). -/
inductive Reader where
  | area (a : Nat)
  | lease (a id : Nat)
  | spawn (team : Nat) (seq : BitVec 32)
  | cont
  | save (team : Nat)
  | cmd (team e : Nat) (seq : BitVec 32)
  | walk (team : Nat) (seq : BitVec 32) (key : Nat)
  deriving DecidableEq, Repr

/-- What an aperture read fills. -/
inductive ApDst where
  | load (core tok : Nat)
  | code (w : WarpId) (va : Nat)
  | buf (r : Reader)
  deriving DecidableEq, Repr

/-- Host bytes that have arrived for a reader and wait for its event to go on; none when the read failed (log entry 14). -/
structure ApBuf where
  r    : Reader
  pa   : Nat
  len  : Nat
  data : Option (List Byte)
  deriving DecidableEq, Repr

/-- An outstanding aperture read (R52, R53): its tag, first address and bus address, length, destination, and the controller's time it was sent. -/
structure ApRead where
  tag  : Nat
  pa   : Nat
  ba   : Nat
  len  : Nat
  dst  : ApDst
  sent : BitVec 64
  deriving DecidableEq, Repr

/-- Who posted an aperture write: a warp, a command of a team, another unit. -/
inductive ApOwner where
  | warp (w : WarpId)
  | cmd (team e : Nat) (seq : BitVec 32)
  | unit
  deriving DecidableEq, Repr

/-- An aperture store that waits for an ATS translation (R50): its owner and bus address, and the function whose team made it (R49). -/
structure ApWrite where
  own   : ApOwner
  ba    : Nat
  bytes : List Host.Cell
  fn    : Fn := .pf
  deriving DecidableEq, Repr

/-- What a remote access does (R59 to R61). -/
inductive RemoteOp where
  | read (tok : Nat) (len : Nat)
  | write (bytes : List Byte) (bad : Bool)
  | atomic (tok lane : Nat) (op : BitVec 3) (x e : Word)
  deriving DecidableEq, Repr

/-- A remote access of this device (R56, R176): its tag, core, warp, target and address, whether it has been sent, on which port, how often
it has been retransmitted, and the controller's time of the last time it was sent. -/
structure Remote where
  tag   : Nat
  core  : Nat
  w     : WarpId
  dev   : Nat
  va    : Nat
  op    : RemoteOp
  stok  : Option Nat
  sent  : Bool
  port  : Nat
  tries : Nat
  last  : BitVec 64
  deriving DecidableEq, Repr

/-- A port (R54): link up, link-level retry and credits in use. -/
structure EthPort where
  up     : Bool
  llr    : Bool
  credit : Bool
  deriving DecidableEq, Repr

/-- An entry of the domain table that has been read (R58). -/
structure DomEntry where
  dev   : Nat
  ip    : BitVec 128
  ports : BitVec 16
  valid : Bool
  deriving DecidableEq, Repr

/-- A collective member list (R65, R407): its members, whether one has been lost, how many operations it has begun. -/
structure CollList where
  members : List Nat
  lost    : Bool
  ops     : Nat
  deriving DecidableEq, Repr

/-- A stream context of a decode unit (R67, R404): its owner, which reference slots are valid, the parts of the stream that its commands have brought, whether Table 2.9 excludes the
sequence header in force (R70), and whether a read in a sequence header, or outside a frame, has failed since one was last read whole (R405). -/
structure Av1Ctx where
  owner    : Option Nat
  slots    : BitVec 8
  parts    : List Av1Part
  excluded : Bool
  unread   : Bool
  deriving DecidableEq, Repr

/-- The size of BAR2 as a power of two (R48), the host aperture, the domain, the ports, the collective engine's lists and the decoders. -/
structure Links where
  bar2     : Nat
  apBase   : BitVec 28
  ats      : Bool
  apEn     : Bool
  atsHeld  : List Nat
  atsAsked : List Nat
  atsInv   : List Nat
  apReads  : List ApRead
  apQueue  : List ApRead
  apWrites : List ApWrite
  apBuf    : List ApBuf
  domid    : BitVec 16
  self     : BitVec 10
  domEn    : Bool
  domTab   : BitVec 25
  domCache : List DomEntry
  ports    : Vector EthPort 16
  remotes  : List Remote
  collBase : BitVec 27
  lists    : List CollList
  av1      : Vector (Vector Av1Ctx 8) 8
  deriving DecidableEq, Repr

/-- What the device has sent to the outside (the model's own record, log entry 3). -/
inductive Msg where
  | msix (fn : Fn) (vec : Nat)
  | hostWrite (addr : Nat) (data : List Byte)
  | hostRead (tag addr len : Nat)
  | hostReply (data : List Byte) (ep : Bool)
  | hostUr
  | atsRequest (page : Nat)
  | atsDone (page : Nat)
  | domSend (domid : BitVec 16) (dev tag va : Nat) (op : RemoteOp)
  | domReply (src tag : Nat) (data : List Byte) (bad : Bool)
  | domAck (src tag : Nat) (old : Word) (bad : Bool)
  | domNack (src tag : Nat)
  | coll (data : List Byte)
  deriving DecidableEq, Repr

/-! ## The device -/

/-- The state of the device. `turns`, `cur`, `fresh`, `tick` and `sent` are the model's own (log entries 1 to 3). -/
structure State where
  mgmt    : Mgmt
  islands : Vector Island 512
  links   : Links
  areas   : Vector Area 80
  hm      : Harbourmaster
  cores   : Vector Core 64
  slices  : Vector Slice 128
  mem     : MemSys
  turns   : List Turn
  cur     : Option Agent
  fresh   : Nat
  tick    : Nat
  sent    : List Msg
  deriving DecidableEq, Repr

/-! ## Reset -/

/-- An empty flash slot. -/
def FlashSlot.empty : FlashSlot := { st := .empty, bytes := [], written := [] }

/-- The cells of a run of bytes, a zero byte being unlisted. -/
def cellsFrom : Nat → List Byte → List Host.Cell
  | _, [] => []
  | n, b :: bs => if b = 0 then cellsFrom (n + 1) bs else (n, b) :: cellsFrom (n + 1) bs

/-- A flash slot as it leaves the factory (log entry 6). -/
def FlashSlot.factory (i : Nat) : FlashSlot :=
  { st := .valid (Config.factoryImage i).length, bytes := cellsFrom 0 (Config.factoryImage i), written := [] }

/-- An island before it is first powered (log entry 5). -/
def Island.reset : Island := { st := .s3, count := 0, wake := none, idle := 0 }

/-- The management controller when bring-up starts (R28, R29; log entries 5 and 6). -/
def Mgmt.reset : Mgmt :=
  { stage := .rom, cause := 0, cold := true, recSvn := 0, therm := false, step := some 1, supplyOk := true, thermHold := false, capHeld := [], capping := false,
    capW := 1800, devTol := 0, clsTol := Vector.replicate 8 0, eff := 0, count := 0, minSvn := 0, revoked0 := false,
    slots := #v[FlashSlot.factory 0, FlashSlot.factory 1], image := none, mbLen := 0, mbDone := 0, mbError := 0,
    mbBuf := Vector.replicate 1024 0, mbRun := none }

/-- Memory with every byte 0 and no poison (R28). -/
def Ram.zero : Ram := { cells := [], poison := [] }

/-- A submission area at reset (Tables 3.2 to 3.5). -/
def Area.reset : Area :=
  { subVa := 0, subSize := 0, subTail := 0, subHead := 0, halted := false, err := 0, asid := 0, vec := 0, pcap := 15,
    irq := false, en := false, cplVa := 0, cplSize := 0, cplTail := 0, cplHead := 0, leaseCnt := 0, leaseVa := 0,
    kept := [], holdCpl := false, msgDue := false, msgAt := none }

/-- The Harbourmaster at reset (Tables 4.1 to 4.5; log entry 8). -/
def Harbourmaster.reset : Harbourmaster :=
  { parkTo := 0, pdelta := 4, ageUs := 1000, recBase := 0, recSize := 0, saveBase := 0, saveSize := 0, parkBase := 0,
    parkVec := 0, parkSize := 0, parkTail := 0, parkHead := 0, parkWait := [], parkMsg := false, parkMsgAt := none, ctl := [], teamCtr := 1, nextTask := 0,
    nextBlock := 0, tasks := [], blocks := [], teams := [], leases := [], head := none, victims := [], conts := [] }

/-- A free partition. -/
def Part.free : Part := { holder := none, grid := none, waiters := [], ops := [], rgn := [] }

/-- A core with invalid caches and nothing in flight (R91; log entry 9). -/
def Core.reset : Core :=
  { l1 := [], tlb := [], walks := [], codes := [], faults := Vector.replicate 32 none, loads := [], unacked := [], arriving := [],
    parts := Vector.replicate 32 Part.free, tender := Vector.replicate 2 none, copyCmd := [], lightCmd := none }

/-- A slice with every line invalid and every rotation pointer 0 (R28, R131). -/
def Slice.reset : Slice := { queue := [], lines := [], ptr := [], windows := [], phase := 0 }

/-- Every counter 0 (R154). -/
def Counters.zero : Counters :=
  { hbmCorr := Vector.replicate 8 0, hbmUnc := Vector.replicate 8 0, sramCorr := 0, hostErr := 0, domDrop := 0,
    tideErr := 0, joinErr := 0, recDrop := 0, ethDrop := Vector.replicate 16 0, slicePois := Vector.replicate 128 0,
    reqFlits := Vector.replicate 128 0, repFlits := Vector.replicate 128 0, merged := Vector.replicate 128 0,
    elided := Vector.replicate 128 0 }

/-- The memory system at reset (Tables 5.2, 5.7 and 5.11). -/
def MemSys.reset : MemSys :=
  { ram := Ram.zero, domAsid := 0, asBase := 0, asEn := false, tlbDone := 0, tlbReqs := [], fltBase := 0, fltVec := 0,
    fltSize := 0, fltTail := 0, fltHead := 0, fltMsg := false, fltMsgAt := none, tideBase := 0, tideFrom := 0, tideLoading := false, tideLevel := false, tidePhase := 0,
    tide := none, ctr := Counters.zero, nextTok := 0 }

/-- A port whose link is down. -/
def EthPort.down : EthPort := { up := false, llr := false, credit := false }

/-- A context that no team owns (log entry 7). -/
def Av1Ctx.free : Av1Ctx := { owner := none, slots := 0, parts := [], excluded := false, unread := false }

/-- The links at reset (Tables 2.3, 2.4, 2.6, 2.7 and 14.14). -/
def Links.reset : Links :=
  { bar2 := 28, apBase := 0, ats := false, apEn := false, atsHeld := [], atsAsked := [], atsInv := [], apReads := [], apQueue := [], apWrites := [], apBuf := [],
    domid := 0, self := 0, domEn := false, domTab := 0, domCache := [], ports := Vector.replicate 16 EthPort.down,
    remotes := [], collBase := 0, lists := [], av1 := Vector.replicate 8 (Vector.replicate 8 Av1Ctx.free) }

/-- The device when the cold bring-up of R28 starts: stage Rom, nothing powered, memory with nothing listed. -/
def State.reset : State :=
  { mgmt := Mgmt.reset, islands := Vector.replicate 512 Island.reset, links := Links.reset,
    areas := Vector.replicate 80 Area.reset, hm := Harbourmaster.reset, cores := Vector.replicate 64 Core.reset,
    slices := Vector.replicate 128 Slice.reset, mem := MemSys.reset, turns := [], cur := none, fresh := 0, tick := 0,
    sent := [] }

end Sys2Proof.Machine
end

