-- ==== Sys2Proof/Machine/Bits.lean ====
section
/-! DEFINITION. Bit fields, lanes, sub-elements and byte order (R5, R6), and total reads and writes of vectors and lists. -/

namespace Sys2Proof.Machine

/-- `n` numbers of `w` bits each, number i at bits `w * i` upward. -/
def packNat (w : Nat) (f : Nat → Nat) : Nat → Nat
  | 0 => 0
  | n + 1 => packNat w f n ||| ((f n % 2 ^ w) <<< (w * n))

/-- Bits `[lo + w - 1 : lo]` of a number. -/
def bitsOf (x lo w : Nat) : Nat := (x >>> lo) % 2 ^ w

/-- A field of a 64-bit word, as a number (R5). -/
def fieldOf (x : Word) (lo w : Nat) : Nat := bitsOf x.toNat lo w

/-- One bit as a number. -/
def b2n (b : Bool) : Nat := if b then 1 else 0

/-- Lane `t` of an image (R6). -/
def lane (x : Image) (t : Nat) : Word := x.extractLsb' (64 * t) 64

/-- The image whose lane `t` is `f t`. -/
def ofLanes (f : Nat → Word) : Image := BitVec.ofNat 2048 (packNat 64 (fun t => (f t).toNat) 32)

/-- Sub-element `s` of a lane, of width `w` (R6). -/
def subEl (w : Nat) (x : Word) (s : Nat) : Nat := bitsOf x.toNat (w * s) w

/-- The lane whose sub-elements of width `w` are `f`. -/
def ofSubs (w : Nat) (f : Nat → Nat) : Word := BitVec.ofNat 64 (packNat w f (64 / w))

/-- Byte `n` of an image. -/
def imgByte (x : Image) (n : Nat) : Byte := x.extractLsb' (8 * n) 8

/-- The image with byte `n` replaced. -/
def setImgByte (x : Image) (n : Nat) (b : Byte) : Image :=
  ofLanes fun t =>
    if t = n / 8 then ofSubs 8 (fun c => if c = n % 8 then b.toNat else subEl 8 (lane x t) c) else lane x t

/-- The mask whose bit `t` is `f t`. -/
def maskOf (f : Nat → Bool) : Mask := BitVec.ofNat 32 (packNat 1 (fun t => b2n (f t)) 32)

/-- Bit `t` of a mask. -/
def mbit (m : Mask) (t : Nat) : Bool := m.getLsbD t

/-- Every lane. -/
def allLanes : Mask := BitVec.allOnes 32

/-- The lowest set bit of a mask. -/
def lowestLane (m : Mask) : Option Nat := (List.range 32).find? (mbit m)

/-- The lanes of `new` where `act` is set, those of `old` elsewhere. -/
def mergeLanes (act : Mask) (new old : Image) : Image :=
  ofLanes fun t => if mbit act t then lane new t else lane old t

/-- Two's-complement value of a `w`-bit number. -/
def sextN (w x : Nat) : Int := if x % 2 ^ w < 2 ^ (w - 1) then (x % 2 ^ w : Nat) else ((x % 2 ^ w : Nat) : Int) - (2 ^ w : Nat)

/-- The `w`-bit pattern of an integer. -/
def toN (w : Nat) (x : Int) : Nat := (x % ((2 ^ w : Nat) : Int)).toNat

/-- Little-endian number of a list of bytes (R6). -/
def leNat : List Byte → Nat
  | [] => 0
  | b :: bs => b.toNat + 256 * leNat bs

/-- The `n` low bytes of a number, little-endian (R6). -/
def leBytes : Nat → Nat → List Byte
  | 0, _ => []
  | n + 1, x => BitVec.ofNat 8 x :: leBytes n (x / 256)

/-- The bytes of an image, byte 0 first. -/
def imgBytes (x : Image) : List Byte := (List.range 256).map (imgByte x)

/-- An image from at most 256 bytes, zero above them. -/
def ofBytes (bs : List Byte) : Image := BitVec.ofNat 2048 (leNat (bs.take 256))

/-- Element `i` of a vector, `d` when there is none. -/
def vget {α : Type} {n : Nat} (v : Vector α n) (i : Nat) (d : α) : α := v[i]?.getD d

/-- The vector with element `i` replaced, unchanged when there is none. -/
def vset {α : Type} {n : Nat} (v : Vector α n) (i : Nat) (x : α) : Vector α n := v.setIfInBounds i x

/-- The list of `n` zero-based results of `f`. -/
def tab {α : Type} (n : Nat) (f : Nat → α) : List α := (List.range n).map f

/-- A 64-bit result from a number. -/
def word (n : Nat) : Word := BitVec.ofNat 64 n

/-- The smallest multiple of `m` not below `n`. -/
def roundUp (n m : Nat) : Nat := (n + m - 1) / m * m

end Sys2Proof.Machine
end

