-- ==== Sys2Proof/Machine/Base.lean ====
section
/-! DEFINITION. Named reads and updates of the parts of State: teams, warps, cores, slices, blocks, tasks; the canonical memory
of cells; the model's own turns, free values and record of messages. -/

namespace Sys2Proof.Machine

/-! ## Cells in canonical form -/

/-- What a byte reads as; an unlisted byte reads 0 (R28, R90). -/
def readCell : List Host.Cell → Nat → Byte
  | [], _ => 0
  | (k, v) :: r, a => if k = a then v else readCell r a

/-- Writes one byte, keeping addresses rising and no zero listed. -/
def writeCell : List Host.Cell → Nat → Byte → List Host.Cell
  | [], a, v => if v = 0 then [] else [(a, v)]
  | (k, x) :: r, a, v =>
    if a < k then (if v = 0 then (k, x) :: r else (a, v) :: (k, x) :: r)
    else if a = k then (if v = 0 then r else (a, v) :: r)
    else (k, x) :: writeCell r a v

/-- The canonical form: addresses strictly rising, no zero listed. -/
def cellsWf : List Host.Cell → Bool
  | [] => true
  | [(_, v)] => v != 0
  | (k, v) :: (k', v') :: r => decide (k < k') && v != 0 && cellsWf ((k', v') :: r)

/-- Writes a run of bytes from an address upward. -/
def writeRun (c : List Host.Cell) (a : Nat) : List Byte → List Host.Cell
  | [] => c
  | b :: bs => writeRun (writeCell c a b) (a + 1) bs

/-- Reads a run of bytes. -/
def readRun (c : List Host.Cell) (a n : Nat) : List Byte := (List.range n).map fun i => readCell c (a + i)

/-- Inserts into a rising list of numbers. -/
def insertNat (n : Nat) : List Nat → List Nat
  | [] => [n]
  | x :: r => if n < x then n :: x :: r else if n = x then x :: r else x :: insertNat n r

/-- The canonical form of a memory image: cells in canonical form, poisoned sectors rising. -/
def Ram.wf (r : Ram) : Bool := cellsWf r.cells && r.poison.Pairwise (· < ·)

/-- Whether the sector that holds byte `a` is poisoned (R122). -/
def Ram.poisonedAt (r : Ram) (a : Nat) : Bool := r.poison.contains (a / 16)

/-- The poison marks after a store of `bs` whose data is poisoned in the sectors `bad`: a sector written whole loses its mark,
poisoned data sets it, any other sector keeps it (R122, R123). -/
def storePoison (p : List Nat) (bs : List Host.Cell) (bad : Nat → Bool) : List Nat :=
  ((bs.map fun c => c.1 / 16).eraseDups).foldl
    (fun p sec =>
      if bad sec then insertNat sec p
      else if (List.range 16).all (fun i => (bs.map Prod.fst).contains (16 * sec + i)) then p.erase sec
      else p) p

/-- Stores bytes, the later of two to one address winning (R158), with the poison rules of R123. -/
def Ram.store (r : Ram) (bs : List Host.Cell) (bad : Nat → Bool) : Ram :=
  { cells := bs.foldl (fun c b => writeCell c b.1 b.2) r.cells, poison := storePoison r.poison bs bad }

/-- `n` bytes from address `a`. -/
def Ram.bytes (r : Ram) (a n : Nat) : List Byte := readRun r.cells a n

/-- The little-endian number of `n` bytes at `a`. -/
def Ram.num (r : Ram) (a n : Nat) : Nat := leNat (r.bytes a n)

/-- The bytes `data` at consecutive addresses from `a`. -/
def cellsAt (a : Nat) (data : List Byte) : List Host.Cell := data.zipIdx.map fun x => (a + x.2, x.1)

/-! ## Home memory -/

/-- Home memory with bytes stored and no poisoned data. -/
def State.storeHome (s : State) (bs : List Host.Cell) : State :=
  { s with mem := { s.mem with ram := s.mem.ram.store bs (fun _ => false) } }

/-- Replaces the counters of Table 5.13. -/
def State.setCtr (s : State) (c : Counters) : State := { s with mem := { s.mem with ctr := c } }

/-! ## Objects by name -/

/-- The team of a number, if it has not ended. -/
def State.team? (s : State) (n : Nat) : Option Team := s.hm.teams.find? (·.num = n)

/-- Replaces the list of teams. -/
def State.setTeams (s : State) (ts : List Team) : State := { s with hm := { s.hm with teams := ts } }

/-- Replaces a team. -/
def State.setTeam (s : State) (t : Team) : State :=
  s.setTeams (s.hm.teams.map fun x => if x.num = t.num then t else x)

/-- The team with a warp replaced. -/
def Team.setWarp (t : Team) (i : Nat) (x : Warp) : Team := { t with warps := t.warps.set i x }

/-- The warp of a name. -/
def State.warp? (s : State) (w : WarpId) : Option Warp := (s.team? w.team).bind (·.warps[w.idx]?)

/-- Replaces a warp. -/
def State.setWarp (s : State) (w : WarpId) (x : Warp) : State :=
  match s.team? w.team with
  | none => s
  | some t => s.setTeam (t.setWarp w.idx x)

/-- Changes a team, if it has not ended. -/
def State.modTeam (s : State) (n : Nat) (f : Team → Team) : State :=
  match s.team? n with
  | none => s
  | some t => s.setTeam (f t)

/-- Changes a warp. -/
def State.modWarp (s : State) (w : WarpId) (f : Warp → Warp) : State :=
  match s.warp? w with
  | none => s
  | some x => s.setWarp w (f x)

/-- A core. -/
def State.core (s : State) (c : Nat) : Core := vget s.cores c Core.reset

/-- Replaces a core. -/
def State.setCore (s : State) (c : Nat) (x : Core) : State := { s with cores := vset s.cores c x }

/-- Changes a core. -/
def State.modCore (s : State) (c : Nat) (f : Core → Core) : State := s.setCore c (f (s.core c))

/-- A partition of a core. -/
def Core.part (c : Core) (p : Nat) : Part := vget c.parts p Part.free

/-- Changes a partition. -/
def State.modPart (s : State) (c p : Nat) (f : Part → Part) : State :=
  s.modCore c fun x => { x with parts := vset x.parts p (f (x.part p)) }

/-- A slice. -/
def State.slice (s : State) (n : Nat) : Slice := vget s.slices n Slice.reset

/-- Changes a slice. -/
def State.modSlice (s : State) (n : Nat) (f : Slice → Slice) : State := { s with slices := vset s.slices n (f (s.slice n)) }

/-- A placed block. -/
def State.block? (s : State) (id : Nat) : Option Block := s.hm.blocks.find? (·.id = id)

/-- Changes a block. -/
def State.modBlock (s : State) (id : Nat) (f : Block → Block) : State :=
  { s with hm := { s.hm with blocks := s.hm.blocks.map fun b => if b.id = id then f b else b } }

/-- A task that has not ended. -/
def State.task? (s : State) (id : Nat) : Option Task := s.hm.tasks.find? (·.id = id)

/-- Changes a task. -/
def State.modTask (s : State) (id : Nat) (f : Task → Task) : State :=
  { s with hm := { s.hm with tasks := s.hm.tasks.map fun t => if t.id = id then f t else t } }

/-- A submission area by its code (R95). -/
def State.area (s : State) (a : Nat) : Area := vget s.areas a Area.reset

/-- Changes a submission area. -/
def State.modArea (s : State) (a : Nat) (f : Area → Area) : State := { s with areas := vset s.areas a (f (s.area a)) }

/-- The function that owns an area code (R71, R95). -/
def areaFn (a : Nat) : Fn := if a < 16 then .pf else .vf ((a - 16) / 4 + 1)

/-- Changes a team's queue. -/
def Team.setQueue (t : Team) (q : Nat) (x : Queue) : Team := { t with queues := t.queues.set q x }

/-- A team holds resources of its core. -/
def Team.onCore (t : Team) : Bool := t.st != .saved

/-- The core a team runs on. -/
def State.coreOf (s : State) (team : Nat) : Nat := ((s.team? team).map (·.core)).getD 0

/-- A warp is the access warp of its team. -/
def WarpId.access (w : WarpId) : Bool := w.idx == 0

/-- The partition of an execute warp (R183). -/
def Warp.partOf (x : Warp) : Nat := x.wslot / 4

/-! ## The model's own -/

/-- Records a message sent to the outside. -/
def State.send (s : State) (m : Msg) : State := { s with sent := m :: s.sent }

/-- The next free number, and the state with it used up (log entry 2). -/
def State.takeFree (s : State) : Nat × State := (Config.freeNat s.fresh, { s with fresh := s.fresh + 1 })

/-- A token that no object holds yet, and the state with it used up. -/
def State.takeTok (s : State) : Nat × State := (s.mem.nextTok, { s with mem := { s.mem with nextTok := s.mem.nextTok + 1 } })

/-- Puts turns before those that wait. -/
def State.pushTurns (s : State) (ts : List Turn) : State := { s with turns := ts ++ s.turns }

/-- An island. -/
def State.island (s : State) (n : Nat) : Island := vget s.islands n Island.reset

/-- The counter of a core's memory island (R17). -/
def State.memCount (s : State) (c : Nat) : BitVec 64 := (s.island (6 * c + 5)).count

/-- A cause's code (Table 7.13). -/
def Cause.code : Cause → Nat
  | .illegalOperand => 0x01 | .releasedRegister => 0x02 | .uninitialised => 0x03 | .reservedOpcode => 0x04
  | .illegalClause => 0x05 | .userTrap => 0x06 | .breakpoint => 0x07
  | .queueOwner => 0x10 | .queueDirection => 0x11 | .poisonedEntry => 0x12 | .queueExhausted => 0x13
  | .decouplingDeadlock => 0x14
  | .address => 0x20 | .range => 0x21 | .badTranslation => 0x22 | .leaseBroken => 0x23 | .protection => 0x24
  | .frameOutOfRange => 0x25 | .uncorrectable => 0x26 | .faultFailed => 0x27 | .misaligned => 0x28
  | .atomicToHost => 0x29 | .hostAccess => 0x2a | .sharedRange => 0x2b | .remoteRange => 0x2c | .noDomain => 0x2d
  | .noSuchDevice => 0x2e | .remoteUnreachable => 0x2f
  | .mode => 0x30 | .tile => 0x31

/-- A cause's class (Table 7.13). -/
def Cause.cls : Cause → Nat
  | .illegalOperand | .releasedRegister | .uninitialised => 1
  | .reservedOpcode | .illegalClause | .userTrap | .breakpoint => 6
  | .queueOwner | .queueDirection | .poisonedEntry | .queueExhausted | .decouplingDeadlock => 3
  | .mode | .tile => 5
  | _ => 4

end Sys2Proof.Machine
end

