-- ==== Sys2Proof/Machine/Translate.lean ====
section
/-! DEFINITION. Address translation and the access checks (05: R142 to R149, R433), declared ranges, and raising a demand fault
(R150). -/

namespace Sys2Proof.Machine

/-- What a walk finds (R143). -/
inductive Xlat where
  | leaf (frame : Nat) (big write replica : Bool)
  | absent
  | bad
  deriving DecidableEq, Repr

/-- A translation entry at a level with the alignment (log2) of the next table: continue at a table, or stop (Table 5.9). -/
inductive PteStep where
  | table (pa : Nat)
  | stop (x : Xlat)
  deriving DecidableEq, Repr

/-- One entry of level 1 to 4 (R143). `tabAlign` is log2 of the next table's size. -/
def pteStep (level tabAlign : Nat) (e : Nat) : PteStep :=
  if e.testBit 0 = false then .stop .absent
  else if bitsOf e 40 24 ≠ 0 ∨ bitsOf e 4 4 ≠ 0 then .stop .bad
  else
    let pa := bitsOf e 8 32 * 256
    if e.testBit 1 then
      if level = 3 then (if pa % 2 ^ 21 ≠ 0 then .stop .bad else .stop (.leaf pa true (e.testBit 2) (e.testBit 3)))
      else if level = 4 then (if pa % 2 ^ 16 ≠ 0 then .stop .bad else .stop (.leaf pa false (e.testBit 2) (e.testBit 3)))
      else .stop .bad
    else if level = 4 then .stop .bad
    else if pa % 2 ^ tabAlign ≠ 0 then .stop .bad
    else .table pa

/-- The qword of a table in home memory. -/
def State.pte (s : State) (table idx : Nat) : Nat := s.mem.ram.num (table + 8 * idx) 8

/-- What a walk finds, and the tables to which it came: the level whose entry led there, and the table (R143, R144). -/
structure Walked where
  res  : Xlat
  tabs : List (Nat × Nat)
  deriving DecidableEq, Repr

/-- A walk that goes on from a step of an entry of a level. -/
def PteStep.walk (level : Nat) (p : PteStep) (go : Nat → Walked) : Walked :=
  match p with
  | .stop x => { res := x, tabs := [] }
  | .table t => { go t with tabs := (level, t) :: (go t).tabs }

/-- A walk from a table of level 4. -/
def State.walk4 (s : State) (va t : Nat) : Walked :=
  match pteStep 4 0 (s.pte t (bitsOf va 16 5)) with
  | .stop x => { res := x, tabs := [] }
  | .table _ => { res := .bad, tabs := [] }

/-- A walk from a table of level 3. -/
def State.walk3 (s : State) (va t : Nat) : Walked := (pteStep 3 8 (s.pte t (bitsOf va 21 10))).walk 3 (s.walk4 va)

/-- A walk from a table of level 2. -/
def State.walk2 (s : State) (va t : Nat) : Walked := (pteStep 2 13 (s.pte t (bitsOf va 31 11))).walk 2 (s.walk3 va)

/-- The table of level 1 of an address space, if its entry of the address-space table is good (R142). -/
def State.spaceTable (s : State) (asid : BitVec 12) : Option Nat :=
  let a := s.mem.asBase.toNat * 65536 + 16 * asid.toNat
  let lo := s.mem.ram.num a 8
  let hi := s.mem.ram.num (a + 8) 8
  if lo.testBit 0 = false ∨ hi ≠ 0 ∨ bitsOf lo 40 24 ≠ 0 ∨ bitsOf lo 1 12 ≠ 0 then none else some (bitsOf lo 13 27 * 8192)

/-- A walk from the address-space table. -/
def State.walk1 (s : State) (asid : BitVec 12) (va : Nat) : Walked :=
  match s.spaceTable asid with
  | none => { res := .bad, tabs := [] }
  | some t => (pteStep 1 14 (s.pte t (bitsOf va 42 10))).walk 1 (s.walk2 va)

/-- The walk of R143 for a virtual address below 2^52; with `en` 0 every translation is bad (Table 5.7). -/
def State.walk (s : State) (asid : BitVec 12) (va : Nat) : Xlat := if s.mem.asEn = false then .bad else (s.walk1 asid va).res

/-- The bits of a virtual address below those that the entries down to a level index. -/
def levelShift (level : Nat) : Nat := if level = 1 then 42 else if level = 2 then 31 else 21

/-- The index into a table of a level (R143). -/
def levelIndex (level va : Nat) : Nat :=
  match level with
  | 1 => bitsOf va 42 10
  | 2 => bitsOf va 31 11
  | 3 => bitsOf va 21 10
  | _ => bitsOf va 16 5

/-- The addresses of the entries that a walk reads in the tables to which it comes. -/
def entriesRead (va : Nat) (tabs : List (Nat × Nat)) : List Nat := tabs.map fun y => y.2 + 8 * levelIndex (y.1 + 1) va

/-- The addresses of the entries that a walk from the address-space table reads (R142, R143). -/
def State.rootReads (s : State) (asid : BitVec 12) (va : Nat) : List Nat :=
  if s.mem.asEn = false then []
  else
    (s.mem.asBase.toNat * 65536 + 16 * asid.toNat) ::
      match s.spaceTable asid with
      | none => []
      | some t => entriesRead va ((0, t) :: (s.walk1 asid va).tabs)

/-- What the walk cache of a core holds of a level for an address (R144). -/
def Core.cached (c : Core) (asid : BitVec 12) (level va : Nat) : Option Nat :=
  (c.walks.find? fun e => e.asid == asid && e.level == level && e.va == va / 2 ^ levelShift level).map (·.table)

/-- A walk of a core's walker: from the lowest level that its walk cache holds (R144). -/
def State.coreWalk (s : State) (c : Nat) (asid : BitVec 12) (va : Nat) : Walked :=
  if s.mem.asEn = false then { res := .bad, tabs := [] }
  else
    match (s.core c).cached asid 3 va with
    | some t => s.walk4 va t
    | none =>
      match (s.core c).cached asid 2 va with
      | some t => s.walk3 va t
      | none =>
        match (s.core c).cached asid 1 va with
        | some t => s.walk2 va t
        | none => s.walk1 asid va

/-- log2 of the size of a page. -/
def pageBits (big : Bool) : Nat := if big then 21 else 16

/-- The TLB entry of a core that covers an address (R144). -/
def State.tlbHit (s : State) (c : Nat) (asid : BitVec 12) (va : Nat) : Option TlbEntry :=
  (s.core c).tlb.find? fun e => e.asid = asid && e.va == va / 2 ^ pageBits e.big * 2 ^ pageBits e.big

/-- The translation an access uses: the core's TLB entry, or else a walk (R143, R144); none with `en` 0 (Table 5.7). -/
def State.xlat (s : State) (c : Nat) (asid : BitVec 12) (va : Nat) : Xlat :=
  if s.mem.asEn = false then .bad
  else
    match s.tlbHit c asid va with
    | some e => .leaf e.pa e.big e.write e.replica
    | none => (s.coreWalk c asid va).res

/-- The physical address of a byte under a leaf. -/
def leafPa (frame : Nat) (big : Bool) (va : Nat) : Nat := frame + va % 2 ^ pageBits big

/-- The host aperture (Table 2.1). -/
def isAperture (pa : Nat) : Bool := 0xf000000000 ≤ pa && pa < 0x10000000000

/-- The HBM range (Table 2.1). -/
def isHbm (pa : Nat) : Bool := pa < 0x6000000000

/-! ## Declared ranges -/

/-- The address space and the declared ranges under which an agent's accesses are checked (R142, R148). -/
structure Space where
  core   : Nat
  asid   : BitVec 12
  leased : List (Nat × Nat)
  demand : List (Nat × Nat)
  deriving DecidableEq, Repr

/-- Whether `[va, va + n)` lies wholly inside one of the ranges. -/
def inRanges (rs : List (Nat × Nat)) (va n : Nat) : Bool := rs.any fun r => r.1 ≤ va && va + n ≤ r.1 + r.2

/-- The ranges of a task's lease, if it is not inactive (R84, R118). -/
def State.leaseRanges (s : State) (t : Task) : List (Nat × Nat) :=
  match s.hm.leases.find? (fun l => l.area = t.area && l.id == fieldOf (vget t.record 6 0) 0 12) with
  | some l => if fieldOf (vget t.record 6 0) 0 12 = 0 then [] else l.ranges
  | none => []

/-- The space of a team (R142, R148). -/
def State.spaceOf (s : State) (team : Nat) : Space :=
  match s.team? team with
  | none => { core := 0, asid := 0, leased := [], demand := [] }
  | some t =>
    match s.task? t.task with
    | none => { core := t.core, asid := 0, leased := [], demand := [] }
    | some k => { core := t.core, asid := k.asid, leased := s.leaseRanges k, demand := k.launch.demand }

/-- The same ranges in the domain space, for an access whose device number is self (R59). -/
def State.domSpace (s : State) (sp : Space) : Space := { sp with asid := s.mem.domAsid }

/-- How an access fails: a cause, or a demand fault of a kind on a page (R149, R150). -/
inductive AccFail where
  | cause (c : Cause) (va : Nat)
  | fault (page : Page) (kind : Nat)
  deriving DecidableEq, Repr

/-- The page of a size that holds an address (R143). -/
def pageAt (big : Bool) (va : Nat) : Page := { va := va / 2 ^ pageBits big * 2 ^ pageBits big, big := big }

/-- The bytes of a page. -/
def Page.size (p : Page) : Nat := 2 ^ pageBits p.big

/-- `[va, va + n)` has a byte on a page. -/
def Page.meets (p : Page) (va n : Nat) : Bool := va < p.va + p.size && p.va < va + n

/-- Rows 3 to 8 of Table 5.10 for one page: the row's number with its outcome, or the leaf. -/
def pageCheck (leased : Bool) (a : Acc) (va : Nat) (x : Xlat) : Except (Nat × AccFail) (Nat × Bool) :=
  match x with
  | .bad => .error (3, .cause .badTranslation va)
  | .absent =>
    if leased then .error (4, .cause .leaseBroken va)
    else .error (5, .fault (pageAt false va) (if a = .load then 0 else 1))
  | .leaf f big w r =>
    if a ≠ .load ∧ r = true ∧ leased = false then .error (6, .fault (pageAt big va) 2)
    else if a ≠ .load ∧ (w = false ∨ r = true) then .error (7, .cause .protection va)
    else if isHbm (leafPa f big va) = false ∧ isAperture (leafPa f big va) = false then
      .error (8, .cause .frameOutOfRange va)
    else if a = .atomic ∧ isAperture (leafPa f big va) = true then .error (9, .cause .atomicToHost va)
    else .ok (f, big)

/-- The addresses, one in each 64 KiB page that `[va, va + n)` touches: `va` and the first byte of each later page. -/
def pagesOf (va n : Nat) : List Nat :=
  tab ((va + n - 1) / 65536 - va / 65536 + 1) fun i => if i = 0 then va else (va / 65536 + i) * 65536

/-- The failing outcome with the lowest row. -/
def firstFail : List (Nat × AccFail) → Option AccFail
  | [] => none
  | x :: r => match r.foldl (fun b y => if y.1 < b.1 then y else b) x with | (_, f) => some f

/-- The first byte of an access at `va` that lies in no declared range that holds `va`: the end of the one that reaches furthest, or `va` (Table 5.10, Table 7.11). -/
def Space.firstOut (sp : Space) (va : Nat) : Nat :=
  ((sp.leased ++ sp.demand).filter fun r => r.1 ≤ va && va < r.1 + r.2).foldl (fun m r => max m (r.1 + r.2)) va

/-- The checks of Table 5.10 on the TLB path: the physical address of each byte, or the first row that applies (R149). -/
def State.checkTlb (s : State) (sp : Space) (a : Acc) (va n : Nat) : Except AccFail (List Nat) :=
  if va + n > 2 ^ 52 then .error (.cause .address (max va (2 ^ 52)))
  else
    let leased := inRanges sp.leased va n
    if leased = false ∧ inRanges sp.demand va n = false then .error (.cause .range (sp.firstOut va))
    else
      let rs := (pagesOf va n).map fun p => pageCheck (inRanges sp.leased p 1) a p (s.xlat sp.core sp.asid p)
      match firstFail (rs.filterMap fun r => match r with | .error e => some e | .ok _ => none) with
      | some f => .error f
      | none => .ok (tab n fun i =>
          match s.xlat sp.core sp.asid (va + i) with
          | .leaf f big _ _ => leafPa f big (va + i)
          | _ => 0)

/-- The page of an address as it is mapped; 64 KiB when it is not (R150). -/
def State.pageOf (s : State) (sp : Space) (va : Nat) : Page :=
  match s.xlat sp.core sp.asid va with
  | .leaf _ big _ _ => pageAt big va
  | _ => pageAt false va

/-- The checks of a lane's access through a window (R147). -/
def State.checkWin (s : State) (sp : Space) (w : Window) (a : Acc) (o n : Nat) : Except AccFail (List Nat) :=
  let sp := if w.dom then s.domSpace sp else sp
  if o + n ≤ w.limit then
    let leased := inRanges sp.leased w.va 1
    let va := w.va + o
    if a ≠ .load ∧ w.replica = true ∧ leased = false then .error (.fault (s.pageOf sp va) 2)
    else if a ≠ .load ∧ (w.write = false ∨ w.replica = true) then .error (.cause .protection va)
    else if (isHbm (w.pa + o + (n - 1)) || isAperture (w.pa + o)) = false then .error (.cause .frameOutOfRange (if isHbm (w.pa + o) then (va / 65536 + 1) * 65536 else va))
    else if a = .atomic ∧ isAperture (w.pa + o) = true then .error (.cause .atomicToHost va)
    else .ok (tab n fun i => w.pa + o + i)
  else s.checkTlb sp a (w.va + o) n

/-- A read by the Harbourmaster: translated, no range check (R148). The physical addresses, or none when it meets a
translation fault or an absent page. -/
def State.hmXlat (s : State) (asid : BitVec 12) (va n : Nat) : Option (List Nat) :=
  if va + n > 2 ^ 52 then none
  else
    let pas := tab n fun i =>
      match s.walk asid (va + i) with
      | .leaf f big _ _ => if isHbm (leafPa f big (va + i)) || isAperture (leafPa f big (va + i)) then some (leafPa f big (va + i)) else none
      | _ => none
    if pas.all Option.isSome then some (pas.map (·.getD 0)) else none

/-- A read by the Harbourmaster of home memory: none on a translation fault, a poisoned sector, or an address of the host
(whose read the model does not complete within the step, log entry 14). -/
def State.hmRead (s : State) (asid : BitVec 12) (va n : Nat) : Option (List Byte) :=
  match s.hmXlat asid va n with
  | none => none
  | some pas =>
    if pas.all (fun pa => isHbm pa && !s.mem.ram.poisonedAt pa) then some (pas.map (readCell s.mem.ram.cells)) else none

/-! ## Windows -/

/-- The end of the declared range that contains `va`: the lease's first (R83). -/
def Space.rangeEnd (sp : Space) (va : Nat) : Option Nat :=
  match sp.leased.find? (fun r => r.1 ≤ va && va < r.1 + r.2) with
  | some r => some (r.1 + r.2)
  | none => (sp.demand.find? (fun r => r.1 ≤ va && va < r.1 + r.2)).map fun r => r.1 + r.2

/-- Where the run of R146 stops: `n` entries are left to examine, `va` is the next address, `pa` the frame contiguity asks for. -/
def State.winRun (s : State) (sp : Space) (w r : Bool) (stop : Nat) : Nat → Nat → Nat → Nat
  | 0, va, _ => va
  | n + 1, va, pa =>
    if stop ≤ va then stop
    else
      match s.xlat sp.core sp.asid va with
      | .leaf f big w' r' =>
        if leafPa f big va = pa ∧ w' = w ∧ r' = r then
          let next := (va / 2 ^ pageBits big + 1) * 2 ^ pageBits big
          s.winRun sp w r stop n next (pa + (next - va))
        else va
      | _ => va

/-- A window filled from `vb` (R146). -/
def State.fillWindow (s : State) (sp : Space) (dom : Bool) (vb : Nat) : Window :=
  let sp := if dom then s.domSpace sp else sp
  let none : Window := { va := vb, pa := 0, limit := 0, write := false, replica := false, remote := Option.none, dom := dom }
  match sp.rangeEnd vb, s.xlat sp.core sp.asid vb with
  | some e, .leaf f big w r =>
    let pa := leafPa f big vb
    let stop := min (min e (vb + 2 ^ 30)) (2 ^ 52)
    { va := vb, pa := pa, limit := min stop (s.winRun sp w r stop 32 vb pa) - vb, write := w, replica := r,
      remote := Option.none, dom := dom }
  | _, _ => none

/-! ## Demand faults -/

/-- The fault slot of a core that holds a page. -/
def Core.faultOn (c : Core) (asid : BitVec 12) (page : Page) : Option Nat :=
  (List.range 32).find? fun i =>
    match vget c.faults i none with
    | some f => f.page == page && f.asid == asid
    | none => false

/-- The lowest free fault slot. -/
def Core.freeFault (c : Core) : Option Nat := (List.range 32).find? fun i => (vget c.faults i none).isNone

/-- A fault with one more access joined (R150): its kind is the largest of its accesses'. -/
def FaultSlot.join (f : FaultSlot) (kind : Nat) (j : Joined) : FaultSlot :=
  { f with kind := max f.kind kind, joined := if f.joined.contains j then f.joined else f.joined ++ [j] }

/-- A core with a fault slot replaced. -/
def Core.setFault (c : Core) (i : Nat) (f : Option FaultSlot) : Core := { c with faults := vset c.faults i f }

/-- Joins an access to the fault of its page, claiming a slot when the page has none (R150); none when all 32 are taken. The
slot and the new state. -/
def State.raiseFault (s : State) (sp : Space) (team : Nat) (page : Page) (kind : Nat) (j : Joined) : Option (Nat × State) :=
  let c := s.core sp.core
  match c.faultOn sp.asid page with
  | some i => some (i, s.setCore sp.core (c.setFault i ((vget c.faults i none).map (·.join kind j))))
  | none =>
    match c.freeFault with
    | none => none
    | some i =>
      let f : FaultSlot := { page := page, asid := sp.asid, kind := kind, team := team, joined := [j], recorded := false }
      some (i, s.setCore sp.core (c.setFault i (some f)))

/-- With no fault ring, every demand fault resolves at once with outcome 1 (R151); a ring that does not lie wholly in HBM is absent (R93, R108). -/
def State.noRing (s : State) : Bool :=
  s.mem.fltSize == 0 || !isHbm (s.mem.fltBase.toNat * 4096 + 32 * 2 ^ (min s.mem.fltSize.toNat 10 + 6) - 1)

end Sys2Proof.Machine
end

