-- ==== Sys2Proof/Machine/Lines.lean ====
section
/-! DEFINITION. Lines, sectors and home slices (05: R121, R128), the slices' lines, victims and the tide table (R129 to R133), codes of sectors and packets (R137, R140, R141), traffic of the
agents that a slice serves in the step in which they ask (R129), ways of the L1 array (R120, R124). -/

namespace Sys2Proof.Machine

/-! ## Lines, sectors, home slices -/

/-- The home slice of a physical address (R128). -/
def sliceOf (pa : Nat) : Nat := bitsOf pa 7 7 ^^^ bitsOf pa 14 7 ^^^ bitsOf pa 21 7 ^^^ bitsOf pa 28 7 ^^^ bitsOf pa 35 5

/-- The set of a physical address within its slice (R128). -/
def setOf (pa : Nat) : Nat := bitsOf pa 14 10

/-- The line that holds an address (R121). -/
def lineOf (pa : Nat) : Nat := pa / 128 * 128

/-- The lines that addresses touch. -/
def linesOf (pas : List Nat) : List Nat := (pas.map lineOf).eraseDups

/-- A bit for each sector of a line. -/
def sectorMask (f : Nat → Bool) : BitVec 8 := BitVec.ofNat 8 (packNat 1 (fun i => b2n (f i)) 8)

/-- The sectors of a line that addresses touch. -/
def sectorsOf (pas : List Nat) (line : Nat) : BitVec 8 := sectorMask fun i => pas.any fun pa => pa / 16 == line / 16 + i

/-- A line's bytes with byte `i` replaced. -/
def setLineByte (x : BitVec 1024) (i : Nat) (b : Byte) : BitVec 1024 :=
  (x &&& ~~~(0xff#1024 <<< (8 * i))) ||| (BitVec.ofNat 1024 b.toNat <<< (8 * i))

/-- A line with nothing valid, in no way. -/
def L1Line.blank (pa : Nat) : L1Line := { pa := pa, way := 16, valid := 0, dirty := 0, poison := 0, data := 0, dirtyAt := 0 }

/-- The L1 line of a core at a line address. -/
def Core.line (c : Core) (line : Nat) : L1Line := (c.l1.find? (·.pa == line)).getD (L1Line.blank line)

/-- A byte of a line. -/
def L1Line.byte (l : L1Line) (pa : Nat) : Byte := l.data.extractLsb' (8 * (pa % 128)) 8

/-- The written bytes of a sector. -/
def L1Line.dirtyIn (l : L1Line) (i : Nat) : Nat := bitsOf l.dirty.toNat (16 * i) 16

/-- Replaces a line of a core's L1; a line with no valid sector is not kept. -/
def Core.putLine (c : Core) (l : L1Line) : Core :=
  let others := c.l1.filter (·.pa != l.pa)
  { c with l1 := if l.valid = 0 then others else others ++ [l] }

/-! ## The tide table (R130 to R133) -/

/-- The table by which slices choose: none at the basic level and while a load is in progress (R130, R133). -/
def MemSys.tideInForce (m : MemSys) : Option TideTable := if m.tideLevel && !m.tideLoading then m.tide else none

/-- The class of an address: the first entry that contains its line, modulo 16; 0 when there is none (R132). -/
def TideTable.classOf (t : TideTable) (pa : Nat) : Nat :=
  match t.map.findIdx? fun e => e.1 ≤ pa && pa ≤ e.2 with
  | some i => i % 16
  | none => 0

/-- The rank of a class in a phase; a phase at or above nphase uses the last (R132). -/
def TideTable.rankOf (t : TideTable) (phase cls : Nat) : Nat := fieldOf (t.ranks.getD (min phase (t.ranks.length - 1)) 0) (4 * cls) 4

/-- The class of an address under the table in force. -/
def MemSys.classOf (m : MemSys) (pa : Nat) : Nat := match m.tideInForce with | some t => t.classOf pa | none => 0

/-- The rank of a class; 7 at the basic level. -/
def MemSys.rankOf (m : MemSys) (phase cls : Nat) : Nat := match m.tideInForce with | some t => t.rankOf phase cls | none => 7

/-! ## Lines of a slice -/

/-- A line that a slice holds. -/
def Slice.line? (x : Slice) (line : Nat) : Option L2Line := x.lines.find? (·.pa == line)

/-- The rotation pointer of a set. -/
def Slice.pointer (x : Slice) (set : Nat) : Nat := ((x.ptr.find? (·.1 == set)).map (·.2)).getD 0

/-- The way that a new line of a full set takes (R131): among the lines of lowest rank, rank 15 only when all have it, the first way at or after the pointer. -/
def victimWay (rank : L2Line → Nat) (ptr : Nat) (ls : List L2Line) : Nat :=
  let open' := ls.filter fun l => rank l != 15
  let cand := if open'.isEmpty then ls else open'
  let low := cand.foldl (fun m l => min m (rank l)) 15
  let ways := (cand.filter fun l => rank l == low || open'.isEmpty).map (·.way)
  ((List.range 16).map fun i => (ptr + i) % 16).find? ways.contains |>.getD 0

/-- A slice with a line allocated, no sector valid; a victim's dirty sectors go to HBM4E, which holds them already in the model's memory (R129, R131). -/
def Slice.allocate (x : Slice) (m : MemSys) (line : Nat) : Slice :=
  if (x.line? line).isSome then x
  else
    let set := setOf line
    let ls := x.lines.filter fun l => setOf l.pa == set
    let fresh (w : Nat) : L2Line := { pa := line, way := w, cls := m.classOf line, valid := 0, dirty := 0 }
    match (List.range 16).find? fun w => !(ls.any fun l => l.way == w) with
    | some w => { x with lines := x.lines ++ [fresh w] }
    | none =>
      let w := victimWay (fun l => m.rankOf x.phase l.cls) (x.pointer set) ls
      { x with
        lines := (x.lines.filter fun l => !(setOf l.pa == set && l.way == w)) ++ [fresh w]
        ptr := (set, (w + 1) % 16) :: x.ptr.filter fun p => p.1 != set }

/-- Changes a line of a slice. -/
def Slice.modLine (x : Slice) (line : Nat) (f : L2Line → L2Line) : Slice := { x with lines := x.lines.map fun l => if l.pa = line then f l else l }

/-- A line changed by the slice: allocated if need be, its sectors valid and dirty (R129). -/
def Slice.touch (x : Slice) (m : MemSys) (line : Nat) (sectors : BitVec 8) : Slice :=
  (x.allocate m line).modLine line fun l => { l with valid := l.valid ||| sectors, dirty := l.dirty ||| sectors }

/-- Touches a line of a slice of the state. -/
def State.touchLine (s : State) (n line : Nat) (sectors : BitVec 8) : State := s.modSlice n fun x => x.touch s.mem line sectors

/-! ## Counters -/

/-- Adds to a counter that stands per slice. -/
def bump {n : Nat} (v : Vector Word n) (i k : Nat) : Vector Word n := vset v i (vget v i 0 + word k)

/-- A core mask with one core. -/
def coreBit (c : Nat) : BitVec 64 := 1#64 <<< c

/-! ## Codes of sectors, packets (R137, R140, R141) -/

/-- A sector's code (R141), given the code before it. -/
def sectorCode (wanted poisoned : Bool) (cur prev : BitVec 128) (prevCode : Nat) : Nat :=
  if !wanted then 3 else if poisoned then 0 else if cur = 0 then 1 else if prevCode ≠ 3 ∧ cur = prev then 2 else 0

/-- The codes of a line's sectors in rising order, none carried before the first. -/
def codesFrom (sec : Nat → BitVec 128) (wanted poisoned : Nat → Bool) : Nat → Nat → Nat → List Nat
  | 0, _, _ => []
  | n + 1, i, prev =>
    let c := sectorCode (wanted i) (poisoned i) (sec i) (if i = 0 then 0 else sec (i - 1)) prev
    c :: codesFrom sec wanted poisoned n (i + 1) c

/-- A sector of home memory. -/
def Ram.sector (r : Ram) (line i : Nat) : BitVec 128 := BitVec.ofNat 128 (r.num (line + 16 * i) 16)

/-- The header of a reply (Table 5.6). -/
def Reply.header (r : Reply) : List Byte :=
  leBytes 8 r.mask.toNat ++ leBytes 8 r.line ++ leBytes 2 r.codes.toNat ++ leBytes 2 r.tag.toNat ++ leBytes 1 r.poison.toNat ++ List.replicate 11 0

/-- The flits of a reply (R137, R140): the header and up to 96 bytes of literal sectors in flit 0, the rest in flit 1. -/
def Reply.flits (r : Reply) : List (List Byte) :=
  let d := r.literals.flatMap fun x => leBytes 16 x.toNat
  (r.header ++ d.take 96) :: if d.length ≤ 96 then [] else [d.drop 96]

/-- The code of a sector in a reply. -/
def Reply.code (r : Reply) (i : Nat) : Nat := bitsOf r.codes.toNat (2 * i) 2

/-- The sectors that a reply carries without their bytes: zero, or repeated (R141). -/
def Reply.short (r : Reply) : Nat := ((List.range 8).filter fun i => r.code i == 1 || r.code i == 2).length

/-- A reply that carries sectors of a line, as they are given (R139 to R141). -/
def replyOf (sec : Nat → BitVec 128) (bad : Nat → Bool) (mask : BitVec 64) (line : Nat) (sectors : BitVec 8) (tag : Nat) (toks : List Nat) : Reply :=
  let cs := codesFrom sec (fun i => sectors.getLsbD i) bad 8 0 3
  { mask := mask, line := line, codes := BitVec.ofNat 16 (packNat 2 (fun i => cs.getD i 3) 8), tag := BitVec.ofNat 16 tag
    poison := sectorMask fun i => sectors.getLsbD i && bad i
    literals := ((List.range 8).filter fun i => cs.getD i 3 == 0).map sec, toks := toks }

/-- The reply with sectors of a line of home memory as it stands. -/
def Ram.lineReply (r : Ram) (mask : BitVec 64) (line : Nat) (sectors : BitVec 8) (tag : Nat) (toks : List Nat) : Reply :=
  replyOf (r.sector line) (fun i => r.poisonedAt (line + 16 * i)) mask line sectors tag toks

/-- Flits of a request that carries bytes. -/
def flitsOf (bytes : Nat) : Nat := 1 + (bytes + 31) / 32

/-- Counts request flits that a slice receives (Table 5.13). -/
def State.countReq (s : State) (n flits : Nat) : State := s.setCtr { s.mem.ctr with reqFlits := bump s.mem.ctr.reqFlits n flits }

/-- Counts what a slice sends in a reply (Table 5.13). -/
def State.countReply (s : State) (n : Nat) (r : Reply) : State :=
  s.setCtr { s.mem.ctr with repFlits := bump s.mem.ctr.repFlits n r.flits.length, elided := bump s.mem.ctr.elided n r.short }

/-- The reply to a window, with the line as it stands (R139 to R141). -/
def Ram.reply (r : Ram) (w : OpenWindow) : Reply := r.lineReply w.mask w.line w.sectors w.tag w.toks

/-- The bytes of a line, with their poison, that a core has stored and that its home slice has still to serve. -/
def unservedStores (core line : Nat) (q : List SliceReq) : List (Host.Cell × Bool) :=
  q.flatMap fun r =>
    match r with
    | .store c _ parts poison _ => if c = core then (parts.flatten.filter fun b => lineOf b.1 == line).map fun b => (b, poison.getLsbD (b.1 % 128 / 16)) else []
    | _ => []

/-- The sectors of a line on which a core has atomics or reductions that its home slice has still to serve. -/
def unservedAtoms (core line : Nat) (q : List SliceReq) : BitVec 8 :=
  sectorsOf (q.flatMap fun r =>
    match r with
    | .atomic c _ es | .reduce c _ es => if c = core then es.map (·.pa) else []
    | _ => []) line

/-- What a multicast line leaves of a load: an `mcast` waits for its other lines; with none left it is over. -/
def PendLoad.multicast (r : Reply) (l : PendLoad) : Option PendLoad :=
  if l.dst = .caches ∧ r.toks.contains l.tok = true then
    let ns := l.need.filter fun n => lineOf n.pa != r.line
    if ns.isEmpty then none else some { l with need := ns }
  else some l

/-- A multicast line has been read: the `mcast`s that it serves wait for it no longer (R357). -/
def State.endMcasts (s : State) (r : Reply) : State :=
  (List.range 64).foldl (fun s c =>
    if (s.core c).loads.any (fun l => l.dst == .caches && r.toks.contains l.tok) then
      s.modCore c fun k => { k with loads := k.loads.filterMap (PendLoad.multicast r) }
    else s) s

/-- The reply to a window leaves slice `n`, which closes the window: each core of its mask receives one copy, over which what the core has itself on its way to the line stands in its L1
(R138 to R141, R165). `extra` are the bits of reads that have joined it and take their bytes in this step. -/
def State.inject (s : State) (n : Nat) (w : OpenWindow) (extra : BitVec 64) : State :=
  let r := s.mem.ram.reply { w with mask := w.mask ||| extra }
  let q := (s.slice n).queue
  let s := ((s.modSlice n fun x => { x with windows := x.windows.filter fun y => y.line != w.line }).countReply n r).endMcasts r
  (List.range 64).foldl (fun s c =>
    if w.mask.getLsbD c then s.modCore c fun k => { k with arriving := k.arriving ++ [{ r := r, stored := unservedStores c w.line q, skip := unservedAtoms c w.line q }] }
    else s) s

/-! ## Service in the step of the access (R129, R154)

Engines, Pilot steps, instruction fetch, table walks, the Harbourmaster, the host and the domain are served where they stand in the order of arrival: their request arrives when their
event happens, and its reply leaves in the same step (log entry 21). -/

/-- A read request of a line is served and replied to at once: it joins the window that is open for the line, whose reply goes with it, or gets a reply of its own (R138, R139). -/
def State.readNow (s : State) (ln : Nat) (secs : BitVec 8) (mask : BitVec 64) : State :=
  let n := sliceOf ln
  match (s.slice n).windows.find? (·.line == ln) with
  | some w =>
    let w := { w with sectors := w.sectors ||| secs }
    let s := s.modSlice n fun x => (x.allocate s.mem ln).modLine ln fun l => { l with valid := l.valid ||| w.sectors }
    (s.setCtr { s.mem.ctr with merged := bump s.mem.ctr.merged n 1 }).inject n w mask
  | none =>
    (s.modSlice n fun x => (x.allocate s.mem ln).modLine ln fun l => { l with valid := l.valid ||| secs }).countReply n (s.mem.ram.lineReply mask ln secs 0 [])

/-- The slices have served a read of bytes of home memory: a request for each line, with the bit of the core that asks, its sectors filled, a reply. -/
def State.servedFor (s : State) (mask : BitVec 64) (pas : List Nat) : State :=
  (linesOf (pas.filter isHbm)).foldl (fun s ln => (s.countReq (sliceOf ln) 1).readNow ln (sectorsOf pas ln) mask) s

/-- The same for a unit of no core. -/
def State.served (s : State) (pas : List Nat) : State := s.servedFor 0 pas

/-- The slices have served a read of a run of bytes of home memory, line by line. -/
def State.servedRun (s : State) (a n : Nat) : State :=
  (List.range ((a + n + 127) / 128 - a / 128)).foldl (fun s i => s.served (tab 8 fun j => (a / 128 + i) * 128 + 16 * j)) s

/-- The slices have served a write of bytes of home memory: a packet for each line, its sectors present and dirty. -/
def State.servedWrite (s : State) (pas : List Nat) : State :=
  (linesOf (pas.filter isHbm)).foldl (fun s ln =>
    (s.touchLine (sliceOf ln) ln (sectorsOf pas ln)).countReq (sliceOf ln) (flitsOf (pas.filter fun pa => lineOf pa == ln).length)) s

/-- The slices have served atomics on elements of home memory. -/
def State.servedAtomic (s : State) (pas : List Nat) : State :=
  (linesOf (pas.filter isHbm)).foldl (fun s ln => (s.touchLine (sliceOf ln) ln (sectorsOf pas ln)).countReq (sliceOf ln) 2) s

/-- Bytes stored to home memory by a unit that is no core's load/store unit, at the home slices (R129). -/
def State.homeWrite (s : State) (bs : List Host.Cell) : State := (s.storeHome bs).servedWrite (bs.map Prod.fst)

/-- A read of the host aperture has passed through the home slices of its lines, which allocate nothing (R129). -/
def State.passedRead (s : State) (pa len : Nat) : State := (linesOf (tab len (pa + ·))).foldl (fun s ln => s.countReq (sliceOf ln) 1) s

/-- A write to the host aperture has passed through the home slices of its lines. -/
def State.passedWrite (s : State) (pa len : Nat) : State :=
  let pas := tab len (pa + ·)
  (linesOf pas).foldl (fun s ln => s.countReq (sliceOf ln) (flitsOf (pas.filter fun a => lineOf a == ln).length)) s

/-- Host bytes have passed back through the home slices of their lines. -/
def State.passedReply (s : State) (pa : Nat) (data : List Byte) : State :=
  let pas := tab data.length (pa + ·)
  (linesOf pas).foldl (fun s ln =>
    let sec (i : Nat) : BitVec 128 := BitVec.ofNat 128 (leNat (tab 16 fun j => if pa ≤ ln + 16 * i + j then data.getD (ln + 16 * i + j - pa) 0 else 0))
    s.countReply (sliceOf ln) (replyOf sec (fun _ => false) 0 ln (sectorsOf pas ln) 0 [])) s

/-- The table entries that the Harbourmaster's walks of the pages of a run have read have been served (R129, R143, R148). -/
def State.hmWalked (s : State) (asid : BitVec 12) (va n : Nat) : State :=
  (List.range ((va + n + 65535) / 65536 - va / 65536)).foldl (fun s i => s.served (s.rootReads asid ((va / 65536 + i) * 65536))) s

/-- What a read by the Harbourmaster has read has been served at the home slices: the entries of its walks, and the bytes (R129). -/
def State.hmServed (s : State) (asid : BitVec 12) (va n : Nat) : State :=
  let s := s.hmWalked asid va n
  match s.hmXlat asid va n with
  | some pas => s.served pas
  | none => s

/-! ## Ways of the L1 array (R120, R124, R126) -/

/-- A block has a region on a core: one of its set, until the last of its teams there is saved (R114, R124). -/
def State.hasRegion (s : State) (b : Block) (core : Nat) : Bool := b.cores.contains core && s.hm.teams.any fun t => t.onCore && t.block == b.id

/-- The shared size, in KiB, of the regions on a core when one block has `n` (R124). -/
def State.sharedSum (s : State) (core block n : Nat) : Nat :=
  ((s.hm.blocks.filter fun b => s.hasRegion b core).map fun b => if b.id = block then n else b.shm).sum

/-- The ways that a shared size needs (R124). -/
def waysFor (kib : Nat) : Nat := (kib + 127) / 128

/-- The shared ways of a core now; at most 15 (R124). -/
def State.sharedWays (s : State) (core : Nat) : Nat :=
  min 15 (waysFor ((s.hm.blocks.filter fun b => s.hasRegion b core).map (·.shm)).sum)

/-- The ways of a core's array that hold cache lines: those below the shared ways (log entry 24). -/
def State.cacheWays (s : State) (core : Nat) : Nat := 16 - s.sharedWays core

/-- The set of a line in an L1: 1,024 sets of 16 ways of 128 bytes make the 2 MiB of Table 5.1 (the index is the model's: log entry 24). -/
def l1Set (pa : Nat) : Nat := bitsOf pa 7 10

end Sys2Proof.Machine
end

