-- ==== Sys2Proof/Machine/Ending.lean ====
section
/-! DEFINITION. What the end of a team brings with it: cancelled faults (R152), barrier instances (R371), completion entries
(R74), join blocks (R98), leases (R86), the end of a task (R97). -/

namespace Sys2Proof.Machine

/-! ## Writes by the device -/

/-- The bus address of an aperture address (R51). -/
def Links.busAddr (l : Links) (pa : Nat) : Nat := l.apBase.toNat * 2 ^ 36 + (pa - 0xf000000000)

/-- No translation is missing for a bus address (R50). -/
def State.apKnown (s : State) (ba : Nat) : Bool := !s.links.ats || s.links.atsHeld.contains (ba / 4096)

/-- The translation of a host page is requested, once (R50). -/
def State.atsAsk (s : State) (page : Nat) : State :=
  if s.links.atsAsked.contains page then s
  else { s with links := { s.links with atsAsked := s.links.atsAsked ++ [page] } }.send (.atsRequest page)

/-- The function to whose areas a team's task belongs. -/
def State.teamFn (s : State) (n : Nat) : Fn := ((((s.team? n).bind fun t => s.task? t.task).map fun k => areaFn k.area)).getD .pf

/-- The function for which a store to the aperture is made. -/
def State.ownerFn (s : State) : ApOwner → Fn
  | .warp w => s.teamFn w.team
  | .cmd n _ _ => s.teamFn n
  | .unit => .pf

/-- One posted write to the host aperture (R51 to R53): dropped and counted when the aperture is off; held while ATS has no translation. -/
def State.apWrite (s : State) (own : ApOwner) (pa : Nat) (data : List Byte) : State :=
  if s.links.apEn = false then s.setCtr { s.mem.ctr with hostErr := s.mem.ctr.hostErr + 1 }
  else
    let ba := s.links.busAddr pa
    let s := s.passedWrite pa data.length
    if s.apKnown ba then s.send (.hostWrite ba data)
    else ({ s with links := { s.links with apWrites := s.links.apWrites ++ [({ own := own, ba := ba, bytes := cellsAt pa data, fn := s.ownerFn own } : ApWrite)] } }).atsAsk (ba / 4096)

/-- Runs of bytes at consecutive addresses within 512 bytes, the largest payload of a posted write (Table 2.2): first address and bytes. -/
def cellRuns : List Host.Cell → List (Nat × List Byte)
  | [] => []
  | c :: r =>
    match cellRuns r with
    | [] => [(c.1, [c.2])]
    | (a, ds) :: t => if a = c.1 + 1 ∧ a % 512 ≠ 0 then (c.1, c.2 :: ds) :: t else (c.1, [c.2]) :: (a, ds) :: t

/-- Posted writes of bytes of the host aperture, one for each run (R52), each counted when it is dropped (R53; log entry 122). -/
def State.apWrites (s : State) (own : ApOwner) (bs : List Host.Cell) : State := (cellRuns bs).foldl (fun s r => s.apWrite own r.1 r.2) s

/-- The size of a ring of 2^(lsize+6) slots (Table 3.2). -/
def ringSize (lsize : Nat) : Nat := 2 ^ (min lsize 10 + 6)

/-- The phase bit of slot index `i` (Tables 3.6, 4.8, 5.12): 1 on the first pass. -/
def phaseBit (i size : Nat) : Nat := if (i / size) % 2 = 0 then 1 else 0

/-! ## Completion entries -/

/-- A completion entry (Table 3.6) but for its phase. -/
def cplEntry (cookie status cause : Nat) (index : BitVec 32) (info retired : Word) (teams : Nat) : List Byte :=
  leBytes 2 cookie ++ leBytes 1 status ++ leBytes 1 cause ++ leBytes 4 index.toNat ++ leBytes 8 info.toNat ++
    leBytes 8 retired.toNat ++ leBytes 4 teams ++ leBytes 4 0

/-- The bytes of an entry as it is written now, with its phase (Table 3.6). -/
def Kept.stamp (k : Kept) (now : Word) (phase : Nat) : List Byte :=
  k.bytes.take 8 ++ (if k.now then leBytes 8 now.toNat else (k.bytes.drop 8).take 8) ++ (k.bytes.drop 16).take 12 ++ leBytes 1 phase ++ leBytes 3 0

/-- What becomes of the write of an entry. -/
inductive CplGot where
  | written (s : State)
  | fail
  | wait (s : State)
  deriving DecidableEq, Repr

/-- The address of the slot at cpl_tail. -/
def Area.cplVaNow (x : Area) : Nat := x.cplVa.toNat * 4096 + 32 * (x.cplTail.toNat % ringSize x.cplSize.toNat)

/-- Writes one entry at cpl_tail, then advances it (R74); it fails when the ring is unwritable (R73), and waits while ATS has no translation of the host page (R50). -/
def State.cplPut (s : State) (a : Nat) (e : Kept) : CplGot :=
  let x := s.area a
  let e := e.stamp s.mgmt.count (phaseBit x.cplTail.toNat (ringSize x.cplSize.toNat))
  let advance (s : State) : State := s.modArea a fun x => { x with cplTail := x.cplTail + 1, msgDue := x.msgDue || x.irq }
  match s.hmXlat x.asid x.cplVaNow 32 with
  | none => .fail
  | some pas =>
    match pas.find? isAperture with
    | none => .written (advance ((s.hmWalked x.asid x.cplVaNow 32).homeWrite (pas.zip e)))
    | some pa =>
      if s.links.apEn = false then .fail
      else if s.apKnown (s.links.busAddr pa) then .written (advance ((s.hmWalked x.asid x.cplVaNow 32).apWrite .unit pa e))
      else .wait (s.atsAsk (s.links.busAddr pa / 4096))

/-- The ring of an area has no free slot. -/
def Area.cplFull (x : Area) : Bool := ringSize x.cplSize.toNat ≤ (x.cplTail - x.cplHead).toNat

/-- Writes the kept entries that now fit, oldest first (R73, R74). -/
def State.cplDrain (s : State) (a : Nat) : List Kept → State
  | [] => s.modArea a fun x => { x with kept := [] }
  | e :: r =>
    if (s.area a).holdCpl ∨ (s.area a).cplFull = true then s.modArea a fun x => { x with kept := e :: r }
    else
      match s.cplPut a e with
      | .written s => s.cplDrain a r
      | .wait s => s.modArea a fun x => { x with kept := e :: r }
      | .fail => s.modArea a fun x => { x with kept := e :: r, holdCpl := true, halted := true, err := 3 }

/-- Finishes one completion: after the kept ones (R74). -/
def State.cplFinish (s : State) (a : Nat) (e : Kept) : State := s.cplDrain a ((s.area a).kept ++ [e])

/-- The host page whose translation the oldest kept entry of an area waits for (R50). -/
def State.cplPage (s : State) (a : Nat) : Option Nat :=
  let x := s.area a
  if x.kept.isEmpty ∨ x.holdCpl ∨ x.cplFull = true ∨ s.links.apEn = false then none
  else
    match (s.hmXlat x.asid x.cplVaNow 32).bind fun pas => pas.find? isAperture with
    | none => none
    | some pa => if s.apKnown (s.links.busAddr pa) then none else some (s.links.busAddr pa / 4096)

/-! ## Faults and loads of a team -/

/-- Whether what joined a fault belongs to a team. -/
def Joined.ofTeam (c : Core) (n : Nat) : Joined → Bool
  | .load tok => c.loads.any fun l => l.tok = tok && l.w.team == n
  | .warp w _ | .fetch w => w.team == n
  | .cmd t _ _ _ => t == n
  | .walk t _ _ _ => t == n

/-- Removes accesses from every fault of a core; a fault that nothing has joined any more frees its slot (R152). -/
def Core.withdraw (c : Core) (p : Joined → Bool) : Core :=
  { c with faults := c.faults.map fun f =>
      match f with
      | none => none
      | some f => if f.joined.any p then
          (match f.joined.filter (fun j => !p j) with
            | [] => none
            | js => some { f with joined := js })
        else some f }

/-- What a walk of a team has joined. -/
def Joined.ofWalks (j : Joined) (n : Nat) : Bool := match j with | .walk t _ _ _ => t == n | _ => false

/-- Everything of a team but its faults leaves its core: loads, grid claims and steps, ports, engines (R200, R210, R387). -/
def Core.leaveTeam (c : Core) (n : Nat) : Core :=
  { c with
    loads := c.loads.filter fun l => l.w.team != n
    parts := c.parts.map fun p =>
      { holder := p.holder.filter (fun w => w.team != n)
        grid := p.grid.filter (fun w => w.team != n)
        waiters := p.waiters.filter (fun w => w.team != n)
        ops := p.ops.filter (fun o => o.w.team != n)
        rgn := p.rgn.filter (fun r => r.1.team != n) }
    tender := c.tender.map fun h => h.filter (fun w => w.team != n)
    copyCmd := c.copyCmd.filter (fun x => x.1 != n)
    lightCmd := c.lightCmd.filter (fun x => x.1 != n) }

/-- Everything of a team leaves its core. -/
def Core.dropTeam (c : Core) (n : Nat) : Core := (c.withdraw (Joined.ofTeam c n)).leaveTeam n

/-- The faults of a team's walks are withdrawn, on whichever core they were raised (R152, R388). -/
def State.dropWalks (s : State) (n : Nat) : State := { s with cores := s.cores.map fun c => c.withdraw fun j => j.ofWalks n }

/-! ## Barriers (R370, R371) -/

/-- Execute warps per team of a task. -/
def Task.xw (t : Task) : Nat := fieldOf (vget t.record 4 0) 22 2 + 1

/-- Teams per block of a task. -/
def Task.tpb (t : Task) : Nat := fieldOf (vget t.record 4 0) 16 6 + 1

/-- Whether a team is a member of a group (R370). -/
def Group.hasTeam (g : Group) (xw t : Nat) : Bool :=
  g.amask.getLsbD t || (List.range xw).any fun i => g.xmask.getLsbD (t * xw + i)

/-- The emask bit of an engine queue (R82). -/
def chanOf (e : Nat) : Nat := if e < 4 then e else e - 4

/-- The group a command arrives at (Table 14.1). -/
def Cmd.group (c : Cmd) : Option Nat :=
  if c.e = 4 then none
  else if (vget c.q 0 0).getLsbD 12 then some (fieldOf (vget c.q 0 0) 13 8) else none

/-- A team counts as arrived without arriving: it has ended, or its access warp has (R371). -/
def State.teamGone (s : State) (b : Block) (t : Nat) : Bool :=
  match s.hm.teams.find? (fun x => x.block = b.id && x.index == t) with
  | none => true
  | some x => (x.warps.head?.map (·.ended)).getD true

/-- A channel has an outstanding command that names the group. -/
def State.chanBusy (s : State) (b : Block) (g : Group) (c : Nat) : Bool :=
  s.hm.teams.any fun t => t.block = b.id && t.cmds.any fun x => chanOf x.e == c && x.e != 4 && x.group == some g.gnum

/-- Every member has arrived or counts as arrived. -/
def State.allArrived (s : State) (b : Block) (g : Group) (xw tpb : Nat) : Bool :=
  (List.range tpb).all (fun t => !g.hasTeam xw t || (g.arrived.any fun a => a.1 == .team t) || s.teamGone b t) &&
  (List.range 12).all (fun c => !g.emask.getLsbD c || (g.arrived.any fun a => a.1 == .chan c) ||
    (!s.chanBusy b g c && !(g.held.any fun h => h.1 == c)))

/-- The next instance begins: one held arrival of each channel counts for it (R371). -/
def Group.next (g : Group) : Group :=
  let chans := (g.held.map Prod.fst).eraseDups
  let taken := chans.filterMap fun c => g.held.find? fun h => h.1 == c
  { g with
    results := g.results ++ [g.arrived.any (·.2)]
    arrived := taken.map fun h => (.chan h.1, h.2)
    held := taken.foldl (fun l h => l.erase h) g.held }

/-- Completes the current instance and those after it that already have every arrival. An instance for which nothing has
arrived is left: nothing observes it (R371). -/
def State.runGroup (s : State) (b : Block) (xw tpb : Nat) : Nat → Group → Group
  | 0, g => g
  | n + 1, g => if g.arrived ≠ [] ∧ s.allArrived b g xw tpb = true then s.runGroup b xw tpb n g.next else g

/-- Completes every barrier instance of a block that can complete. -/
def State.settleBarriers (s : State) (block : Nat) : State :=
  match s.block? block with
  | none => s
  | some b =>
    match s.task? b.task with
    | none => s
    | some t => s.modBlock block fun b =>
        { b with groups := b.groups.map fun g => s.runGroup b t.xw t.tpb (g.held.length + 1) g }

/-- An arrival of a member for the current instance; a channel that has already arrived is held for a later one (R371). -/
def Group.arrive (g : Group) (m : Member) (err : Bool) : Group :=
  match m with
  | .team _ => { g with arrived := g.arrived ++ [(m, err)] }
  | .chan c => if g.arrived.any (fun a => a.1 == m) then { g with held := g.held ++ [(c, err)] }
      else { g with arrived := g.arrived ++ [(m, err)] }

/-- Arrives at a group of a block and completes what completes. -/
def State.arrive (s : State) (block gnum : Nat) (m : Member) (err : Bool) : State :=
  (s.modBlock block fun b =>
    { b with groups := b.groups.map fun g => if g.gnum = gnum then g.arrive m err else g }).settleBarriers block

/-! ## Leases (R86, R118) -/

/-- The lease a task names, 0 for none. -/
def Task.lease (t : Task) : Nat := fieldOf (vget t.record 6 0) 0 12

/-- Ends a lease that no record names any more, or moves it to Held (Table 4.12). -/
def State.settleLease (s : State) (area id : Nat) : State :=
  if id = 0 ∨ s.hm.tasks.any (fun t => t.area = area && t.lease == id) = true then s
  else
    match s.hm.leases.find? (fun l => l.area = area && l.id == id) with
    | none => s
    | some l =>
      let others := s.hm.leases.filter fun l => !(l.area == area && l.id == id)
      if l.hold = false ∨ l.relPend = true then { s with hm := { s.hm with leases := others } }
      else if l.st = .active then { s with hm := { s.hm with leases := others ++ [{ l with st := .held }] } }
      else s

/-! ## The end of a task -/

/-- The area to which a continuation reports (R98). -/
def reportArea (own byte : Nat) : Nat := if byte < 80 ∧ areaFn byte = areaFn own then byte else own

/-- The join update of R98. A block whose page maps to the host aperture is one whose translation fails (DEDUCED, log entry 128). -/
def State.joinUpdate (s : State) (t : Task) : State :=
  let ja := fieldOf (vget t.record 3 0) 7 45 * 128
  if ja = 0 then s
  else
    let read := s.hmServed t.asid ja 8
    let err := read.setCtr { read.mem.ctr with joinErr := read.mem.ctr.joinErr + 1 }
    match s.hmRead t.asid ja 8, s.hmXlat t.asid ja 8 with
    | some cb, some pas =>
      let c := leNat cb
      let s := ((s.hmWalked t.asid ja 8).served pas).homeWrite (pas.zip (leBytes 8 ((c + (2 ^ 64 - 1)) % 2 ^ 64)))
      if c = 1 then
        let area := reportArea t.area (((s.hmRead t.asid (ja + 8) 1).map leNat).getD 255)
        let cont := (s.hmRead t.asid (ja + 64) 64).map fun bs =>
          Vector.ofFn fun (i : Fin 8) => word (leNat ((bs.drop (8 * i.val)).take 8))
        let s := (s.hmServed t.asid (ja + 8) 1).hmServed t.asid (ja + 64) 64
        { s with hm := { s.hm with conts := s.hm.conts ++ [(area, t.asid.toNat, t.index, cont)] } }
      else if sextN 64 c ≤ 0 then s.setCtr { s.mem.ctr with joinErr := s.mem.ctr.joinErr + 1 }
      else s
    | _, _ => err

/-- A task ends with a status (R97): the join, the completion entry, the lease. -/
def State.taskEnd (s : State) (id status cause : Nat) : State :=
  match s.task? id with
  | none => s
  | some t =>
    let s := s.joinUpdate t
    let s := { s with hm := { s.hm with
      tasks := s.hm.tasks.filter fun x => x.id != id
      blocks := s.hm.blocks.filter fun b => b.task != id } }
    let s := if (vget t.record 6 0).getLsbD 24 then s
      else s.cplFinish t.area { bytes := cplEntry (fieldOf (vget t.record 7 0) 48 16) status cause t.index t.lastTime t.retired t.teams, now := !t.everPlaced }
    s.settleLease t.area t.lease

/-- Ends a task all of whose teams have ended (Table 4.6). -/
def State.settleTask (s : State) (id : Nat) : State :=
  match s.task? id with
  | none => s
  | some t =>
    if s.hm.teams.any (fun x => x.task == id) then s
    else
      match t.st with
      | .placed => s.taskEnd id (if t.killed then 2 else 0) 0
      | .failing => s.taskEnd id 3 (t.fault.getD 0)
      | .killing => s.taskEnd id 2 0
      | _ => s

/-- How a team ends (Table 4.7). -/
inductive TeamEnd where
  | retired
  | faulted (cls : Nat)
  | killed
  | discarded
  deriving DecidableEq, Repr

/-- What a team's end adds to its task (R74, R97, R101). -/
def Task.teamEnded (t : Task) (how : TeamEnd) (retired time : Word) : Task :=
  let t := { t with retired := t.retired + retired, lastTime := time }
  match how with
  | .retired => { t with teams := t.teams + 1 }
  | .faulted c => { t with
      fault := if t.fault.isNone then some c else t.fault
      st := if t.st = .partially ∨ t.st = .placed then .failing else t.st }
  | .killed => { t with killed := true }
  | .discarded => t

/-- A team ends (R100, R101, R116, R387): it leaves its core, its barriers count it as arrived, an emptied block ends, and its
task with it when it was the last. Stores it has issued are left where they are and complete (R92, log entry 12). -/
def State.endTeam (s : State) (n : Nat) (how : TeamEnd) : State :=
  match s.team? n with
  | none => s
  | some t =>
    let retired := t.warps.foldl (fun a w => a + w.retired) 0
    let time := s.memCount t.core
    let s := (if t.st = .saved then s else s.modCore t.core (·.dropTeam n)).dropWalks n
    let s := { s with links := { s.links with
      av1 := s.links.av1.map fun (u : Vector Av1Ctx 8) => u.map fun (c : Av1Ctx) => if c.owner = some n then { c with owner := none } else c } }
    let s := s.setTeams (s.hm.teams.filter fun x => x.num != n)
    let s := { s with hm := { s.hm with victims := s.hm.victims.map (fun (v : Victim) => if v.team = n then { v with freed := true } else v) } }
    let s := s.modTask t.task fun k => k.teamEnded how retired time
    let s := s.settleBarriers t.block
    let s := if s.hm.teams.any (fun x => x.block == t.block) then s
      else { s with hm := { s.hm with blocks := s.hm.blocks.filter fun b => b.id != t.block } }
    s.settleTask t.task

end Sys2Proof.Machine
end

