-- ==== Sys2Proof/Machine/Ops.lean ====
section
/-! DEFINITION. How an instruction of a warp ends: it retires, stalls or traps. Taking a trap (R214 to R217, R219), returning from
one (R216, R289), the window of long-latency instructions (R250, R257), and who is current. -/

namespace Sys2Proof.Machine

/-! ## Traps -/

/-- A trap an instruction raises: cause, sub, the operand field concerned, the address, the failing lanes, and nxt (R215, R219). -/
structure TrapReq where
  cause : Cause
  reg   : Nat := 0
  sub   : Nat := 0
  va    : Nat := 0
  lanes : Mask := 1
  nxt   : Bool := false
  deriving DecidableEq, Repr

/-- Why an instruction does not retire: a trap, or a stall that leaves everything as it was (R186, R214). -/
inductive Stop where
  | trap (q : TrapReq)
  | stall (y : Stall)
  deriving DecidableEq, Repr

/-- tinfo0 (Table 7.9) as the hardware writes it on entry to the handler. -/
def tinfo0Of (i : TrapInfo) (access : Bool) : Word :=
  word (i.sub.toNat * 2 ^ 48 + i.cause.code * 2 ^ 40 + i.cause.cls * 2 ^ 36 + i.slot % 16 * 2 ^ 32 + i.rep % 128 * 2 ^ 25 +
    2 ^ 24 + b2n i.nxt * 2 ^ 23 + b2n access * 2 ^ 16 + i.reg % 2048)

/-- Whether the warp runs its handler (tinfo0.inh). -/
def Warp.inHandler (x : Warp) : Bool := (vget x.tinfo 0 0).getLsbD 24

/-- The handler entry of a team's code object (R78); 0 when there is none. -/
def State.traph (s : State) (team : Nat) : Nat :=
  match s.team? team with
  | none => 0
  | some t => ((s.task? t.task).map (·.launch.traph)).getD 0

/-- A warp as it enters its handler: tinfo0 to tinfo3 written, the path state in the trap frame, the pc at the handler's header
(R216, R219, R289). Nothing else changes. -/
def Warp.enterHandler (x : Warp) (access : Bool) (h : Nat) (i : TrapInfo) : Warp :=
  { x with
    tinfo := #v[tinfo0Of i access, word (i.hpc % 2 ^ 32).toNat, word (if i.cause.cls = 4 then i.va % 2 ^ 52 else 0), word i.lanes.toNat]
    frame := some { m := x.m, rpc := x.rpc, pstack := x.pstack, cstack := x.cstack, wrote := x.wrote }
    hdr := h, slot := 0, clause := none, resumed := false, repLeft := 0, elig := none, stall := none, trap := none,
    failed := [], recheck := false, begun := none, holdSt := [], wrote := [] }

/-- A warp gives up the issue port it holds (R186, R187). -/
def State.releasePort (s : State) (w : WarpId) : State :=
  s.modCore (s.coreOf w.team) fun c =>
    { c with
      parts := c.parts.map fun p => { p with holder := p.holder.filter (· != w) }
      tender := c.tender.map fun h => h.filter (· != w) }

/-- Delivers a trap (R216, R217): to the handler, or, with no handler or inside it, the team ends as faulted. -/
def State.deliverTrap (s : State) (w : WarpId) (i : TrapInfo) : State :=
  match s.warp? w with
  | none => s
  | some x =>
    if s.traph w.team = 0 ∨ x.inHandler = true then s.endTeam w.team (.faulted i.cause.cls)
    else (s.releasePort w).setWarp w (x.enterHandler w.access (s.traph w.team) i)

/-- Whether every earlier instruction of a warp has completed: its long-latency instructions, its grid steps and its loads
(R214, R250, R286). -/
def State.quiet (s : State) (w : WarpId) : Bool :=
  match s.warp? w with
  | none => true
  | some x =>
    x.window.all (·.done) &&
    !((s.core (s.coreOf w.team)).loads.any fun l => l.w = w && (match l.dst with | .reg _ => true | _ => false)) &&
    !((s.core (s.coreOf w.team)).parts.toList.any fun p => p.ops.any (·.w = w))

/-- What the registers will say of a trap of the instruction at hand. -/
def Warp.trapInfo (x : Warp) (q : TrapReq) : TrapInfo :=
  { cause := q.cause, sub := BitVec.ofNat 8 q.sub, reg := q.reg, va := q.va, lanes := q.lanes, nxt := q.nxt,
    slot := x.slot, rep := x.repLeft, hpc := x.hdr }

/-- A trap with its registers' values settled: taken at once when every earlier instruction has completed, else held until
TRAP_DELIVERY (R216). -/
def State.raiseInfo (s : State) (w : WarpId) (i : TrapInfo) : State :=
  if s.quiet w then s.deliverTrap w i
  else (s.releasePort w).modWarp w fun x => { x with trap := some i, stall := none }

/-- TAKING A TRAP: the one operation through which every instruction raises one (R214 to R217). -/
def State.raise (s : State) (w : WarpId) (q : TrapReq) : State :=
  match s.warp? w with
  | none => s
  | some x => s.raiseInfo w (x.trapInfo q)

/-! ## Retiring -/

/-- The header offset that follows a clause of a given count. -/
def nextHeader (hdr : Int) (count : Nat) : Int := hdr + 8 * (count + 1)

/-- A word of the clause has issued: the lookaheads still open lose one word (R257). -/
def spendLook (ws : List LongLat) : List LongLat :=
  ws.map fun l => { l with left := l.left.map (· - 1) }

/-- The lookaheads lapse at the end of a clause (R257); completed instructions beyond the six of R250 are forgotten. -/
def lapseLook (ws : List LongLat) : List LongLat :=
  ((ws.map fun l => { l with left := none }).zipIdx.filter fun x => x.2 < 6 || !x.1.done).map Prod.fst

/-- Whether a lookahead has run out: a long-latency instruction that has not completed lets no further word issue (R257). -/
def Warp.lookaheadOut (x : Warp) : Bool := x.window.any fun l => !l.done && l.left == some 0

/-- The warp leaves its clause for the header at `h` (R248, R281). -/
def Warp.goto (x : Warp) (h : Int) : Warp :=
  { x with hdr := h, slot := 0, clause := none, resumed := false, elig := none, repLeft := 0, wrote := [], window := lapseLook x.window }

/-- The number of words of the warp's open clause. -/
def Warp.count (x : Warp) : Nat := (x.clause.map (·.count)).getD 0

/-- Whether the instruction at hand is the last word of its clause. -/
def Warp.lastWord (x : Warp) : Bool := x.slot + 1 ≥ x.count

/-- The warp after the word at hand: the next word, or the next header when it was the last (R248). -/
def Warp.advance (x : Warp) : Warp :=
  if x.lastWord then x.goto (nextHeader x.hdr x.count)
  else { x with slot := x.slot + 1, repLeft := 0, window := spendLook x.window }

/-- One issued instruction, or one repetition of it, retires (R248, R265, R378): under `rep` with repetitions left the same word
issues again. Each repetition counts among the instructions retired, the prefix does not (DEDUCED, log entry 15). -/
def Warp.retire (x : Warp) : Warp :=
  let x := { x with retired := x.retired + 1, stall := none, failed := [], recheck := false, begun := none }
  if x.repLeft > 1 then { x with repLeft := x.repLeft - 1 } else x.advance

/-- Notes the registers that the current clause writes (R112). -/
def Warp.note (x : Warp) (ns : List Nat) : Warp := { x with wrote := ns.foldl (fun l n => insertNat n l) x.wrote }

/-- Puts a new long-latency instruction at window position 0 (R250). -/
def Warp.issueLong (x : Warp) (l : LongLat) : Warp := { x with window := l :: x.window }

/-- The entry of a long-latency instruction in the window of R250. -/
def longLat (tok : Nat) (la : BitVec 4) (done load : Bool) : LongLat :=
  { tok := tok, done := done, left := if done then none else some (la.toNat + 1), load := load, grid := false }

/-- Stores a warp that has retired an instruction; a warp that has left its clause releases its port (R186). -/
def State.retireWarp (s : State) (w : WarpId) (x : Warp) : State :=
  let y := x.retire
  let s := s.setWarp w y
  if y.clause.isNone then s.releasePort w else s

/-- Stores a warp that transfers control to a header (R281 to R283). -/
def State.transfer (s : State) (w : WarpId) (x : Warp) (h : Int) : State :=
  let x := { x with retired := x.retired + 1, stall := none, failed := [], recheck := false }
  (s.setWarp w (x.goto h)).releasePort w

/-- A stall leaves everything but its record as it was (R186). -/
def State.stallWarp (s : State) (w : WarpId) (y : Stall) : State := s.modWarp w fun x => { x with stall := some y }

/-- Ends an instruction: the new state, a trap, or a stall. -/
def State.conclude (s : State) (w : WarpId) : Except Stop State → State
  | .ok s' => s'
  | .error (.trap q) => s.raise w q
  | .error (.stall y) => s.stallWarp w y

/-- Who is current for a warp's instruction: its name, its team and itself. -/
structure Ctx where
  w : WarpId
  t : Team
  x : Warp
  deriving DecidableEq, Repr

/-- The context of the current warp. -/
def State.ctx? (s : State) : Option Ctx :=
  match s.cur with
  | some (.warp w) =>
    match s.team? w.team with
    | none => none
    | some t => (t.warps[w.idx]?).map fun x => { w := w, t := t, x := x }
  | _ => none

/-- Runs a warp instruction's meaning: it always answers a next state when a warp is current. -/
def State.asWarp (s : State) (f : Ctx → Except Stop State) : Host.Outcome State Fault Refusal :=
  match s.ctx? with
  | none => .fault .noAgent
  | some c => .next (s.conclude c.w (f c))

/-- The predicate of a word, after negation (R262). -/
def Warp.guard (x : Warp) (g : Guard) : Mask :=
  let p := if g.p = 0 then allLanes else vget x.p g.p.toNat 0
  if g.neg then ~~~p else p

/-- The active lanes (R262, R278). -/
def Warp.active (x : Warp) (g : Guard) : Mask := x.m &&& x.guard g

/-- The condition any(M, P) of a whole-warp instruction (R279). -/
def Warp.cond (x : Warp) (g : Guard) : Bool := x.active g != 0

/-- A trap with a cause alone. -/
def trapOf (c : Cause) (reg : Nat := 0) : Stop := .trap { cause := c, reg := reg }

/-- A cause unless a condition holds. -/
def need (ok : Bool) (e : Stop) : Except Stop Unit := if ok then .ok () else .error e

/-- Waits until every earlier instruction of the warp has completed. -/
def State.needQuiet (s : State) (w : WarpId) : Except Stop Unit := need (s.quiet w) (.stall (.quiet w.idx))

/-! ## Returning from a trap -/

/-- Where `eret` resumes (R216): the header, the slot, the repetitions left; the flag says that a new clause starts. -/
structure Resume where
  hdr   : Int
  slot  : Nat
  rep   : Nat
  fresh : Bool
  deriving DecidableEq, Repr

/-- The target of `eret` under R216, given the count of the clause at tinfo1.hpc. -/
def resumeAt (t0 t1 : Word) (count : Nat) : Resume :=
  let hdr : Int := (fieldOf t1 0 32 : Nat)
  let slot := fieldOf t0 32 4
  let rep := fieldOf t0 25 7
  if t0.getLsbD 23 = false then { hdr := hdr, slot := slot, rep := rep, fresh := false }
  else if rep ≥ 2 then { hdr := hdr, slot := slot, rep := rep - 1, fresh := false }
  else if slot + 1 ≥ count then { hdr := nextHeader hdr count, slot := 0, rep := 0, fresh := true }
  else { hdr := hdr, slot := slot + 1, rep := 0, fresh := false }

/-- RETURNING FROM A TRAP: the path state of the trap frame less the threads that have exited, inh cleared, and the warp at
its resumption point (R216, R289). A clause resumed at a slot other than 0 does not evaluate its waits again (R254); at slot 0 it starts at its header (DEDUCED, log entry 29). -/
def Warp.eret (x : Warp) (r : Resume) : Warp :=
  let f : TrapFrame := x.frame.getD { m := x.m, rpc := x.rpc, pstack := x.pstack, cstack := x.cstack, wrote := [] }
  { x with
    m := f.m &&& x.live, rpc := f.rpc, cstack := f.cstack
    pstack := f.pstack.map fun e => { e with mask := e.mask &&& x.live }
    frame := none
    tinfo := vset x.tinfo 0 (vget x.tinfo 0 0 &&& ~~~(0x1000000#64))
    hdr := r.hdr, slot := r.slot, repLeft := r.rep, clause := none, resumed := !r.fresh && r.slot != 0, elig := none, wrote := if r.fresh then [] else f.wrote,
    window := lapseLook x.window, stall := none, failed := [], recheck := false, retired := x.retired + 1 }

end Sys2Proof.Machine
end

