-- ==== Sys2Proof/Machine/Operands.lean ====
section
/-! DEFINITION. Queues (R199 to R204), operand fields (R258 to R260), the operand checks of Table 7.3 (R196), reading sources and
writing destinations with consumer counts and uninit (R193 to R195), the interlocks (R189, R213). -/

namespace Sys2Proof.Machine

/-! ## Queues -/

/-- The slot of the entry at position `i` from the head. -/
def Queue.slotOf (q : Queue) (i : Nat) : Nat := (q.head + i) % q.depth

/-- The generation of a slot. -/
def Queue.gen (q : Queue) (slot : Nat) : BitVec 2 := q.gens.getD slot 0

/-- At least one entry is Free. -/
def Queue.hasRoom (q : Queue) (n : Nat) : Bool := q.entries.length + n ≤ q.depth

/-- Allocates an entry at the tail (R203). -/
def Queue.alloc (q : Queue) (e : Entry) : Queue := { q with entries := q.entries ++ [e] }

/-- The head becomes Free and its generation advances (R199, R200). -/
def Queue.pop (q : Queue) : Queue :=
  match q.entries with
  | [] => q
  | _ :: r => { q with
      entries := r, head := (q.head + 1) % q.depth, gens := q.gens.set q.head (q.gen q.head + 1) }

/-- The first `n` entries become Free. -/
def Queue.popN (q : Queue) : Nat → Queue
  | 0 => q
  | n + 1 => (q.pop).popN n

/-- The entry in a slot, if the slot's generation is still `g`: its position (R199). -/
def Queue.find (q : Queue) (slot : Nat) (g : BitVec 2) : Option Nat :=
  let i := (slot + q.depth - q.head) % q.depth
  if i < q.entries.length ∧ q.gen slot = g then some i else none

/-- Changes the entry at a position. -/
def Queue.modify (q : Queue) (i : Nat) (f : Entry → Entry) : Queue := { q with entries := q.entries.modify i f }

/-- Fills an Issued or Pending entry that still has its generation (R199, R200). -/
def Queue.fill (q : Queue) (slot : Nat) (g : BitVec 2) (e : Entry) : Queue :=
  match q.find slot g with
  | none => q
  | some i => q.modify i fun d => if d.st = .issued ∨ d.st = .pending then e else d

/-- A Ready entry with data. -/
def Entry.ready (x : Image) : Entry := { st := .ready, data := x, psec := 0 }

/-- The destination queue a command names, if it is a queue (R204). -/
def Cmd.destQueue (c : Cmd) : Option Nat :=
  let q3 := vget c.q 3 0; let q4 := vget c.q 4 0
  if c.e = 0 then (if q3.getLsbD 53 then some (fieldOf q3 0 6) else none)
  else if c.e = 1 then some (fieldOf q3 0 6)
  else if c.e = 2 then some (fieldOf q4 0 6)
  else if 8 ≤ c.e ∧ fieldOf q3 55 2 = 0 then some (fieldOf q4 0 6)
  else none

/-- The warp's access warp has ended. -/
def Team.accessEnded (t : Team) : Bool := (t.warps.head?.map (·.ended)).getD true

/-- An execute warp of the team has ended. -/
def Team.execEnded (t : Team) (i : Nat) : Bool := ((t.warps[i + 1]?).map (·.ended)).getD true

/-- The queue's producer can no longer produce (R204). -/
def Team.exhausted (t : Team) (n : Nat) (q : Queue) : Bool :=
  match q.dir with
  | .forward => t.accessEnded
  | .ret => t.execEnded q.owner
  | .engine => t.accessEnded && !(t.cmds.any fun c => c.destQueue == some n)

/-- The queue's consumer has exited: what is pushed is discarded (R204). -/
def Team.noConsumer (t : Team) (q : Queue) : Bool :=
  match q.dir with
  | .forward | .engine => t.execEnded q.owner
  | .ret => t.accessEnded

/-- The slot and generation that an allocation at the tail takes, and the queue with the entry (R203). -/
def Queue.allocate (q : Queue) (st : EntryState) : Nat × BitVec 2 × Queue :=
  let slot := q.slotOf q.entries.length
  (slot, q.gen slot, q.alloc { st := st, data := 0, psec := 0 })

/-- Pushes a whole entry, or discards it when the consumer has exited (R204). -/
def Team.push (t : Team) (n : Nat) (q : Queue) (e : Entry) : Team :=
  if t.noConsumer q then t else t.setQueue n (q.alloc e)

/-! ## Operand fields -/

/-- What an operand field names (Table 9.4). -/
inductive Opd where
  | v (n : Nat)
  | a (n : Nat)
  | pop (q : Nat)
  | peek (q : Nat)
  | k (n : Nat)
  | p (n : Nat)
  | spec (n : Nat)
  | bad (c : Cause)
  deriving DecidableEq, Repr

/-- A field as Table 9.4 decodes it; 1536 to 1599 are pops as sources and pushes as destinations. -/
def opdOf (access : Bool) (f : Nat) : Opd :=
  if f < 64 then (if access then .a f else .v f)
  else if f < 1536 then (if access then .bad .illegalOperand else .v f)
  else if f < 1600 then (if access then .bad .queueDirection else .pop (f - 1536))
  else if f < 1664 then (if access then .bad .queueDirection else .peek (f - 1600))
  else if f < 1728 then .k (f - 1664)
  else if f < 1736 then .p (f - 1728)
  else if f < 1743 then .spec (f - 1736)
  else .bad .illegalOperand

/-- A source field and whether it is a floating-point read (R194). -/
structure SrcUse where
  fld : Fld
  flt : Bool
  deriving DecidableEq, Repr

/-- The outcome of the checks of one field (Table 7.3): passed, failed, poisoned head, or an entry it needs is not there yet. -/
inductive FieldCheck where
  | ok
  | fail (q : TrapReq)
  | poison (q : TrapReq)
  | wait (y : Stall)
  deriving DecidableEq, Repr

/-- Rows 3 and 4 for a queue field read by an execute warp: the queue exists, is owned by the warp, and is popped by it (R201). -/
def popCheck (c : Ctx) (f q : Nat) : Option TrapReq :=
  match c.t.queues[q]? with
  | none => some { cause := .illegalOperand, reg := f }
  | some x =>
    if x.owner + 1 ≠ c.w.idx then some { cause := .queueOwner, reg := f }
    else if x.dir = .ret then some { cause := .queueDirection, reg := f }
    else none

/-- Rows 3 and 4 for a return push by an execute warp (R201). -/
def pushCheck (c : Ctx) (f q : Nat) : Option TrapReq :=
  match c.t.queues[q]? with
  | none => some { cause := .illegalOperand, reg := f }
  | some x =>
    if x.owner + 1 ≠ c.w.idx then some { cause := .queueOwner, reg := f }
    else if x.dir ≠ .ret then some { cause := .queueDirection, reg := f }
    else none

/-- The stall of a pop that waits for the entry at a position from the head. -/
def entryStall (q pos : Nat) : Stall := if pos = 0 then .popQ q else .popAt q pos

/-- The state of the entry at a position from the head. -/
def Queue.stAt (q : Queue) (pos : Nat) : Option EntryState := (q.entries[pos]?).map Entry.st

/-- The entry at a position from the head is Ready or Poisoned. -/
def Queue.hereAt (q : Queue) (pos : Nat) : Bool :=
  match q.stAt pos with
  | some .ready | some (.poisoned _) => true
  | _ => false

/-- The queue on a pop of which a warp is stalled, with the position of the entry that it waits for. -/
def Stall.pop? : Stall → Option (Nat × Nat)
  | .popQ n => some (n, 0)
  | .popAt n pos => some (n, pos)
  | _ => none

/-- The queue on a push to which a warp is stalled, with the number of entries that it needs. -/
def Stall.push? : Stall → Option (Nat × Nat)
  | .pushQ n => some (n, 1)
  | .room n k => some (n, k)
  | _ => none

/-- The entry a pop or peek needs, at a position from the head (R202, R204). -/
def entryCheck (t : Team) (f q pos : Nat) : FieldCheck :=
  match t.queues[q]? with
  | none => .ok
  | some x =>
    match x.entries[pos]? with
    | none => if t.exhausted q x then .fail { cause := .queueExhausted, reg := f } else .wait (entryStall q pos)
    | some e =>
      match e.st with
      | .ready => if e.psec = 0 then .ok else .poison { cause := .poisonedEntry, reg := f, sub := Cause.uncorrectable.code }
      | .poisoned w => .poison { cause := .poisonedEntry, reg := f, sub := w.code }
      | _ => .wait (entryStall q pos)

/-- The checks of a source field, in the order of Table 7.3; `pos` is the position of the entry it would take. -/
def srcCheck (c : Ctx) (act : Mask) (u : SrcUse) (pos : Nat) : FieldCheck :=
  let f := u.fld.toNat
  match opdOf c.w.access f with
  | .bad w => .fail { cause := w, reg := f }
  | .v n =>
    match c.x.v[n]? with
    | none => .fail { cause := .illegalOperand, reg := f }
    | some r =>
      if r.released then .fail { cause := .releasedRegister, reg := f }
      else if u.flt ∧ r.uninit &&& act ≠ 0 then .fail { cause := .uninitialised, reg := f, lanes := r.uninit &&& act }
      else .ok
  | .pop q | .peek q =>
    match popCheck c f q with
    | some r => .fail r
    | none => entryCheck c.t f q pos
  | _ => .ok

/-- Where a general destination field writes. -/
inductive Dst where
  | v (n : Nat)
  | a (n : Nat)
  | push (q : Nat)
  | k (n : Nat)
  | p (n : Nat)
  | zero
  deriving DecidableEq, Repr

/-- The checks of a destination field; a k register or a predicate is legal only where the instruction is defined to write one (R260). -/
def dstCheck (c : Ctx) (okK okP okV : Bool) (d : Fld) : Except TrapReq Dst :=
  let f := d.toNat
  let bad : TrapReq := { cause := .illegalOperand, reg := f }
  match opdOf c.w.access f with
  | .bad w => .error { cause := w, reg := f }
  | .v n => if okV ∧ n < c.x.v.length then .ok (.v n) else .error bad
  | .a n => if okV then .ok (.a n) else .error bad
  | .pop q =>
    if okV then
      match pushCheck c f q with
      | some r => .error r
      | none => .ok (.push q)
    else .error bad
  | .peek q =>
    if okV then
      match c.t.queues[q]? with
      | none => .error bad
      | some x => .error { cause := if x.owner + 1 ≠ c.w.idx then .queueOwner else .queueDirection, reg := f }
    else .error bad
  | .k n => if okK then .ok (.k n) else .error bad
  | .p n => if okP then .ok (.p n) else .error bad
  | .spec 0 => .ok .zero
  | .spec _ => .error bad

/-- The position of the entry that each source field takes: fields that pop the same queue take successive entries, a peek sees the
head after the pops of the earlier fields (R202). -/
def popPositions (access : Bool) : List SrcUse → List Nat → List Nat
  | [], _ => []
  | u :: r, done =>
    match opdOf access u.fld.toNat with
    | .pop q => (done.count q) :: popPositions access r (done ++ [q])
    | .peek q => (done.count q) :: popPositions access r done
    | _ => 0 :: popPositions access r done

/-- The queues that the fields pop, in order. -/
def poppedQueues (access : Bool) (us : List SrcUse) : List Nat :=
  us.filterMap fun u => match opdOf access u.fld.toNat with | .pop q => some q | _ => none

/-- The first field whose entry is neither Ready nor Poisoned: the instruction does not issue (R202). -/
def firstWait (cs : List FieldCheck) : Option Stall :=
  cs.findSome? fun x => match x with | .wait y => some y | _ => none

/-- The first field that fails (R196, R202). -/
def firstTrap (cs : List FieldCheck) : Option TrapReq :=
  cs.findSome? fun x => match x with | .fail q | .poison q => some q | _ => none

/-- The verdict over the fields in order: the checks are made at issue (R269), and an instruction issues only when every entry it needs is
Ready or Poisoned (R202). -/
def verdict (cs : List FieldCheck) : Except Stop Unit :=
  match firstWait cs, firstTrap cs with
  | some y, _ => .error (.stall y)
  | none, some q => .error (.trap q)
  | none, none => .ok ()

/-- The operand checks of an instruction, field D before A, B and C (R196), once every entry it needs is there (R202). -/
def checkOperands (c : Ctx) (act : Mask) (d : Except TrapReq Dst) (us : List SrcUse) : Except Stop Dst :=
  match verdict ((us.zip (popPositions c.w.access us [])).map fun x => srcCheck c act x.1 x.2), d with
  | .error (.stall y), _ => .error (.stall y)
  | _, .error q => .error (.trap q)
  | .error e, .ok _ => .error e
  | .ok (), .ok dst => .ok dst

/-! ## Interlocks -/

/-- The partition of the current execute warp. -/
def State.partOf (s : State) (c : Ctx) : Part := (s.core c.t.core).part c.x.partOf

/-- The first and the number of the registers that a grid instruction still in flight reads or writes: its tile, and the destination of
an `mcvt` (R213, R343). -/
def GridOp.covers (o : GridOp) (n : Nat) : Bool :=
  (o.base ≤ n && n < o.base + 64) ||
  (match o.act with
    | .cvt (.regs d _) ty _ _ _ => d ≤ n && n < d + Ty.width ty
    | _ => false)

/-- A vector register waits for the grid steps already issued on it (R213, R338). -/
def State.vBusy (s : State) (c : Ctx) (n : Nat) : Bool := (s.partOf c).ops.any fun o => o.w = c.w && o.covers n

/-- An `a` register waits for a load into it (R189). -/
def State.aBusy (s : State) (c : Ctx) (n : Nat) : Bool :=
  (s.core c.t.core).loads.any fun l => l.w = c.w && l.dst == .reg n

/-- A field's register is waited for by interlock. -/
def State.fieldBusy (s : State) (c : Ctx) (f : Fld) : Bool :=
  match opdOf c.w.access f.toNat with
  | .v n => s.vBusy c n
  | .a n => s.aBusy c n
  | _ => false

/-! ## Live accumulators (R212) -/

/-- The role of a tile-control register (Table 12.2). -/
def tcRole (w : Word) : Nat := fieldOf w 32 2

/-- The base of a tile-control register. -/
def tcBase (w : Word) : Nat := fieldOf w 0 11

/-- The warp holds the grid of its partition (R210). -/
def State.holdsGrid (s : State) (c : Ctx) : Bool := (s.partOf c).grid == some c.w

/-- A register is a live accumulator register (R212, R297). -/
def State.liveAcc (s : State) (c : Ctx) (n : Nat) : Bool :=
  s.holdsGrid c && c.x.tc.toList.any fun w => tcRole w == 3 && tcBase w ≤ n && n < tcBase w + 64

/-! ## Reading -/

/-- A small number as a value of a floating-point type, exact (R259). -/
def smallFloat (ty : BitVec 4) (n : Nat) : Nat :=
  if n = 0 then 0
  else
    let e := Nat.log2 n
    if ty = 8 then (15 + e) * 2 ^ 10 + (n - 2 ^ e) * 2 ^ (10 - e)
    else if ty = 9 then (127 + e) * 2 ^ 7 + (n - 2 ^ e) * 2 ^ (7 - e)
    else (127 + e) * 2 ^ 23 + (n - 2 ^ e) * 2 ^ (23 - e)

/-- A small number as a value of a type: a q4 code is taken modulo 16 (R259). -/
def smallVal (ty : BitVec 4) (n : Nat) : Nat := if Ty.float ty then smallFloat ty n else if ty = 11 then n % 16 else n

/-- The number a special operand stands for in sub-element `e` of lane `t` (Table 9.5). -/
def specNum (c : Ctx) (uni : Bool) (n t e : Nat) : Nat :=
  match n with
  | 0 => 0
  | 1 => 1
  | 2 => if uni then 0 else t
  | 3 => if uni then 0 else e
  | 4 => c.x.wslot
  | 5 => c.t.index
  | _ => c.t.core

/-- A special operand's lane in a source type (R259): `lane` is each lane's own number, also as the index of `vshfl` (DEDUCED, log entry 132). -/
def specLane (c : Ctx) (uni : Bool) (ty : BitVec 4) (n t : Nat) : Word :=
  ofSubs (Ty.width ty) fun e => smallVal ty (specNum c uni n t e)

/-- A predicate register; p0 reads all ones (R260). -/
def Warp.pred (x : Warp) (n : Nat) : Mask := if n = 0 then allLanes else vget x.p n 0

/-- The value of a source field in a source type, after its checks (R258 to R260). -/
def srcVal (c : Ctx) (ty : BitVec 4) (f : Fld) (pos : Nat) : Image :=
  match opdOf c.w.access f.toNat with
  | .v n => ((c.x.v[n]?).map (·.data)).getD 0
  | .a n => vget c.x.a n 0
  | .pop q | .peek q => (((c.t.queues[q]?).bind (·.entries[pos]?)).map (·.data)).getD 0
  | .k n => let w := vget c.x.k n 0; ofLanes fun _ => w
  | .p n => let m := c.x.pred n; ofLanes fun t => if mbit m t then BitVec.allOnes 64 else 0
  | .spec n => ofLanes fun t => specLane c false ty n t
  | .bad _ => 0

/-- The values of the source fields in order. -/
def srcVals (c : Ctx) (ty : BitVec 4) (us : List SrcUse) : List Image :=
  (us.zip (popPositions c.w.access us [])).map fun x => srcVal c ty x.1.fld x.2

/-! ## Counted reads, pops, writes -/

/-- One counted read of a register (R195). -/
def VReg.counted (r : VReg) : VReg :=
  if r.count = 0 then r else { r with count := r.count - 1, released := r.count == 1 }

/-- One counted read of register `n`. -/
def countRead (v : List VReg) (n : Nat) : List VReg := v.modify n VReg.counted

/-- The counted reads of the source fields (R195): each field that names a register counts once. -/
def countReads (access : Bool) (v : List VReg) : List SrcUse → List VReg
  | [] => v
  | u :: r =>
    match opdOf access u.fld.toNat with
    | .v n => countReads access (countRead v n) r
    | _ => countReads access v r

/-- Pops every queue that the fields pop (R202). -/
def popAll (t : Team) : List Nat → Team
  | [] => t
  | q :: r =>
    match t.queues[q]? with
    | none => popAll t r
    | some x => popAll (t.setQueue q x.pop) r

/-- The team and warp after the reads of an instruction: entries popped, reads counted. -/
def Ctx.afterReads (c : Ctx) (us : List SrcUse) : Ctx :=
  { c with
    t := popAll c.t (poppedQueues c.w.access us)
    x := { c.x with v := countReads c.w.access c.x.v us } }

/-- What the lanes hold that a write leaves out: the value of a released register is lost, a free value (R195, R300), but a lane with uninit set goes on reading as
the marker (R194, R316). -/
def VReg.kept (r : VReg) : Image := if r.released then mergeLanes r.uninit r.data (Config.lostImage r.data) else r.data

/-- A new register: the marker in every lane, uninit set (R194, R230). -/
def VReg.fresh : VReg :=
  { data := ofLanes fun _ => 0x7fa57fa57fa57fa5#64, uninit := allLanes, count := 0, released := false }

/-- A write of the active lanes of a register: uninit cleared there, the count set, live again (R193, R195). -/
def VReg.write (r : VReg) (act : Mask) (x : Image) (cc : BitVec 2) : VReg :=
  { data := mergeLanes act x r.kept, uninit := r.uninit &&& ~~~act, count := cc, released := false }

/-- Writes the active lanes of a general destination (R258, R260, R262); a push waits for room (R202). -/
def Ctx.writeDst (c : Ctx) (d : Dst) (act : Mask) (x : Image) (cc : BitVec 2) : Except Stop Ctx :=
  match d with
  | .v n => .ok { c with x := { c.x with v := c.x.v.modify n fun r => r.write act x cc }.note [n] }
  | .a n => .ok { c with x := { c.x with a := vset c.x.a n (mergeLanes act x (vget c.x.a n 0)) }.note [n] }
  | .push q =>
    match c.t.queues[q]? with
    | none => .ok c
    | some y =>
      if c.t.noConsumer y = false ∧ y.hasRoom 1 = false then .error (.stall (.pushQ q))
      else .ok { c with t := c.t.push q y (Entry.ready (mergeLanes act x 0)) }
  | .k n => .ok { c with x := { c.x with k := vset c.x.k n (lane x 0) } }
  | .p _ | .zero => .ok c

/-- Writes bits of a predicate in the lanes of `act`; a write to p0 is discarded (R260). -/
def Warp.writePred (x : Warp) (n : Nat) (act bits : Mask) : Warp :=
  if n = 0 then x else { x with p := vset x.p n ((vget x.p n 0 &&& ~~~act) ||| (bits &&& act)) }

/-- Writes a k register; `zero` discards the write. -/
def Warp.writeK (x : Warp) (f : Fld) (w : Word) : Warp :=
  if Fld.isK f then { x with k := vset x.k (f.toNat - 1664) w } else x

/-- The state with the context's team and warp stored. -/
def State.putCtx (s : State) (c : Ctx) : State := s.setTeam (c.t.setWarp c.w.idx c.x)

/-- The context's instruction retires. -/
def State.retireCtx (s : State) (c : Ctx) : State := (s.putCtx c).retireWarp c.w c.x

/-- The consumer count is 0 unless D names a v register of an execute warp (R264). -/
def ccOk (access : Bool) (cc : BitVec 2) (d : Fld) : Bool := cc == 0 || (!access && d.toNat < 1536)

/-! ## Uniform operands (R263, R290) -/

/-- A uniform source field names a k register or a special. -/
def uniSrcOk (f : Fld) : Bool :=
  match opdOf false f.toNat with
  | .k _ | .spec _ => true
  | _ => false

/-- A uniform destination names a k register or `zero`. -/
def uniDstOk (f : Fld) : Bool :=
  match opdOf false f.toNat with
  | .k _ | .spec 0 => true
  | _ => false

/-- The checks of a uniform instruction's fields, D before A, B and C. -/
def checkUniform (d : Fld) (us : List Fld) : Except Stop Unit :=
  if uniDstOk d = false then .error (trapOf .illegalOperand d.toNat)
  else
    match us.find? (fun f => !uniSrcOk f) with
    | some f => .error (trapOf .illegalOperand f.toNat)
    | none => .ok ()

/-- The value of a uniform source field: one packed lane (R263, R293). -/
def uniVal (c : Ctx) (ty : BitVec 4) (f : Fld) : Word :=
  match opdOf false f.toNat with
  | .k n => vget c.x.k n 0
  | .spec n => specLane c true ty n 0
  | _ => 0

/-- The trap of a field that an instruction does not take: a queue value in an access warp's word raises "queue direction", any other "illegal operand" (R258, R260). -/
def wrongField (access : Bool) (f : Fld) : Stop :=
  trapOf (if access && 1536 ≤ f.toNat && f.toNat < 1664 then .queueDirection else .illegalOperand) f.toNat

/-- The value of a `k` field that an instruction reads as a uniform register. -/
def kField (c : Ctx) (f : Fld) : Except Stop Word :=
  if Fld.isK f then .ok (vget c.x.k (f.toNat - 1664) 0) else .error (wrongField c.w.access f)

/-- The value of a `k` field of an instruction for which every other value is an "illegal operand" (R281, R360, R366). -/
def kOnly (c : Ctx) (f : Fld) : Except Stop Word :=
  if Fld.isK f then .ok (vget c.x.k (f.toNat - 1664) 0) else .error (trapOf .illegalOperand f.toNat)

/-- A `k` register by number. -/
def Warp.kreg (x : Warp) (n : Nat) : Word := vget x.k n 0

end Sys2Proof.Machine
end

