-- ==== Sys2Proof/Machine/Fetch.lean ====
section
/-! DEFINITION. Instruction fetch (R248, R282, R433), the checks of a word that depend on the word and its clause (R269, checks 1 to 4),
and the repeat prefix's stepping (R265, R266). -/

namespace Sys2Proof.Machine

/-- The code object's address of a task. -/
def Task.code (t : Task) : Nat := fieldOf (vget t.record 0 0) 7 45 * 128

/-- A read of 128 code bytes from home memory as one snapshot (R182). -/
def State.codeLine (s : State) (va pa : Nat) : CodeLine :=
  { va := va, pa := pa, bytes := BitVec.ofNat 1024 (s.mem.ram.num pa 128)
    poison := BitVec.ofNat 8 (packNat 1 (fun i => b2n (s.mem.ram.poisonedAt (pa + 16 * i))) 8), fail := false }

/-- A read of the host aperture: sent at once, or held until ATS has the translation (R50, R52); with the aperture off it fails (R53). -/
def State.apRead (s : State) (pa len : Nat) (dst : ApDst) : State :=
  let (tag, s) := s.takeTok
  let ba := s.links.busAddr pa
  let r : ApRead := { tag := tag, pa := pa, ba := ba, len := len, dst := dst, sent := s.mgmt.count }
  let s := s.passedRead pa len
  if s.apKnown ba then ({ s with links := { s.links with apReads := s.links.apReads ++ [r] } }).send (.hostRead tag ba len)
  else ({ s with links := { s.links with apQueue := s.links.apQueue ++ [r] } }).atsAsk (ba / 4096)

/-- A line of code of HBM as a fetch of a core has it: as home memory stands, or a snapshot that an earlier fetch of the core read and that no `iinv` has dropped, which one nothing
constrains (R182, R362; a free value, log entry 100). -/
def State.codeFrom (s : State) (core va pa : Nat) : State × CodeLine :=
  let now := s.codeLine va pa
  let s := s.servedFor (coreBit core) (tab 128 (pa + ·))
  let old := ((s.core core).codes.filter fun l => l.pa == pa && !(l.bytes == now.bytes && l.poison == now.poison)).map fun l => { l with va := va }
  let s := s.modCore core fun k => { k with codes := (k.codes.filter fun l => !(l.pa == pa && l.bytes == now.bytes && l.poison == now.poison)) ++ [now] }
  match old with
  | [] => (s, now)
  | _ => let (k, s) := s.takeFree; (s, (now :: old).getD (k % (old.length + 1)) now)

/-- A line of code at a virtual address, by the cases of Table 5.14: the line, or why there is none, and the state in which a demand
fault has been raised or a host read sent. -/
def State.fetchLine (s : State) (c : Ctx) (va : Nat) : State × Except Stop CodeLine :=
  let cause (w : Cause) : Stop := .trap { cause := w, va := va }
  if va ≥ 2 ^ 52 then (s, .error (cause .address))
  else if c.x.failed.any (fun p => p.meets va 8) = true then (s, .error (cause .faultFailed))
  else
    let sp := s.spaceOf c.w.team
    match s.xlat sp.core sp.asid va with
    | .bad => (s, .error (cause .badTranslation))
    | .absent =>
      if inRanges sp.leased va 1 then (s, .error (cause .leaseBroken))
      else if inRanges sp.demand va 1 then
        if s.noRing then (s, .error (cause .faultFailed))
        else
          match s.raiseFault sp c.w.team (pageAt false va) 0 (.fetch c.w) with
          | none => (s, .error (.stall .slots))
          | some (i, s) => (s, .error (.stall (.fault sp.core i 1)))
      else (s, .error (cause .badTranslation))
    | .leaf f big _ _ =>
      let pa := leafPa f big va / 128 * 128
      let line := va / 128 * 128
      if isHbm pa then (s.codeFrom sp.core line pa).map id .ok
      else if isAperture pa then
        if s.links.apEn = false then (s, .error (cause .hostAccess))
        else if s.links.apReads.any (fun r => r.dst == .code c.w line) || s.links.apQueue.any (fun r => r.dst == .code c.w line) then
          (s, .error (.stall (.line line)))
        else (s.apRead pa 128 (.code c.w line), .error (.stall (.line line)))
      else (s, .error (cause .frameOutOfRange))

/-- The word of a line at an address, unless its sector is poisoned or its host access failed (Table 5.14). -/
def CodeLine.wordAt (l : CodeLine) (va : Nat) : Except Stop Word :=
  if l.fail then .error (.trap { cause := .hostAccess, va := va })
  else if l.poison.getLsbD (va % 128 / 16) then .error (.trap { cause := .uncorrectable, va := va })
  else .ok (l.bytes.extractLsb' (8 * (va % 128)) 64)

/-- The word at an offset of the team's code object (R248, R282, R433), from the line the warp holds or a new one. -/
def State.fetch (s : State) (c : Ctx) (off : Int) : State × Except Stop Word :=
  match s.task? c.t.task with
  | none => (s, .error (trapOf .illegalClause))
  | some k =>
    if off < 0 ∨ off ≥ k.launch.csize ∨ off % 8 ≠ 0 then (s, .error (trapOf .illegalClause))
    else
      let va := k.code + off.toNat
      match c.x.code with
      | some l => if l.va = va / 128 * 128 then (s, l.wordAt va)
        else
          match s.fetchLine c va with
          | (s, .error e) => (s, .error e)
          | (s, .ok l) => (s.modWarp c.w fun x => { x with code := some l }, l.wordAt va)
      | none =>
        match s.fetchLine c va with
        | (s, .error e) => (s, .error e)
        | (s, .ok l) => (s.modWarp c.w fun x => { x with code := some l }, l.wordAt va)

/-- The offset of the word at a slot of the open clause. -/
def Warp.wordOff (x : Warp) (slot : Nat) : Int := x.hdr + 8 * (slot + 1)

/-- Opcodes that `rep` may not prefix: control, `rep`, `mmode`, `rgn`, `rgrow`, `rshrink` (R266). -/
def noRepOp (op : Nat) : Bool := op ≤ 0x00e || op == 0x100 || op == 0x060 || op == 0x061 || op == 0x062

/-- A `k` instruction of an execute warp whose D names a v register: its cc field may hold a count (R264), and the word is then refused for D (R290). -/
def looseK (access : Bool) (w : Word) : Bool :=
  let op := Dec.opcode w
  !access && 0x020 ≤ op && op ≤ 0x033 && (Dec.fld w 40 11).toNat < 1536 && (decodeWord (w &&& ~~~(0x60#64))).isOk

/-- Checks 1 to 4 of R269 for a word in a clause of a class. -/
def wordCheck (access : Bool) (cls : Nat) (w : Word) : Except Stop Instr :=
  let op := Dec.opcode w
  if Dec.fld w 60 4 = 0xf#4 then .error (trapOf .illegalClause)
  else
    match opcodeClass op with
    | none => .error (trapOf .reservedOpcode)
    | some k =>
      if k ≠ 5 ∧ k ≠ cls then .error (trapOf .illegalClause)
      else if access ∧ cls = 0 ∧ k ≠ 5 ∧ ¬((0x020 ≤ op ∧ op ≤ 0x033) ∨ (0x040 ≤ op ∧ op ≤ 0x059)) then .error (trapOf .illegalClause)
      else
        match decodeWord w with
        | .ok i => .ok i
        | .error _ => .error (if looseK access w then trapOf .illegalOperand (Dec.fld w 40 11).toNat else trapOf .reservedOpcode)

/-- A field of `w` bits stepped `r` times (R266). -/
def stepFld (f w r : Nat) (step : BitVec 8) : Nat := toN w ((f : Int) + (r : Int) * step.toInt)

/-- Opcodes of the long-latency form (Table 9.3). -/
def longForm (op : Nat) : Bool :=
  (0x090 ≤ op && op ≤ 0x099) || op == 0x0c0 || op == 0x0c3 || op == 0x104 || op == 0x105 || op == 0x107 ||
  (0x142 ≤ op && op ≤ 0x14f) || op == 0x151 || op == 0x1c0 || op == 0x1c1

/-- The prefixed word as repetition `r` reads it (R266): each 11-bit field, or C7 in a long-latency word, stepped `r` times. -/
def stepWord (w : Word) (f : RepF) (r : Nat) : Word :=
  let x := w.toNat
  let d := stepFld (bitsOf x 40 11) 11 r f.sd
  let a := stepFld (bitsOf x 29 11) 11 r f.sa
  let b := stepFld (bitsOf x 18 11) 11 r f.sb
  let lo :=
    if longForm (Dec.opcode w) then bitsOf x 14 4 * 2 ^ 14 + stepFld (bitsOf x 7 7) 7 r f.sc * 2 ^ 7
    else stepFld (bitsOf x 7 11) 11 r f.sc * 2 ^ 7
  word (bitsOf x 51 13 * 2 ^ 51 + d * 2 ^ 40 + a * 2 ^ 29 + b * 2 ^ 18 + lo + bitsOf x 0 7)

/-- The word that the warp issues next: the word at its slot, stepped when it runs under `rep` (R266); under `rep` the word before it
is the prefix, else "illegal clause". -/
def State.nextWord (s : State) (c : Ctx) : State × Except Stop Word :=
  match s.fetch c (c.x.wordOff c.x.slot) with
  | (s, .error e) => (s, .error e)
  | (s, .ok w) =>
    if c.x.repLeft = 0 then (s, .ok w)
    else if c.x.slot = 0 then (s, .error (trapOf .illegalClause))
    else
      match s.fetch ((s.ctx?).getD c) (c.x.wordOff (c.x.slot - 1)) with
      | (s, .error e) => (s, .error e)
      | (s, .ok p) =>
        match decodeWord p with
        | .ok (.rep f) => (s, .ok (stepWord w f (f.n.toNat + 1 - c.x.repLeft)))
        | _ => (s, .error (trapOf .illegalClause))

/-- Whether the instruction of a word uses the field of `n` bits at `lo` (R266): its layout keeps a bit there, but for the D field of
`redl2`, `mcast`, `pref`, `cflush` and `bara` and the C7 field of `spawn`, `lds` and `sts`, which are 0. -/
def fieldUsed (w : Word) (lo n : Nat) : Bool :=
  let m : Word := word ((2 ^ n - 1) * 2 ^ lo)
  let op := Dec.opcode w
  if lo = 40 ∧ (op = 0x14c ∨ op = 0x14e ∨ op = 0x150 ∨ op = 0x157 ∨ op = 0x1a1) then false
  else if lo = 7 ∧ (op = 0x1c1 ∨ op = 0x146 ∨ op = 0x147) then false
  else
    match Dec.candidate (w ||| m) with
    | none => true
    | some i => ((encode i).map fun x => x &&& m != 0).getD true

/-- A prefix steps only fields that the prefixed word uses (R266). -/
def stepsOk (f : RepF) (w : Word) : Bool :=
  (f.sd == 0 || fieldUsed w 40 11) && (f.sa == 0 || fieldUsed w 29 11) && (f.sb == 0 || fieldUsed w 18 11) &&
    (f.sc == 0 || fieldUsed w 7 (if longForm (Dec.opcode w) then 7 else 11))

/-- The rules of R266 for a `rep` word at the warp's slot, and, for a prefix `f`, the step rule. A word after it that cannot be fetched
raises its own trap at its own slot. -/
def State.repCheck (s : State) (c : Ctx) (f : Option RepF) : State × Except Stop Unit :=
  if c.x.lastWord then (s, .error (trapOf .illegalClause))
  else
    match s.fetch c (c.x.wordOff (c.x.slot + 1)) with
    | (s, .error (.stall y)) => (s, .error (.stall y))
    | (s, .error (.trap _)) => (s, .ok ())
    | (s, .ok w) =>
      if noRepOp (Dec.opcode w) then (s, .error (trapOf .illegalClause))
      else
        match f with
        | none => (s, .error (trapOf .reservedOpcode))
        | some f => (s, need (stepsOk f w) (trapOf .reservedOpcode))

/-- The instruction of a fetched word at the warp's slot, under checks 1 to 4 of R269; a malformed `rep` word meets the rules of R266
first. -/
def State.checkWord (s : State) (c : Ctx) (w : Word) : State × Except Stop Instr :=
  match wordCheck c.w.access ((c.x.clause.map (·.cls)).getD 7) w with
  | .ok i => (s, .ok i)
  | .error e =>
    if Dec.opcode w = 0x00b then
      match s.repCheck c none with
      | (s, .error e) => (s, .error e)
      | (s, .ok ()) => (s, .error (trapOf .reservedOpcode))
    else (s, .error e)

/-- Ends an instruction that has changed the state before it stalls, as a fetch that raises a demand fault does. -/
def State.stallWith (s : State) (w : WarpId) : Stop → Except Stop State
  | .stall y => .ok (s.stallWarp w y)
  | e => .error e

/-- The context of the same warp in a later state. -/
def State.again (s : State) (c : Ctx) : Ctx := (s.ctx?).getD c

end Sys2Proof.Machine
end

