-- ==== Sys2Proof/Machine/Float.lean ====
section
/-! DEFINITION. Floating-point formats, exact values and the single rounding (08: R224 to R228). -/

namespace Sys2Proof.Machine

/-- A floating-point format: exponent and fraction widths (Table 8.2). -/
structure Fmt where
  eb : Nat
  fb : Nat
  deriving DecidableEq, Repr

/-- The format of a type code; f32 for any other. -/
def fmtOf (ty : BitVec 4) : Fmt := if ty = 8 then ⟨5, 10⟩ else if ty = 9 then ⟨8, 7⟩ else ⟨8, 23⟩

/-- The exponent bias. -/
def Fmt.bias (f : Fmt) : Nat := 2 ^ (f.eb - 1) - 1

/-- The width in bits. -/
def Fmt.width (f : Fmt) : Nat := 1 + f.eb + f.fb

/-- The biased exponent of infinities and NaNs. -/
def Fmt.emax (f : Fmt) : Nat := 2 ^ f.eb - 1

/-- +infinity. -/
def Fmt.inf (f : Fmt) : Nat := f.emax * 2 ^ f.fb

/-- The largest finite value (Table 8.2). -/
def Fmt.maxFin (f : Fmt) : Nat := f.inf - 1

/-- The default NaN (Table 8.2). -/
def Fmt.nan (f : Fmt) : Nat := f.inf + 2 ^ (f.fb - 1)

/-- The sign bit. -/
def Fmt.sign (f : Fmt) (neg : Bool) : Nat := if neg then 2 ^ (f.eb + f.fb) else 0

/-- What a pattern denotes: a NaN, an infinity, or (−1)^neg × m × 2^e (R224). -/
inductive FVal where
  | nan (signalling : Bool)
  | inf (neg : Bool)
  | fin (neg : Bool) (m : Nat) (e : Int)
  deriving DecidableEq, Repr

/-- The value of a pattern (R224). -/
def Fmt.val (f : Fmt) (x : Nat) : FVal :=
  let neg := x.testBit (f.eb + f.fb)
  let e := bitsOf x f.fb f.eb
  let m := bitsOf x 0 f.fb
  if e = f.emax then (if m = 0 then .inf neg else .nan (!m.testBit (f.fb - 1)))
  else if e = 0 then .fin neg m (1 - (f.bias : Int) - f.fb)
  else .fin neg (m + 2 ^ f.fb) ((e : Int) - f.bias - f.fb)

/-- The flag bits of Table 8.5. -/
def fInv : Nat := 1
/-- Divide by zero. -/
def fDz : Nat := 2
/-- Overflow. -/
def fOvf : Nat := 4
/-- Underflow. -/
def fUnf : Nat := 8
/-- Inexact. -/
def fInx : Nat := 16
/-- A non-finite group scale. -/
def fNfs : Nat := 32

/-- Rounds the magnitude (m + δ) × 2^e to a multiple of 2^q, δ being in (0, 1) when `sticky` and 0 otherwise: the multiple, and whether it
was exact (Table 8.3). -/
def roundQ (rm : Nat) (neg : Bool) (m : Nat) (e q : Int) (sticky : Bool) : Nat × Bool :=
  if q ≤ e then
    let n := m * 2 ^ (e - q).toNat
    if sticky = false then (n, true)
    else ((if rm = 3 ∧ neg = false ∨ rm = 2 ∧ neg = true then n + 1 else n), false)
  else
    let k := (q - e).toNat
    let n := m / 2 ^ k
    let r := m % 2 ^ k
    let h := 2 ^ (k - 1)
    let exact := r = 0 ∧ sticky = false
    let up : Bool :=
      if exact then false
      else if rm = 0 then decide (r > h) || (decide (r = h) && (sticky || n % 2 == 1))
      else if rm = 1 then false
      else if rm = 2 then neg
      else !neg
    (if up then n + 1 else n, decide exact)

/-- The exponent of the smallest normal number. -/
def Fmt.emin (f : Fmt) : Int := 1 - (f.bias : Int)

/-- An overflowing result (R227): infinity or the largest finite value as the mode selects, or the largest finite under `.sf` (R234). -/
def Fmt.overflow (f : Fmt) (rm : Nat) (neg sf : Bool) : Nat :=
  f.sign neg + (if sf ∨ rm = 1 ∨ rm = 2 ∧ neg = false ∨ rm = 3 ∧ neg = true then f.maxFin else f.inf)

/-- The one rounding of an exact non-zero magnitude (m + δ) × 2^e, m > 0, to a format (R226, R227): the pattern and the flags. -/
def Fmt.round (f : Fmt) (rm : Nat) (sf neg : Bool) (m : Nat) (e : Int) (sticky : Bool) : Nat × Nat :=
  let top := e + Nat.log2 m
  let q0 := f.emin - f.fb
  let q := max (top - f.fb) q0
  let (n, exact) := roundQ rm neg m e q sticky
  let bits := (q - q0).toNat * 2 ^ f.fb + n
  let tiny : Bool :=
    if f.emin ≤ top then false
    else if top < f.emin - 1 then true
    else (roundQ rm neg m e (top - f.fb) sticky).1 < 2 ^ (f.fb + 1)
  if bits ≥ f.inf then (f.overflow rm neg sf, fOvf + fInx)
  else (f.sign neg + bits, (if exact then 0 else fInx) + (if tiny ∧ exact = false then fUnf else 0))

/-- Rounds an exact value with a sign for zero. -/
def Fmt.roundZ (f : Fmt) (rm : Nat) (sf neg : Bool) (m : Nat) (e : Int) : Nat × Nat :=
  if m = 0 then (f.sign neg, 0) else f.round rm sf neg m e false

/-- The signed integer of a finite value at exponent `q` ≤ its own. -/
def finAt (neg : Bool) (m : Nat) (e q : Int) : Int :=
  let x : Int := (m * 2 ^ (e - q).toNat : Nat)
  if neg then -x else x

/-- A NaN among the operands decides the result: the default NaN, invalid for a signalling one (Table 8.4). -/
def nanFlags (xs : List FVal) : Option Nat :=
  if xs.any (fun x => match x with | .nan _ => true | _ => false) then
    some (if xs.any (fun x => match x with | .nan true => true | _ => false) then fInv else 0)
  else none

/-- An exact sum of two finite values, rounded (R227). -/
def Fmt.sumFin (f : Fmt) (rm : Nat) (n1 : Bool) (m1 : Nat) (e1 : Int) (n2 : Bool) (m2 : Nat) (e2 : Int) : Nat × Nat :=
  let q := min e1 e2
  let x := finAt n1 m1 e1 q + finAt n2 m2 e2 q
  if x = 0 then (f.sign (if n1 = n2 then n1 else decide (rm = 2)), 0)
  else f.round rm false (decide (x < 0)) x.natAbs q false

/-- Addition (R227, Table 8.4). -/
def Fmt.add (f : Fmt) (rm : Nat) (a b : Nat) : Nat × Nat :=
  let x := f.val a
  let y := f.val b
  match nanFlags [x, y] with
  | some g => (f.nan, g)
  | none =>
    match x, y with
    | .inf n1, .inf n2 => if n1 = n2 then (f.sign n1 + f.inf, 0) else (f.nan, fInv)
    | .inf n, _ => (f.sign n + f.inf, 0)
    | _, .inf n => (f.sign n + f.inf, 0)
    | .fin n1 m1 e1, .fin n2 m2 e2 => f.sumFin rm n1 m1 e1 n2 m2 e2
    | _, _ => (f.nan, 0)

/-- The pattern with its sign inverted. -/
def Fmt.flip (f : Fmt) (x : Nat) : Nat := x ^^^ 2 ^ (f.eb + f.fb)

/-- Multiplication (R227, Table 8.4). -/
def Fmt.mul (f : Fmt) (rm : Nat) (a b : Nat) : Nat × Nat :=
  let x := f.val a
  let y := f.val b
  match nanFlags [x, y] with
  | some g => (f.nan, g)
  | none =>
    match x, y with
    | .inf n1, .inf n2 => (f.sign (n1 != n2) + f.inf, 0)
    | .inf n1, .fin n2 m _ => if m = 0 then (f.nan, fInv) else (f.sign (n1 != n2) + f.inf, 0)
    | .fin n1 m _, .inf n2 => if m = 0 then (f.nan, fInv) else (f.sign (n1 != n2) + f.inf, 0)
    | .fin n1 m1 e1, .fin n2 m2 e2 => f.roundZ rm false (n1 != n2) (m1 * m2) (e1 + e2)
    | _, _ => (f.nan, 0)

/-- Whether a product is an infinity times a zero. -/
def infTimesZero (x y : FVal) : Bool :=
  match x, y with
  | .inf _, .fin _ 0 _ => true
  | .fin _ 0 _, .inf _ => true
  | _, _ => false

/-- The fused a × b + c, rounded once (R227); ∞ × 0 sets invalid even with a quiet NaN addend (Table 8.4). -/
def Fmt.fma (f : Fmt) (rm : Nat) (a b c : Nat) : Nat × Nat :=
  let x := f.val a
  let y := f.val b
  let z := f.val c
  match nanFlags [x, y, z] with
  | some g => (f.nan, if infTimesZero x y then fInv else g)
  | none =>
    if infTimesZero x y then (f.nan, fInv)
    else
      match x, y, z with
      | .fin n1 m1 e1, .fin n2 m2 e2, .fin n3 m3 e3 => f.sumFin rm (n1 != n2) (m1 * m2) (e1 + e2) n3 m3 e3
      | .fin _ _ _, .fin _ _ _, .inf n => (f.sign n + f.inf, 0)
      | .inf n1, .fin n2 _ _, .inf n3 | .fin n1 _ _, .inf n2, .inf n3 | .inf n1, .inf n2, .inf n3 =>
        if (n1 != n2) = n3 then (f.sign n3 + f.inf, 0) else (f.nan, fInv)
      | .inf n1, .fin n2 _ _, .fin _ _ _ | .fin n1 _ _, .inf n2, .fin _ _ _ | .inf n1, .inf n2, .fin _ _ _ =>
        (f.sign (n1 != n2) + f.inf, 0)
      | _, _, _ => (f.nan, 0)

/-- The order of two values neither of which is a NaN; −0 equals +0 (Table 8.4). -/
def FVal.less : FVal → FVal → Bool
  | .inf true, .inf true => false
  | .inf true, _ => true
  | _, .inf true => false
  | .inf false, _ => false
  | _, .inf false => true
  | .fin n1 m1 e1, .fin n2 m2 e2 => let q := min e1 e2; decide (finAt n1 m1 e1 q < finAt n2 m2 e2 q)
  | _, _ => false

/-- Equality of two values neither of which is a NaN. -/
def FVal.same : FVal → FVal → Bool
  | .inf a, .inf b => a == b
  | .fin n1 m1 e1, .fin n2 m2 e2 => let q := min e1 e2; decide (finAt n1 m1 e1 q = finAt n2 m2 e2 q)
  | _, _ => false

/-- A NaN. -/
def FVal.isNan : FVal → Bool
  | .nan _ => true
  | _ => false

/-- A signalling NaN. -/
def FVal.isSnan : FVal → Bool
  | .nan true => true
  | _ => false

/-- A zero. -/
def FVal.isZero : FVal → Bool
  | .fin _ 0 _ => true
  | _ => false

/-- Minimum or maximum (Table 8.4): −0 is below +0. -/
def Fmt.minMax (f : Fmt) (max : Bool) (a b : Nat) : Nat × Nat :=
  let x := f.val a
  let y := f.val b
  let g := if x.isSnan || y.isSnan then fInv else 0
  if x.isNan && y.isNan then (f.nan, g)
  else if x.isNan then (b, g)
  else if y.isNan then (a, g)
  else if x.isZero && y.isZero then
    (let neg := if max then a.testBit (f.eb + f.fb) && b.testBit (f.eb + f.fb)
                else a.testBit (f.eb + f.fb) || b.testBit (f.eb + f.fb)
     (f.sign neg, 0))
  else if max then (if x.less y then b else a, 0)
  else (if y.less x then b else a, 0)

/-- Rounds a finite value to an integer under a mode: the integer, and whether it was exact (R232). -/
def roundInt (rm : Nat) (neg : Bool) (m : Nat) (e : Int) : Int × Bool :=
  let (n, exact) := roundQ rm neg m e 0 false
  (if neg then -(n : Int) else n, exact)

/-- Clamps to the range of an integer type (R222). -/
def satInt (signed : Bool) (w : Nat) (x : Int) : Int :=
  if signed then max (-(2 ^ (w - 1) : Nat)) (min x ((2 ^ (w - 1) : Nat) - 1)) else max 0 (min x ((2 ^ w : Nat) - 1))

end Sys2Proof.Machine
end

