-- ==== Sys2Proof/Machine/Flags.lean ====
section
/-! DEFINITION. The flag register and the running maximum (R229, R238 to R240), and the flag-free integer results of R222 and R223. -/

namespace Sys2Proof.Machine

/-- ORs flags into fflags when an instruction retires (R229). -/
def Warp.addFlags (x : Warp) (g : Nat) : Warp := { x with fflags := x.fflags ||| word g }

/-- The OR of the flags of the active lanes. -/
def laneFlags (act : Mask) (f : Nat → Nat) : Nat :=
  ((List.range 32).filter (mbit act)).foldl (fun a t => a ||| f t) 0

/-- The OR of the flags of the sub-elements of a lane. -/
def subFlags (w : Nat) (f : Nat → Nat) : Nat := (List.range (64 / w)).foldl (fun a e => a ||| f e) 0

/-- The f32 magnitude bits of a finite value, exact for every format (R239). -/
def magOf (m : Nat) (e : Int) : Nat := if m = 0 then 0 else ((fmtOf 10).round 0 false false m e false).1

/-- amax after one input (R239): NaNs and infinities set their bits and leave mag. -/
def amaxStep (f : Fmt) (x : Nat) (a : Word) : Word :=
  match f.val x with
  | .nan _ => a ||| 0x100000000#64
  | .inf _ => a ||| 0x200000000#64
  | .fin _ m e =>
    if fieldOf a 0 31 < magOf m e then (a &&& ~~~(0x7fffffff#64)) ||| word (magOf m e) else a

/-- amax after the active lanes and sub-elements of a source (R239, R240). -/
def amaxOver (ty : BitVec 4) (act : Mask) (src : Image) (a : Word) : Word :=
  ((List.range 32).filter (mbit act)).foldl (fun a t =>
    (List.range (64 / Ty.width ty)).foldl (fun a e => amaxStep (fmtOf ty) (subEl (Ty.width ty) (lane src t) e) a) a) a

/-- Types 0 to 3 are signed (Table 8.1). -/
def Ty.signed (t : BitVec 4) : Bool := t.toNat < 4

/-- The integer a sub-element denotes in its type (R221). -/
def intVal (ty : BitVec 4) (x : Nat) : Int :=
  if Ty.signed ty then sextN (Ty.width ty) x else (x % 2 ^ Ty.width ty : Nat)

/-- The quotient of R223. -/
def divQ (ty : BitVec 4) (a b : Int) : Int :=
  if b = 0 then (if Ty.signed ty then -1 else (2 ^ Ty.width ty : Nat) - 1) else a.tdiv b

/-- The remainder of R223. -/
def divR (a b : Int) : Int := if b = 0 then a else a.tmod b

end Sys2Proof.Machine
end

