-- ==== Sys2Proof/Machine/IntOps.lean ====
section
/-! DEFINITION. The integer operations on one element of `w` bits (08: R221 to R223; 10: Tables 10.2 to 10.4), shared by the uniform and the
vector instructions, and the shape every element-wise instruction has. An element is a number below 2^w. -/

namespace Sys2Proof.Machine

/-- An exact integer result narrowed to a type. -/
def narrow (ty : BitVec 4) (x : Int) : Nat := toN (Ty.width ty) x

/-- An arithmetic operation of two operands, computed exactly and narrowed (R222). -/
def arith2 (op : Int → Int → Int) (ty : BitVec 4) (a b : Nat) : Nat := narrow ty (op (intVal ty a) (intVal ty b))

/-- Addition. -/
def iAdd : BitVec 4 → Nat → Nat → Nat := arith2 (· + ·)
/-- Subtraction. -/
def iSub : BitVec 4 → Nat → Nat → Nat := arith2 (· - ·)
/-- The low half of the product. -/
def iMul : BitVec 4 → Nat → Nat → Nat := arith2 (· * ·)
/-- The high half of the exact product. -/
def iMulh (ty : BitVec 4) (a b : Nat) : Nat := narrow ty ((intVal ty a * intVal ty b) / (2 ^ Ty.width ty : Nat))
/-- a × b + c. -/
def iMad (ty : BitVec 4) (a b c : Nat) : Nat := narrow ty (intVal ty a * intVal ty b + intVal ty c)
/-- The quotient of R223. -/
def iDiv (ty : BitVec 4) : Nat → Nat → Nat := arith2 (divQ ty) ty
/-- The remainder of R223. -/
def iMod (ty : BitVec 4) : Nat → Nat → Nat := arith2 divR ty
/-- The smaller. -/
def iMin : BitVec 4 → Nat → Nat → Nat := arith2 min
/-- The larger. -/
def iMax : BitVec 4 → Nat → Nat → Nat := arith2 max
/-- The saturating sum. -/
def iAdds (ty : BitVec 4) : Nat → Nat → Nat := arith2 (fun a b => satInt (Ty.signed ty) (Ty.width ty) (a + b)) ty
/-- The saturating difference. -/
def iSubs (ty : BitVec 4) : Nat → Nat → Nat := arith2 (fun a b => satInt (Ty.signed ty) (Ty.width ty) (a - b)) ty
/-- The absolute value; −2^(w−1) stays. -/
def iAbs (ty : BitVec 4) (a : Nat) : Nat := narrow ty ((intVal ty a).natAbs : Int)
/-- The negation. -/
def iNeg (ty : BitVec 4) (a : Nat) : Nat := narrow ty (-(intVal ty a))
/-- Bitwise AND. -/
def iAnd (_ : BitVec 4) (a b : Nat) : Nat := a &&& b
/-- Bitwise OR. -/
def iOr (_ : BitVec 4) (a b : Nat) : Nat := a ||| b
/-- Bitwise exclusive OR. -/
def iXor (_ : BitVec 4) (a b : Nat) : Nat := a ^^^ b
/-- The complement. -/
def iNot (ty : BitVec 4) (a : Nat) : Nat := 2 ^ Ty.width ty - 1 - a
/-- Left shift; 0 when the amount is at least w. -/
def iShl (ty : BitVec 4) (a s : Nat) : Nat := if s ≥ Ty.width ty then 0 else a * 2 ^ s % 2 ^ Ty.width ty
/-- Right shift with zero fill. -/
def iShr (ty : BitVec 4) (a s : Nat) : Nat := if s ≥ Ty.width ty then 0 else a / 2 ^ s
/-- Right shift filled with bit w − 1. -/
def iSar (ty : BitVec 4) (a s : Nat) : Nat := narrow ty (sextN (Ty.width ty) a / (2 ^ min s (Ty.width ty) : Nat))
/-- Left rotation by the amount modulo w. -/
def iRot (ty : BitVec 4) (a s : Nat) : Nat :=
  let w := Ty.width ty
  (a * 2 ^ (s % w) + a / 2 ^ (w - s % w)) % 2 ^ w
/-- Leading zero bits; w for 0. -/
def iClz (ty : BitVec 4) (a : Nat) : Nat := if a = 0 then Ty.width ty else Ty.width ty - 1 - Nat.log2 a
/-- One bits. -/
def iPopc (ty : BitVec 4) (a : Nat) : Nat := ((List.range (Ty.width ty)).filter a.testBit).length
/-- a when c is not 0, else b. -/
def iSel (_ : BitVec 4) (a b c : Nat) : Nat := if c = 0 then b else a
/-- The condition of R292 on two integers. -/
def iCond (cond : Nat) (a b : Int) : Bool :=
  match cond with
  | 0 => a == b
  | 1 => a != b
  | 2 => decide (a < b)
  | 3 => decide (a ≤ b)
  | 4 => decide (a > b)
  | _ => decide (a ≥ b)
/-- The immediate of R291: signed for i types and b64, unsigned for n types. -/
def immVal (ty : BitVec 4) (imm : BitVec 33) : Nat :=
  toN (Ty.width ty) (if Ty.signed ty ∨ ty = 13 then imm.toInt else (imm.toNat : Int))

/-- Element `i` of a list of source values. -/
def arg (xs : List Nat) (i : Nat) : Nat := xs.getD i 0

/-- An operation on one operand, as one on a list. -/
def un (f : BitVec 4 → Nat → Nat) (ty : BitVec 4) (xs : List Nat) : Nat := f ty (arg xs 0)
/-- An operation on two operands, as one on a list. -/
def bin (f : BitVec 4 → Nat → Nat → Nat) (ty : BitVec 4) (xs : List Nat) : Nat := f ty (arg xs 0) (arg xs 1)
/-- An operation on three operands, as one on a list. -/
def tern (f : BitVec 4 → Nat → Nat → Nat → Nat) (ty : BitVec 4) (xs : List Nat) : Nat := f ty (arg xs 0) (arg xs 1) (arg xs 2)

/-! ## The shape of element-wise instructions -/

/-- The fields that every element-wise word has. -/
structure Elem where
  ty  : BitVec 4
  d   : Fld
  us  : List SrcUse
  cc  : BitVec 2
  g   : Guard
  uni : Bool
  deriving DecidableEq, Repr

/-- The fields of a one-source word; `flt` marks a floating-point read (R194). -/
def elem1 (f : Alu1) (flt : Bool) : Elem := { ty := f.ty, d := f.d, us := [⟨f.a, flt⟩], cc := f.cc, g := f.g, uni := f.uni }
/-- The fields of a two-source word. -/
def elem2 (f : Alu2) (flt : Bool) : Elem :=
  { ty := f.ty, d := f.d, us := [⟨f.a, flt⟩, ⟨f.b, flt⟩], cc := f.cc, g := f.g, uni := f.uni }
/-- The fields of a three-source word. -/
def elem3 (f : Alu3) (flt : Bool) : Elem :=
  { ty := f.ty, d := f.d, us := [⟨f.a, flt⟩, ⟨f.b, flt⟩, ⟨f.c, flt⟩], cc := f.cc, g := f.g, uni := f.uni }
/-- The fields of an immediate word. -/
def elemI (f : AluImm) : Elem := { ty := f.ty, d := f.d, us := [], cc := f.cc, g := f.g, uni := f.uni }

/-- Check 4 on the consumer count, the interlocks, the operand checks: what every vector word meets before its effect (R196, R213, R264).
The destination and the source images. -/
def State.vecStart (s : State) (c : Ctx) (d : Fld) (cc : BitVec 2) (g : Guard) (us : List SrcUse) (okK okP okV : Bool) :
    Except Stop Dst :=
  if ccOk c.w.access cc d = false then .error (trapOf .reservedOpcode)
  else if (us.any fun u => s.fieldBusy c u.fld) || s.fieldBusy c d then .error (.stall (.fields (d.toNat :: us.map (·.fld.toNat))))
  else checkOperands c (c.x.active g) (dstCheck c okK okP okV d) us

/-- Source values of one lane. -/
def laneArgs (xs : List Image) (t : Nat) : List Word := xs.map fun x => lane x t

/-- Applies a function to each sub-element of the source lanes: the result lane. -/
def onSubs (ty : BitVec 4) (f : List Nat → Nat) (xs : List Word) : Word :=
  let w := Ty.width ty
  ofSubs w fun e => f (xs.map fun x => subEl w x e)

/-- The end of a vector instruction: reads counted, entries popped, active lanes written, flags set (R195, R202, R229, R262). -/
def State.vecEnd (s : State) (c : Ctx) (us : List SrcUse) (dst : Dst) (act : Mask) (x : Image) (cc : BitVec 2) (flags : Nat) :
    Except Stop State :=
  match (c.afterReads us).writeDst dst act x cc with
  | .error e => .error e
  | .ok c => .ok (s.retireCtx { c with x := c.x.addFlags flags })

/-- An element-wise instruction whose lanes are computed by `f`, which also answers the flags of the lane: in its uniform form once on
one packed lane of k registers (R263), else in every active lane (R293). -/
def State.elementwise (s : State) (e : Elem) (f : List Word → Word × Nat) : Host.Outcome State Fault Refusal :=
  s.asWarp fun c =>
    if e.uni then
      if e.cc ≠ 0 ∧ ccOk c.w.access e.cc e.d = false then .error (trapOf .reservedOpcode)
      else
        match checkUniform e.d (e.us.map (·.fld)) with
        | .error q => .error q
        | .ok () =>
          if c.x.cond e.g = false then .ok (s.retireWarp c.w c.x)
          else
            let r := f (e.us.map fun u => uniVal c e.ty u.fld)
            .ok (s.retireWarp c.w ((c.x.writeK e.d r.1).addFlags r.2))
    else
      match s.vecStart c e.d e.cc e.g e.us false false true with
      | .error q => .error q
      | .ok dst =>
        let xs := srcVals c e.ty e.us
        let act := c.x.active e.g
        s.vecEnd c e.us dst act (ofLanes fun t => (f (laneArgs xs t)).1) e.cc (laneFlags act fun t => (f (laneArgs xs t)).2)

/-- An element-wise instruction on sub-elements that sets no flag. -/
def State.intOp (s : State) (e : Elem) (f : BitVec 4 → List Nat → Nat) : Host.Outcome State Fault Refusal :=
  s.elementwise e fun xs => (onSubs e.ty (f e.ty) xs, 0)

/-- A comparison (R292, R294): to a predicate, the lanes whose sub-elements all hold, or with `.any` one of them; else all ones or all
zeros in each sub-element. `f` answers whether the condition holds and the flags. -/
def State.compare (s : State) (e : Elem) (any : Bool) (f : List Nat → Bool × Nat) : Host.Outcome State Fault Refusal :=
  let w := Ty.width e.ty
  let ones : Nat := 2 ^ w - 1
  let subs (xs : List Word) (i : Nat) : Bool × Nat := f (xs.map fun x => subEl w x i)
  let lanes (xs : List Word) : Word × Nat := (onSubs e.ty (fun l => if (f l).1 then ones else 0) xs, subFlags w fun i => (subs xs i).2)
  if e.uni then s.elementwise e lanes
  else
    s.asWarp fun c =>
      match s.vecStart c e.d e.cc e.g e.us false true true with
      | .error q => .error q
      | .ok dst =>
        let xs := srcVals c e.ty e.us
        let act := c.x.active e.g
        let flags := laneFlags act fun t => (lanes (laneArgs xs t)).2
        match dst with
        | .p n =>
          let bits := maskOf fun t =>
            if any then (List.range (64 / w)).any fun i => (subs (laneArgs xs t) i).1
            else (List.range (64 / w)).all fun i => (subs (laneArgs xs t) i).1
          let c := c.afterReads e.us
          .ok (s.retireCtx { c with x := (c.x.writePred n act bits).addFlags flags })
        | _ => s.vecEnd c e.us dst act (ofLanes fun t => (lanes (laneArgs xs t)).1) e.cc flags

end Sys2Proof.Machine
end

