-- ==== Sys2Proof/Machine/Shared.lean ====
section
/-! DEFINITION. Shared memory of a block (05: R124, R125). -/

namespace Sys2Proof.Machine

/-- The core index of a shared address. -/
def sharedIdx (a : Nat) : Nat := bitsOf a 21 2

/-- The byte offset of a shared address in its region. -/
def sharedOff (a : Nat) : Nat := bitsOf a 0 21

/-- Whether `n` bytes at a shared address are in range (R125). -/
def Block.inShared (b : Block) (a n : Nat) : Bool :=
  a < 2 ^ 23 && sharedIdx a < b.cores.length && sharedOff a + n ≤ b.shm * 1024

/-- The first byte out of range of an access at a shared address: its first one, or the one that follows its region (R125, Table 7.11). -/
def Block.firstOut (b : Block) (a : Nat) : Nat :=
  if a < 2 ^ 23 ∧ sharedIdx a < b.cores.length then a + (b.shm * 1024 - sharedOff a) else a

/-- The region of a core of the block. -/
def Block.region (b : Block) (i : Nat) : Ram := b.shared.getD i Ram.zero

/-- `n` bytes of shared memory. -/
def Block.sharedBytes (b : Block) (a n : Nat) : List Byte := (b.region (sharedIdx a)).bytes (sharedOff a) n

/-- The little-endian number of `n` bytes of shared memory. -/
def Block.sharedNum (b : Block) (a n : Nat) : Nat := leNat (b.sharedBytes a n)

/-- A byte of the access lies in a poisoned sector. -/
def Block.sharedPoison (b : Block) (a n : Nat) : Bool :=
  (List.range n).any fun i => (b.region (sharedIdx a)).poisonedAt (sharedOff a + i)

/-- A store of bytes at a shared address; `bad` marks poisoned data. -/
def Block.sharedStore (b : Block) (a : Nat) (data : List Byte) (bad : Bool) : Block :=
  let i := sharedIdx a
  { b with shared := b.shared.set i ((b.region i).store (cellsAt (sharedOff a) data) (fun _ => bad)) }

/-- The block of the current team; an empty one when it has none. -/
def State.blockOf (s : State) (c : Ctx) : Block :=
  (s.block? c.t.block).getD { id := 0, task := 0, index := 0, cores := [], shm := 0, shared := [], groups := [], seq := 0 }

end Sys2Proof.Machine
end

