-- ==== Sys2Proof/Machine/MemPath.lean ====
section
/-! DEFINITION. The path to memory (05, 06): L1 caches (R126), requests to the home slices (R128, R129, R137), the aperture (R51 to R53), loads
in progress, stores with their acknowledgements, what an acquire and a release do to the L1 (R166), the slice ALU's operations (R134). -/

namespace Sys2Proof.Machine

/-! ## Requests -/

/-- The sectors of cells. -/
def cellSectors (bs : List Host.Cell) : List Nat := (bs.map fun b => b.1 / 16).eraseDups

/-- The cores whose request it is. -/
def SliceReq.cores : SliceReq → BitVec 64
  | .load mask _ _ _ => mask
  | .store c _ _ _ _ | .elem c _ _ | .atomic c _ _ | .reduce c _ _ | .clean c _ _ => coreBit c
  | .gather g => coreBit g.core

/-- The sectors that a request touches. -/
def SliceReq.sectors : SliceReq → List Nat
  | .load _ line secs _ => (List.range 8).filterMap fun i => if secs.getLsbD i then some (line / 16 + i) else none
  | .store _ _ parts _ _ => cellSectors parts.flatten
  | .elem _ _ need => (need.map fun n => n.pa / 16).eraseDups
  | .atomic _ _ es | .reduce _ _ es => es.map fun e => e.pa / 16
  | .gather g => (g.idx.map (· / 16)).eraseDups
  | .clean _ _ line => tab 8 (line / 16 + ·)

/-- The token of a request. -/
def SliceReq.tok : SliceReq → Nat
  | .load _ _ _ t => t
  | .store _ t _ _ _ | .elem _ t _ | .reduce _ t _ | .clean _ t _ => t
  | .atomic _ d _ => match d with | .warp _ t | .reg _ t | .discard _ t => t
  | .gather g => g.tok

/-- A request stays behind an earlier one of its core to a common sector; a gather, whose elements are not known yet, behind every one of its core (R136, R165). -/
def SliceReq.follows (r q : SliceReq) : Bool :=
  r.cores &&& q.cores != 0 && (match r with | .gather _ => true | _ => r.sectors.any q.sectors.contains)

/-- The tokens of paths of the running warp that its present path is not ordered with (R162). -/
def Warp.unordered (x : Warp) (tok : Nat) : Bool := x.others.any fun o => o.1 ≤ tok && tok < o.2.1

/-- The same for the agent of the turn. -/
def State.unordered (s : State) (tok : Nat) : Bool :=
  match s.cur with
  | some (.warp w) => ((s.warp? w).map (·.unordered tok)).getD false
  | _ => false

/-- Sends a request to the home slice of a line. It arrives at a place that nothing constrains among those sent before it and not yet served, but behind those that it follows
(R129, R137, R165, R167; a free value, log entry 21); its flits are counted (Tables 5.5 and 5.13). -/
def State.sendReq (s : State) (line flits : Nat) (r : SliceReq) : State :=
  let n := sliceOf line
  let q := (s.slice n).queue
  let lo := q.zipIdx.foldl (fun m x => if r.follows x.1 && !s.unordered x.1.tok then x.2 + 1 else m) 0
  let (i, s) := if q.length ≤ lo then (lo, s) else let (k, s) := s.takeFree; (lo + k % (q.length - lo + 1), s)
  let s := s.modSlice n fun x => { x with queue := x.queue.take i ++ r :: x.queue.drop i }
  s.countReq n flits

/-- A core knows of a state of sectors of a line newer than those of the replies on their way to it: its L1 takes those sectors from none of them (R165; log entry 28). -/
def Core.skipSectors (c : Core) (line : Nat) (secs : BitVec 8) : Core :=
  { c with arriving := c.arriving.map fun (a : Arrival) => if a.r.line = line then { a with skip := a.skip ||| secs } else a }

/-- Bytes that a core has stored stand over those of the replies on their way to it (R165). -/
def Core.overlay (c : Core) (line : Nat) (bs : List (Host.Cell × Bool)) : Core :=
  { c with arriving := c.arriving.map fun (a : Arrival) => if a.r.line = line then { a with stored := a.stored ++ bs } else a }

/-- Sends a store of bytes of one line to its home slice, in parts that become visible one by one, with the poison of its data; `whole` marks the sectors that it writes whole. The acknowledgement is
awaited (R126, R129, R158, R166). -/
def State.sendStore (s : State) (core : Nat) (w : Option WarpId) (line : Nat) (parts : List (List Host.Cell)) (poison whole : BitVec 8) : State :=
  let parts := parts.filter fun p => !p.isEmpty
  if parts.isEmpty then s
  else
    let (tok, s) := s.takeTok
    let s := s.sendReq line (flitsOf parts.flatten.length) (.store core tok parts poison whole)
    s.modCore core fun c => { c.overlay line (parts.flatten.map fun b => (b, poison.getLsbD (b.1 % 128 / 16))) with
      unacked := c.unacked ++ [{ tok := tok, w := w, done := false, remote := false }] }

/-! ## Write-back and invalidation (R126, R166) -/

/-- Writes back the written bytes of the chosen sectors of a line, each sector's together (log entry 76): the sectors stay valid and become clean. -/
def State.writeBackLine (s : State) (core : Nat) (sel : Nat → Bool) (l : L1Line) : State :=
  let part (i : Nat) : List Host.Cell :=
    if sel i then (List.range 16).filterMap fun j => if l.dirty.getLsbD (16 * i + j) then some (l.pa + 16 * i + j, l.byte (16 * i + j)) else none else []
  let parts := tab 8 part
  if parts.all (·.isEmpty) then s
  else
    let s := s.sendStore core none l.pa parts (l.poison &&& sectorMask sel) (sectorMask fun i => l.dirtyIn i == 0xffff)
    let keep : BitVec 128 := BitVec.ofNat 128 (packNat 16 (fun i => if sel i then 0 else 0xffff) 8)
    s.modCore core fun c => c.putLine { c.line l.pa with dirty := (c.line l.pa).dirty &&& keep }

/-- Writes back every dirty sector of a core (R166). -/
def State.writeBackAll (s : State) (core : Nat) : State :=
  (s.core core).l1.foldl (fun s l => s.writeBackLine core (fun _ => true) l) s

/-- Invalidates the chosen sectors of a line, which hold nothing written. -/
def Core.dropSectors (c : Core) (sel : Nat → Bool) (l : L1Line) : Core :=
  c.putLine { l with valid := l.valid &&& ~~~(sectorMask sel) }

/-- Writes back and invalidates the chosen sectors of a line. -/
def State.flushLine (s : State) (core : Nat) (line : Nat) (sel : Nat → Bool) : State :=
  let s := s.writeBackLine core sel ((s.core core).line line)
  s.modCore core fun c => c.dropSectors sel (c.line line)

/-- Invalidates a core's clean sectors (R166), which no reply on its way to the core installs again. A sector with some but not all of its bytes written is written back first, since its
other bytes are clean (log entry 20). -/
def State.invalidateClean (s : State) (core : Nat) : State :=
  let s := (s.core core).l1.foldl (fun s l => s.flushLine core l.pa fun i => l.dirtyIn i != 0xffff) s
  s.modCore core fun c => { c with arriving := c.arriving.map fun (a : Arrival) => { a with skip := 0xff } }

/-- A core's own copies of the sectors of addresses are written back and invalidated, and no reply on its way installs them again, before an operation on them at their home slice. -/
def State.flushPas (s : State) (core : Nat) (pas : List Nat) : State :=
  (linesOf pas).foldl (fun s ln =>
    (s.flushLine core ln fun i => (sectorsOf pas ln).getLsbD i).modCore core fun c => c.skipSectors ln (sectorsOf pas ln)) s

/-- A core's clean copies of the sectors of addresses, read anew at their home slice, go, and no reply on its way installs them again (R165). -/
def State.dropClean (s : State) (core : Nat) (pas : List Nat) : State :=
  (linesOf pas).foldl (fun s ln => s.modCore core fun c =>
    (c.dropSectors (fun i => (sectorsOf pas ln).getLsbD i && (c.line ln).dirtyIn i == 0) (c.line ln)).skipSectors ln (sectorsOf pas ln)) s

/-! ## Lines of an L1 and their ways (R120, R126) -/

/-- A line stands in its L1: in the way that it has, else in a free cache way of its set, else in the way of a victim that nothing constrains, which is evicted first (R126; a
free value, log entry 24). -/
def State.putL1 (s : State) (core : Nat) (l : L1Line) : State :=
  if l.valid = 0 ∨ l.way < 16 then s.modCore core fun c => c.putLine l
  else
    let mine := (s.core core).l1.filter fun x => l1Set x.pa == l1Set l.pa
    let n := s.cacheWays core
    match (List.range n).find? fun w => !mine.any (·.way == w) with
    | some w => s.modCore core fun c => c.putLine { l with way := w }
    | none =>
      let (k, s) := s.takeFree
      let s := match mine.find? (·.way == k % n) with | some v => s.flushLine core v.pa fun _ => true | none => s
      s.modCore core fun c => c.putLine { l with way := k % n }

/-- The cache ways that have become shared ways are written back and invalidated (R127). -/
def State.fitL1 (s : State) (core : Nat) : State :=
  ((s.core core).l1.filter fun l => s.cacheWays core ≤ l.way).foldl (fun s l => s.flushLine core l.pa fun _ => true) s

/-! ## Loads -/

/-- Takes the bytes of a load that a source has: the byte, with a cause when it failed. -/
def PendLoad.take (l : PendLoad) (f : Nat → Option (Byte × Option Cause)) : PendLoad :=
  let got := l.need.filterMap fun n => (f n.pa).map fun b => (n.pos, b)
  { l with
    need := l.need.filter fun n => (f n.pa).isNone
    data := got.foldl (fun d g => d ||| BitVec.ofNat 2048 (g.2.1.toNat <<< (8 * g.1))) l.data
    bad := l.bad ++ got.filterMap fun g => g.2.2.map fun c => (g.1, c) }

/-- A load reads a byte from the L1 when its sector is valid there (R126). -/
def Core.l1Hit (c : Core) (pa : Nat) : Bool := (c.line (lineOf pa)).valid.getLsbD (pa % 128 / 16)

/-- A byte of an L1 with its poison as a cause (R123). -/
def L1Line.read (l : L1Line) (pa : Nat) : Byte × Option Cause :=
  (l.byte pa, if l.poison.getLsbD (pa % 128 / 16) then some .uncorrectable else none)

/-- The runs of at most 256 bytes within a 4 KiB host page that cover rising addresses: first address and length (R50, R52; log entry 121). -/
def spans : List Nat → List (Nat × Nat)
  | [] => []
  | p :: r =>
    match spans r with
    | [] => [(p, 1)]
    | (a, n) :: t => if a + n ≤ p + 256 ∧ p / 4096 = a / 4096 then (p, a + n - p) :: t else (p, 1) :: (a, n) :: t

/-- Bytes of a load that slices read for it, or the L1 has not: requests to the home slices, reads of the host (R52, R129, R136). -/
def State.askMissing (s : State) (core : Nat) (l : PendLoad) (need : List NeedByte) : State :=
  let miss := need.map (·.pa)
  let s := (linesOf (miss.filter isHbm)).foldl (fun s ln =>
    s.sendReq ln 1 (if l.atSlice then .elem core l.tok (need.filter fun n => lineOf n.pa == ln) else .load (coreBit core) ln (sectorsOf miss ln) l.tok)) s
  (spans ((miss.filter isAperture).foldr insertNat [])).foldl (fun s x => s.apRead x.1 x.2 (.load core l.tok)) s

/-- What a load finds at once: the bytes that the L1 holds, unless slices make the load; a failure for host bytes while the aperture is off (R126, R53). -/
def State.ready? (s : State) (core : Nat) (l : PendLoad) (pa : Nat) : Option (Byte × Option Cause) :=
  if isHbm pa then (if !l.atSlice && (s.core core).l1Hit pa then some (((s.core core).line (lineOf pa)).read pa) else none)
  else if s.links.apEn then none else some (0, some .hostAccess)

/-- A load in progress begins: the bytes that the L1 holds are taken, the missing sectors are requested, host bytes are read over the link (R126,
R52, R53). -/
def State.startLoad (s : State) (core : Nat) (l : PendLoad) : State :=
  let l := l.take (s.ready? core l)
  let s := s.modCore core fun c => { c with loads := c.loads ++ [l] }
  s.askMissing core l l.need

/-- The lanes of a load are unordered, and a line may leave the L1 between the reads of two of them (R126, R158): of the lanes that find bytes in the L1, those that a free number names
read them first; then lines that it names, of those that the others would read, leave (log entry 137). -/
def State.lanesFirst (s : State) (core : Nat) (l : PendLoad) : State × PendLoad :=
  let here (n : NeedByte) : Bool := isHbm n.pa && (s.core core).l1Hit n.pa
  let hits := l.need.filter here
  if hits.all (fun n => n.pos / 8 == (hits.headD { pos := 0, pa := 0 }).pos / 8) then (s, l)
  else
    let (k, t) := s.takeFree
    let first (n : NeedByte) : Bool := here n && k.testBit (n.pos / 8)
    let gone := (linesOf ((hits.filter fun n => !first n).map (·.pa))).zipIdx.filter fun x => k.testBit (32 + x.2)
    (gone.foldl (fun s x => s.flushLine core x.1 fun _ => true) t, { ({ l with need := hits.filter first }).take (s.ready? core l) with need := l.need.filter fun n => !first n })

/-- A load of a core by its token. -/
def Core.load? (c : Core) (tok : Nat) : Option PendLoad := c.loads.find? (·.tok == tok)

/-- A load leaves a core. -/
def Core.dropLoad (c : Core) (tok : Nat) : Core := { c with loads := c.loads.filter (·.tok != tok) }

/-- Every byte has arrived and no access is still to be made; one that waits for the others' faults is made no more once another has failed. -/
def PendLoad.performed (l : PendLoad) : Bool := l.need.isEmpty && l.faulted.isEmpty && l.gather.isNone && (l.later.isEmpty || !l.bad.isEmpty)

/-- A loaded value extended to 64 bits (R349). -/
def extWord (ty : BitVec 4) (x : Word) : Word :=
  if Ty.signed ty then word (toN 64 (sextN (Ty.width ty) x.toNat)) else word (bitsOf x.toNat 0 (Ty.width ty))

/-- The image that a load writes. -/
def PendLoad.image (l : PendLoad) : Image :=
  match l.ty with
  | none => l.data
  | some t => ofLanes fun i => extWord t (lane l.data i)

/-- The first byte position that failed, with its cause. -/
def firstBad (bs : List (Nat × Cause)) : Option (Nat × Cause) :=
  match bs with
  | [] => none
  | b :: r => some (r.foldl (fun m x => if x.1 < m.1 then x else m) b)

/-- The trap of a load into a register some of whose bytes failed (R215, R352): the lowest failing lane, and every lane that fails with its cause. -/
def PendLoad.trapReq (l : PendLoad) : Option TrapReq :=
  (firstBad l.bad).map fun b =>
    let va := match l.accs.find? (fun a => a.pos ≤ b.1 && b.1 < a.pos + a.size) with
      | some a => a.va + (b.1 - a.pos)
      | none => 0
    { cause := b.2, va := va, lanes := maskOf fun t => l.bad.any fun x => x.1 / 8 == t && x.2 == b.2 }

/-- The entry that a load into a queue leaves (R123, R199). -/
def PendLoad.entry (l : PendLoad) : Entry :=
  match firstBad l.bad with
  | none => Entry.ready l.image
  | some b => { st := .poisoned b.2, data := 0, psec := 0 }

/-! ## Stores -/

/-- A byte to be stored: its lane, its address, its value, whether its data is poisoned (R122). -/
structure StoreByte where
  lane : Nat
  pa  : Nat
  val : Byte
  bad : Bool
  deriving DecidableEq, Repr

/-- Of several writes of one byte the last stands (R158). -/
def lastWrites : List StoreByte → List StoreByte
  | [] => []
  | b :: r => if r.any (fun x => x.pa == b.pa) then lastWrites r else b :: lastWrites r

/-- Whether a core's L1 takes the store of a sector: the sector is written whole, or is present (R126). -/
def State.l1Takes (s : State) (core : Nat) (bs : List StoreByte) (sec : Nat) : Bool :=
  decide ((bs.filter fun b => b.pa / 16 == sec).length = 16) || ((s.core core).line (lineOf (16 * sec))).valid.getLsbD (sec % 8)

/-- A line after a store to one of its sectors: the bytes written, the poison as R122 and R123 say, the sector valid. -/
def L1Line.store (l : L1Line) (bs : List StoreByte) (i : Nat) (now : BitVec 64) : L1Line :=
  let whole := bs.length = 16
  let bad := bs.any (·.bad) || (!whole && l.poison.getLsbD i)
  let bit : BitVec 8 := 1#8 <<< i
  { l with
    valid := l.valid ||| bit
    dirty := bs.foldl (fun d b => d ||| (1#128 <<< (b.pa % 128))) l.dirty
    poison := if bad then l.poison ||| bit else l.poison &&& ~~~bit
    data := bs.foldl (fun d b => setLineByte d (b.pa % 128) b.val) l.data
    dirtyAt := if l.dirty = 0 then now else l.dirtyAt }

/-- The bytes of a store as parts that are atomic on their own: those of one lane in one sector (R158, R159). -/
def storeParts (bs : List StoreByte) : List (List Host.Cell) :=
  ((bs.map fun b => (b.lane, b.pa / 16)).eraseDups).map fun k => (bs.filter fun b => b.lane == k.1 && b.pa / 16 == k.2).map fun b => (b.pa, b.val)

/-- The sectors of a line that bytes write whole. -/
def wholeSectors (bs : List StoreByte) (line : Nat) : BitVec 8 := sectorMask fun i => (bs.filter fun b => b.pa / 16 == line / 16 + i).length == 16

/-- Stores bytes of one line: sector by sector into the L1, the rest to the home slice (R126). -/
def State.storeLine (s : State) (core : Nat) (w : WarpId) (bs : List StoreByte) (line : Nat) : State :=
  let mine := bs.filter fun b => lineOf b.pa == line
  let secs := (List.range 8).filter fun i => mine.any fun b => b.pa / 16 == line / 16 + i
  let here := secs.filter fun i => s.l1Takes core mine (line / 16 + i)
  let l := here.foldl (fun l i => l.store (mine.filter fun b => b.pa / 16 == line / 16 + i) i (s.memCount core)) ((s.core core).line line)
  let s := if here.isEmpty then s else s.putL1 core l
  let away := mine.filter fun b => !(here.contains (b.pa % 128 / 16))
  s.sendStore core (some w) line (storeParts away) (sectorMask fun i => away.any fun b => b.pa % 128 / 16 == i && b.bad) (wholeSectors away line)

/-- Performs the stores of an instruction: lines of HBM, and posted writes to the host aperture by rising address (R51 to R53, R126). -/
def State.storeBytes (s : State) (core : Nat) (w : WarpId) (bs : List StoreByte) : State :=
  let bs := lastWrites bs
  let s := (linesOf ((bs.filter fun b => isHbm b.pa).map (·.pa))).foldl (fun s ln => s.storeLine core w bs ln) s
  let ap := bs.filter fun b => isAperture b.pa
  s.apWrites (.warp w) ((((ap.map (·.pa)).foldr insertNat []).filterMap fun pa => ap.find? (·.pa == pa)).map fun b => (b.pa, b.val))

/-- What the L1 took of a store to a line goes on to its home slice at once, and the L1 keeps it clean (R168). -/
def State.sendOn (s : State) (core : Nat) (w : WarpId) (bs : List StoreByte) (line : Nat) : State :=
  let mine := bs.filter fun b => lineOf b.pa == line && ((s.core core).line line).dirty.getLsbD (b.pa % 128)
  if mine.isEmpty then s
  else
    let s := s.sendStore core (some w) line (storeParts mine) (sectorMask fun i => mine.any fun b => b.pa % 128 / 16 == i && b.bad) (wholeSectors mine line)
    s.modCore core fun c => c.putLine { c.line line with dirty := mine.foldl (fun d b => d &&& ~~~(1#128 <<< (b.pa % 128))) (c.line line).dirty }

/-- Performs the stores of a release at chip scope or wider, which nothing holds back (R168). -/
def State.storeHomeward (s : State) (core : Nat) (w : WarpId) (bs : List StoreByte) : State :=
  let hb := (lastWrites bs).filter fun b => isHbm b.pa
  (linesOf (hb.map (·.pa))).foldl (fun s ln => s.sendOn core w hb ln) (s.storeBytes core w bs)

/-! ## The slice ALU (R134) -/

/-- The new value of an element under an operation of Table 5.4 and Table of R354: add, min, max, and, or, xor, swap, cas. -/
def atomOp (ty : BitVec 4) (op : BitVec 3) (m x e : Nat) : Nat :=
  match op.toNat with
  | 0 => if Ty.float ty then ((fmtOf ty).add 0 m x).1 else iAdd ty m x
  | 1 => if Ty.float ty then ((fmtOf ty).minMax false m x).1 else iMin ty m x
  | 2 => if Ty.float ty then ((fmtOf ty).minMax true m x).1 else iMax ty m x
  | 3 => m &&& x
  | 4 => m ||| x
  | 5 => m ^^^ x
  | 6 => x
  | _ => if m = e then x else m

/-- One read-modify-write in a memory image: the image and the old value, or none when it touches a poisoned sector (R123, R134). -/
def Ram.rmw (r : Ram) (a : AtomElem) : Option (Ram × Nat) :=
  let w := Ty.width a.ty
  if r.poisonedAt a.pa then none
  else
    let m := r.num a.pa (w / 8)
    some (r.store (cellsAt a.pa (leBytes (w / 8) (atomOp a.ty a.op m (bitsOf a.x.toNat 0 w) (bitsOf a.e.toNat 0 w)))) (fun _ => false), m)

/-- The permutation of a list that a number selects: every order of the list is one. -/
def permBy {α : Type} : Nat → Nat → List α → List α
  | 0, _, l => l
  | k + 1, n, l =>
    match l[n % l.length]? with
    | none => l
    | some x => x :: permBy k (n / l.length) (l.eraseIdx (n % l.length))

/-- The lanes in an order that nothing constrains (R158), a free value (log entry 2). -/
def State.freeOrder {α : Type} (s : State) (l : List α) : List α × State :=
  let (n, s) := s.takeFree
  (permBy l.length n l, s)

/-! ## What holds a warp's memory instructions -/

/-- Whether the block of a team occupies more than one core (R114, R166). -/
def State.spansCores (s : State) (c : Ctx) : Bool := s.hm.teams.any fun t => t.block == c.t.block && t.onCore && t.core != c.t.core

/-- Whether a scope reaches beyond the core (R166, R353): chip, domain, or block when the block spans cores. -/
def State.wide (s : State) (c : Ctx) (scope : BitVec 2) : Bool := 2 ≤ scope.toNat || (scope == 1 && s.spansCores c)

/-- A load that an `ldacq` or a fence of the warp's path waits for is still to be performed (R162). -/
def State.heldBy (s : State) (core : Nat) (x : Warp) : Bool := x.holdLd.any fun t => !x.unordered t && ((s.core core).load? t).isSome

/-- Slices still read for a gather of the warp's path, none of whose accesses waits on a fault (R136, R162). -/
def State.gathering (s : State) (core : Nat) (w : WarpId) (x : Warp) : Bool :=
  (s.core core).loads.any fun l => l.w == w && !x.unordered l.tok && l.atSlice && l.faulted.isEmpty && !l.performed

/-- What an `ldacq` or a fence of the path holds is held until it has been performed; then the core's clean L1 sectors are invalidated and the warp goes on (R353). What follows a `gatl2` waits until its elements, whose
addresses only the slices know, have been read, so that no access of the warp to one of them comes before that read (R165; log entry 117). -/
def State.passHold (s : State) (c : Ctx) : Except Stop State :=
  if s.gathering c.t.core c.w c.x then .error (.stall .gathers)
  else if c.x.holdLd.all c.x.unordered then .ok s
  else if s.heldBy c.t.core c.x then .error (.stall .held)
  else .ok ((s.invalidateClean c.t.core).modWarp c.w fun x => { x with holdLd := x.holdLd.filter c.x.unordered })

/-- A memory instruction, or one that an `ldacq` holds: its meaning once nothing holds it. -/
def State.asMemory (s : State) (f : State → Ctx → Except Stop State) : Host.Outcome State Fault Refusal :=
  s.asWarp fun c =>
    match s.passHold c with
    | .error e => .error e
    | .ok s => f s (s.again c)

/-- A stage of an instruction that may end it for now. -/
inductive Gate where
  | go (s : State)
  | stay (s : State)
  deriving DecidableEq, Repr

/-- Loads of the warp's path that have not been performed (R162). -/
def State.loadsOut (s : State) (core : Nat) (w : WarpId) (x : Warp) : Bool := (s.core core).loads.any fun l => l.w == w && !x.unordered l.tok

/-- The waits of a release (R166, R353, R361): the warp's loads; at a wide scope, every store of the core and the write-back of its dirty sectors, with remote
accesses at domain scope, and the warp's aperture stores on the link (R177); under `.sc` the warp's own stores at any scope. -/
def State.releaseGate (s : State) (c : Ctx) (scope : BitVec 2) (sc : Bool) : Except Stop Gate :=
  if s.loadsOut c.t.core c.w c.x then .error (.stall .loads)
  else if s.wide c scope then
    if c.x.begun = some .released then
      if c.x.holdSt.isEmpty ∧ s.links.apWrites.isEmpty = true then .ok (.go s) else .error (.stall (.acks true))
    else
      let s := s.writeBackAll c.t.core
      let toks := ((s.core c.t.core).unacked.filter fun u => (!u.remote || scope == 3) && !(u.w == some c.w && c.x.unordered u.tok)).map (·.tok)
      if toks.isEmpty ∧ s.links.apWrites.isEmpty = true then .ok (.go s)
      else .ok (.stay (s.modWarp c.w fun x => { x with begun := some .released, holdSt := toks, stall := some (.acks true) }))
  else
    let toks := if sc then ((s.core c.t.core).unacked.filter fun u => u.w == some c.w && !c.x.unordered u.tok).map (·.tok) else []
    if c.x.begun = some .released then (if c.x.holdSt.isEmpty then .ok (.go s) else .error (.stall (.acks false)))
    else if toks.isEmpty then .ok (.go s)
    else .ok (.stay (s.modWarp c.w fun x => { x with begun := some .released, holdSt := toks, stall := some (.acks false) }))

/-! ## Lanes' accesses -/

/-- A lane's access after its checks: its addresses, or why it has none. -/
structure LaneChk where
  lane : Nat
  va   : Nat
  size : Nat
  dom  : Bool
  res  : Except AccFail (List Nat)

/-- The active lanes in rising order. -/
def lanesOf (m : Mask) : List Nat := (List.range 32).filter (mbit m)

/-- The trap of the lowest failing lane, with every lane that fails with its cause (R215, R352). -/
def chkFail (rs : List LaneChk) : Option TrapReq :=
  let bad := rs.filterMap fun r => match r.res with | .error (.cause k va) => some (r.lane, k, va) | _ => none
  match bad with
  | [] => none
  | (_, k, va) :: _ => some { cause := k, va := va, lanes := maskOf fun t => bad.any fun b => b.1 == t && b.2.1 == k }

/-- The pages and kinds of the demand faults of the lanes. -/
def chkFaults (rs : List LaneChk) : List (Page × Nat) :=
  (rs.filterMap fun r => match r.res with | .error (.fault p k) => some (p, k) | _ => none).eraseDups

/-- The lanes that meet a demand fault. -/
def chkFaulted (rs : List LaneChk) : List LaneChk := rs.filter fun r => match r.res with | .error (.fault _ _) => true | _ => false

/-- The lanes whose accesses pass, with their addresses. -/
def chkPas (rs : List LaneChk) : List (LaneChk × List Nat) :=
  rs.filterMap fun r => match r.res with | .ok pas => some (r, pas) | _ => none

/-- Joins an access to the faults of several pages, each of which finds a slot or does not (R150): the slots, whether every page has one, and the state. -/
def State.raiseFaults (s : State) (sp : Space) (team : Nat) (j : Joined) : List (Page × Nat) → List Nat × Bool × State
  | [] => ([], true, s)
  | (p, k) :: r =>
    match s.raiseFault sp team p k j with
    | none => let x := s.raiseFaults sp team j r; (x.1, false, x.2.2)
    | some (i, s) => let x := s.raiseFaults sp team j r; (i :: x.1, x.2)

/-- What a warp's own instruction has joined. -/
def Joined.ofWarp (w : WarpId) : Joined → Bool
  | .warp v _ => v == w
  | _ => false

/-- The fault slot on which a warp's instruction waits. -/
def Core.warpFault (c : Core) (w : WarpId) : Option Nat :=
  (List.range 32).find? fun i => match vget c.faults i none with | some f => f.joined.any (Joined.ofWarp w) | none => false

/-- Whether a lane's access has a byte on a page. -/
def LaneChk.onPage (r : LaneChk) (page : Page) : Bool := page.meets r.va r.size

/-- The trap of lanes whose faults on some pages have failed (R151, R215): those that meet a fault there, or else that have a byte there. -/
def failedTrap (pages : List Page) (rs : List LaneChk) : TrapReq :=
  let met := (chkFaulted rs).filter fun r => pages.any r.onPage
  let ls := if met.isEmpty then rs.filter fun r => pages.any r.onPage else met
  let first (r : LaneChk) : Nat := (pages.filter r.onPage).foldl (fun m p => min m (max r.va p.va)) (r.va + r.size)
  { cause := .faultFailed, va := (ls.head?.map first).getD 0, lanes := maskOf fun t => ls.any (·.lane == t) }

/-- What stops a load into a register, a store or an atomic before any access is performed (Table 13.3): an outstanding or failed fault, a failing lane, a
demand fault, for as many of the pages as find slots. The lanes wait together. -/
def State.accessGate (s : State) (c : Ctx) (sp : Space) (a : Acc) (rs : List LaneChk) : Except Stop Gate :=
  let core := c.t.core
  let failed (s : State) (pages : List Page) : Gate :=
    .stay ((s.modCore core fun k => k.withdraw (Joined.ofWarp c.w)).raise c.w (failedTrap pages rs))
  if c.x.failed ≠ [] then .ok (failed s c.x.failed)
  else
    match (s.core core).warpFault c.w with
    | some i => .error (.stall (.fault core i 1))
    | none =>
      match chkFail rs with
      | some q => .error (.trap q)
      | none =>
        match chkFaults rs with
        | [] => .ok (.go s)
        | ps =>
          if s.noRing then .ok (failed s (ps.map (·.1)))
          else
            match s.raiseFaults sp c.w.team (.warp c.w a) ps with
            | ([], _, _) => .error (.stall .slots)
            | (i :: _, _, s) => .ok (.stay (s.stallWarp c.w (.fault core i 1)))

/-- The bytes that an access writes, for which earlier loads of the warp's path still wait: it follows those reads (R165). -/
def State.loadsFirst (s : State) (c : Ctx) (pas : List Nat) : Except Stop Unit :=
  need (!(s.core c.t.core).loads.any fun l => l.w == c.w && !c.x.unordered l.tok && l.need.any fun n => pas.contains n.pa) (.stall (.bytes pas))

/-- The bytes for which earlier loads of the warp's path still wait, in sectors of addresses of which the L1 now holds a copy. -/
def State.awaited (s : State) (c : Ctx) (pas : List Nat) : List Nat :=
  let here := pas.filter fun pa => (s.core c.t.core).l1Hit pa
  ((s.core c.t.core).loads.filter fun l => l.w == c.w && !c.x.unordered l.tok).flatMap fun l =>
    (l.need.filter fun n => here.any fun pa => n.pa / 16 == pa / 16).map (·.pa)

/-- A load that would read from the L1 a sector for which an earlier load of the warp's path still waits follows that read (R165; log entry 28). -/
def State.copiesFirst (s : State) (c : Ctx) (pas : List Nat) : Except Stop Unit :=
  need (s.awaited c pas).isEmpty (.stall (.bytes (s.awaited c pas)))

end Sys2Proof.Machine
end

