-- ==== Sys2Proof/Machine/Access.lean ====
section
/-! DEFINITION. The loads, stores and ordered accesses of the access slice (13: R346 to R354): operand fields, lanes' checks, the remote path (R57 to R61,
R176), and the meanings of `wset`, `winv`, `ldq`, `lda`, `sta`, `stq`, `lds`, `sts`, `ldacq`, `strel`. -/

namespace Sys2Proof.Machine

/-! ## Operand fields -/

/-- A field of a memory or queue word: as Table 9.4, but a queue value stands for the queue itself (R351, R367). -/
inductive AOpd where
  | a (n : Nat)
  | queue (q : Nat)
  | k (n : Nat)
  | spec (n : Nat)
  | bad (c : Cause)
  deriving DecidableEq, Repr

/-- The decoding of such a field: a peek value raises "queue direction"; predicates are no operand of these words. -/
def aOpd (f : Nat) : AOpd :=
  if f < 64 then .a f
  else if f < 1536 then .bad .illegalOperand
  else if f < 1600 then .queue (f - 1536)
  else if f < 1664 then .bad .queueDirection
  else if f < 1728 then .k (f - 1664)
  else if f < 1736 then .bad .illegalOperand
  else if f < 1743 then .spec (f - 1736)
  else .bad .illegalOperand

/-- A queue field's queue when it has one of the directions an instruction takes: at or above the team's count "illegal operand", of another direction
"queue direction" (R351, R367). -/
def queueField (t : Team) (f q : Nat) (ok : Queue → Bool) : Except Stop Queue :=
  match t.queues[q]? with
  | none => .error (trapOf .illegalOperand f)
  | some x => if ok x then .ok x else .error (trapOf .queueDirection f)

/-- A value that no field of these words takes, where a queue might stand: a peek value names its queue too, and the team's count (row 3 of
Table 7.3) comes before the direction (row 4; log entry 124). -/
def badField (t : Team) (w : Cause) (f : Nat) : Stop :=
  if w = .queueDirection ∧ t.queues.length ≤ f - 1600 then trapOf .illegalOperand f else trapOf w f

/-- A queue where a word takes none: row 3 of Table 7.3, then row 4 (R351). -/
def noQueue (t : Team) (f q : Nat) : Stop := if t.queues.length ≤ q then trapOf .illegalOperand f else trapOf .queueDirection f

/-- A field that must be a queue. -/
def needQueue (t : Team) (f : Fld) (ok : Queue → Bool) : Except Stop (Nat × Queue) :=
  match aOpd f.toNat with
  | .queue q => (queueField t f.toNat q ok).map fun x => (q, x)
  | .bad w => .error (badField t w f.toNat)
  | _ => .error (trapOf .illegalOperand f.toNat)

/-- A forward queue. -/
def Queue.isForward (q : Queue) : Bool := q.dir == .forward

/-- A return queue. -/
def Queue.isReturn (q : Queue) : Bool := q.dir == .ret

/-- Where a load puts its data: an `a` register, nowhere, or a queue. -/
inductive LoadTo where
  | reg (n : Nat)
  | zero
  | queue (q : Nat) (x : Queue)
  deriving DecidableEq, Repr

/-- The D field of a load that may name a register (`regs`), a forward queue (`queues`), or both (R351, R353). -/
def loadTo (t : Team) (regs queues : Bool) (f : Fld) : Except Stop LoadTo :=
  match aOpd f.toNat with
  | .a n => if regs then .ok (.reg n) else .error (trapOf .illegalOperand f.toNat)
  | .spec 0 => if regs then .ok .zero else .error (trapOf .illegalOperand f.toNat)
  | .queue q => if queues then (queueField t f.toNat q Queue.isForward).map (.queue q) else .error (noQueue t f.toNat q)
  | .bad w => .error (badField t w f.toNat)
  | _ => .error (trapOf .illegalOperand f.toNat)

/-- The data of a store: its lanes, the poison of its sectors, and the team after the pop. -/
structure StoreData where
  img  : Image
  psec : BitVec 16
  t    : Team
  deriving DecidableEq, Repr

/-- The data field of a store: an `a` register, a `k` register or a special when `regs`, a popped return queue when `queues` (R202, R351, Table 13.3). -/
def storeData (c : Ctx) (ty : BitVec 4) (regs queues : Bool) (f : Fld) : Except Stop StoreData :=
  match aOpd f.toNat with
  | .bad w => .error (badField c.t w f.toNat)
  | .queue q =>
    if queues then
      match queueField c.t f.toNat q Queue.isReturn with
      | .error e => .error e
      | .ok x =>
        match x.entries with
        | [] => if c.t.exhausted q x then .error (trapOf .queueExhausted f.toNat) else .error (.stall (.popQ q))
        | e :: _ =>
          match e.st with
          | .ready => .ok { img := e.data, psec := e.psec, t := c.t.setQueue q x.pop }
          | .poisoned w => .error (.trap { cause := .poisonedEntry, reg := f.toNat, sub := w.code })
          | _ => .error (.stall (.popQ q))
    else .error (noQueue c.t f.toNat q)
  | _ => if regs then .ok { img := srcVal c ty f 0, psec := 0, t := c.t } else .error (trapOf .illegalOperand f.toNat)

/-! ## Lanes -/

/-- The width of an access in bytes (R349). -/
def accSize (ty : BitVec 4) : Nat := Ty.width ty / 8

/-- The offset of a lane (R348). -/
def laneOff (c : Ctx) (off : BitVec 6) (disp : BitVec 11) (t : Nat) : Nat :=
  (lane (vget c.x.a off.toNat 0) t + disp.signExtend 64).toNat

/-- A window register. -/
def Warp.win (x : Warp) (n : BitVec 3) : Window :=
  vget x.tw n.toNat { va := 0, pa := 0, limit := 0, write := false, replica := false, remote := none, dom := false }

/-- The checks of a lane's access through a window; one that meets a demand fault goes through the TLB when it is re-checked at a fault's resolution (R147). -/
def State.checkAgain (s : State) (c : Ctx) (win : Window) (a : Acc) (o z : Nat) : Except AccFail (List Nat) :=
  match s.checkWin (s.spaceOf c.w.team) win a o z with
  | .error (.fault p k) => if c.x.recheck then s.checkWin (s.spaceOf c.w.team) { win with limit := 0 } a o z else .error (.fault p k)
  | r => r

/-- A lane's access through a window, after the checks (R147 to R149, R159). -/
def State.globalLane (s : State) (c : Ctx) (win : Window) (a : Acc) (aligned : Bool) (z o t : Nat) : LaneChk :=
  let va := win.va + o
  { lane := t, va := va, size := z, dom := win.dom
    res := if aligned ∧ va % z ≠ 0 then .error (.cause .misaligned va) else s.checkAgain c win a o z }

/-- A lane's access to shared memory, after the checks (R125, R159, R348). -/
def sharedLane (b : Block) (aligned : Bool) (z o t : Nat) : LaneChk :=
  { lane := t, va := o, size := z, dom := false
    res := if aligned ∧ o % z ≠ 0 then .error (.cause .misaligned o)
      else if b.inShared o z then .ok (tab z (o + ·)) else .error (.cause .sharedRange (b.firstOut o)) }

/-- A remote window as an access finds it: with the domain enabled and the window's device this one, the access is a local one in the domain space (R59). -/
def State.effWin (s : State) (w : Window) : Window :=
  if w.remote = some s.links.self.toNat ∧ s.links.domEn = true then { w with remote := none, limit := 0 } else w

/-- The lanes of a memory word: through window `tw`, or in shared memory. -/
def State.memLanes (s : State) (c : Ctx) (f : MemF) (sh : Bool) (a : Acc) (aligned disp : Bool) : List LaneChk :=
  (lanesOf (c.x.active f.g)).map fun t =>
    let o := laneOff c f.off (if disp then f.b else 0) t
    if sh then sharedLane (s.blockOf c) aligned (accSize f.ty) o t
    else s.globalLane c (s.effWin (c.x.win f.tw)) a aligned (accSize f.ty) o t

/-- The space in which a memory word's demand faults are raised. -/
def State.winSpace (s : State) (c : Ctx) (n : BitVec 3) : Space :=
  if (c.x.win n).dom then s.domSpace (s.spaceOf c.w.team) else s.spaceOf c.w.team

/-- Only `sta`, `stq`, `strel`, `atom` and `atomq` may name a remote window (R350). -/
def noRemote (c : Ctx) (n : BitVec 3) : Except Stop Unit :=
  need (c.x.win n).remote.isNone (trapOf .illegalOperand n.toNat)

/-! ## Windows (R350) -/

/-- Sets a window of the warp. -/
def Warp.setWin (x : Warp) (n : BitVec 3) (w : Window) : Warp := { x with tw := vset x.tw n.toNat w }

/-- The window that `wset` leaves, or the trap it raises: of the team's space; of the domain space when the device number is this device's and the domain
is enabled; else a remote one (R57, R146, R350). -/
def State.windowFor (s : State) (c : Ctx) (f : WsetF) (vb : Word) : Except Stop Window :=
  let bad := trapOf .illegalOperand (f.a.toNat - 1664)
  let va := fieldOf vb 0 52
  if f.dom then
    if fieldOf vb 62 2 ≠ 0 then .error bad
    else if fieldOf vb 52 10 = s.links.self.toNat ∧ s.links.domEn = true then .ok (s.fillWindow (s.spaceOf c.w.team) true va)
    else .ok { va := va, pa := 0, limit := 2 ^ 52 - va, write := true, replica := false, remote := some (fieldOf vb 52 10), dom := true }
  else if fieldOf vb 52 12 ≠ 0 then .error bad
  else .ok (s.fillWindow (s.spaceOf c.w.team) false va)

/-- `wset` and `wset.dom` (R350). -/
def execWset (f : WsetF) (s : State) : Host.Outcome State Fault Refusal :=
  s.asMemory fun s c =>
    match kField c f.a with
    | .error e => .error e
    | .ok vb =>
      match s.windowFor c f vb with
      | .error e => .error e
      | .ok w => .ok (s.retireCtx (if c.x.cond f.g then { c with x := c.x.setWin f.n w } else c))

/-- `winv`: the limit becomes 0, the base stays (R147, R350). -/
def execWinv (f : WinvF) (s : State) : Host.Outcome State Fault Refusal :=
  s.asMemory fun s c =>
    let w := c.x.win f.n
    .ok (s.retireCtx (if c.x.cond f.g then { c with x := c.x.setWin f.n { w with limit := 0 } } else c))

/-! ## Loads -/

/-- The accesses of a load. -/
def accsOf (rs : List LaneChk) : List LaneAcc := rs.map fun r => { pos := 8 * r.lane, va := r.va, size := r.size, dom := r.dom }

/-- The bytes that a load needs. -/
def needOf (rs : List LaneChk) : List NeedByte :=
  (chkPas rs).flatMap fun x => x.2.zipIdx.map fun y => { pos := 8 * x.1.lane + y.2, pa := y.1 }

/-- A load in progress for lanes whose accesses have been checked; while one of them waits on a fault, the others are still to be made (R171). -/
def newLoad (tok : Nat) (c : Ctx) (dst : LoadDst) (ty : BitVec 4) (home : Bool) (rs : List LaneChk) : PendLoad :=
  let fl := accsOf (chkFaulted rs)
  { tok := tok, w := c.w, dst := dst, ty := some ty, accs := accsOf rs, need := if fl.isEmpty then needOf rs else [], data := 0, bad := [],
    faulted := fl, later := if fl.isEmpty then [] else accsOf ((chkPas rs).map Prod.fst), home := home }

/-- A load from shared memory: every byte is there at once (R125, R169). -/
def PendLoad.fromShared (l : PendLoad) (b : Block) : PendLoad :=
  l.take fun a => some ((b.sharedBytes a 1).headD 0, if b.sharedPoison a 1 then some .uncorrectable else none)

/-- Starts a load in progress: from shared memory, or from memory. -/
def State.beginLoad (s : State) (c : Ctx) (sh : Bool) (l : PendLoad) : State :=
  if sh then s.modCore c.t.core fun k => { k with loads := k.loads ++ [l.fromShared (s.blockOf c)] }
  else
    let (s, l) := s.lanesFirst c.t.core l
    s.startLoad c.t.core l

/-- A byte lies in a poisoned sector: of the core's own copy, or else of home memory (row 9 of Table 5.10). -/
def State.poisonSeen (s : State) (core pa : Nat) : Bool :=
  let l := (s.core core).line (lineOf pa)
  if l.valid.getLsbD (pa % 128 / 16) then l.poison.getLsbD (pa % 128 / 16) else isHbm pa && s.mem.ram.poisonedAt pa

/-- The lanes of an access that reads, while one of them meets a demand fault: a lane whose data is poisoned fails its check too, and decides at once (R149, R352; log entry 136). Without
a fault the data itself says so when it comes. -/
def State.seePoison (s : State) (core : Nat) (rs : List LaneChk) : List LaneChk :=
  if (chkFaulted rs).isEmpty then rs
  else rs.map fun r =>
    match r.res with
    | .ok pas => (match pas.findIdx? (s.poisonSeen core) with | some i => { r with res := .error (.cause .uncorrectable (r.va + i)) } | none => r)
    | _ => r

/-- What distinguishes the loads: where they may write, whether the address is shared, and whether they acquire (and at which scope). -/
structure LoadKind where
  regs   : Bool
  queues : Bool
  sh     : Bool
  acq    : Option (BitVec 2)
  deriving DecidableEq, Repr

/-- A team has pushed an engine command. -/
def Team.pushed (t : Team) : Bool := t.eseq.toList.any (· != 0)

/-- An engine belongs to the instance of a scope (Table 6.2): it may have written home memory behind the L1. -/
def State.engineIn (s : State) (c : Ctx) (scope : BitVec 2) : Bool :=
  c.t.pushed || (scope != 0 && s.hm.teams.any fun t => t.block == c.t.block && t.pushed)

/-- An acquire at a wide scope invalidates the core's clean L1 sectors (R166, R353); at a narrower one too, where it may read what an engine of its scope instance has released (R163). -/
def State.acquireAt (s : State) (c : Ctx) (acq : Option (BitVec 2)) : State :=
  match acq with
  | none => s
  | some scope => if s.wide c scope || s.engineIn c scope then s.invalidateClean c.t.core else s

/-- An acquire load at a wide scope reads at the home slice (R168, R353). -/
def State.readsHome (s : State) (c : Ctx) (k : LoadKind) : Bool :=
  match k.acq with
  | some scope => !k.sh && s.wide c scope
  | none => false

/-- The core's own copies of the sectors that such a load reads go home first. -/
def State.loadHome (s : State) (c : Ctx) (k : LoadKind) (rs : List LaneChk) : State :=
  if s.readsHome c k then s.flushPas c.t.core ((needOf rs).map (·.pa)) else s

/-- Before a load reads: an acquire's copies go home; a sector that the L1 holds is read after the earlier loads that still wait for it. -/
def State.readGate (s : State) (c : Ctx) (k : LoadKind) (rs : List LaneChk) : Except Stop State :=
  let s := s.loadHome c k rs
  (if k.sh || !(chkFaulted rs).isEmpty then .ok () else s.copiesFirst c ((needOf rs).map (·.pa))).map fun _ => s

/-- Retires an instruction of the warp in a state changed since the context was taken. -/
def State.retireNow (s : State) (c : Ctx) (f : Ctx → Ctx) : State := s.retireCtx (f (s.again c))

/-- A load into a register ends: its lanes are written, or it traps; until its bytes have arrived the warp waits (log entry 22). -/
def State.finishReg (s : State) (c : Ctx) (k : LoadKind) (la : BitVec 4) (act : Mask) (l : PendLoad) : Except Stop State :=
  if l.performed = false then .error (.stall (.load l.tok))
  else
    let s := s.modCore c.t.core fun x => x.dropLoad l.tok
    match l.trapReq with
    | some q => .ok (s.raise c.w q)
    | none =>
      .ok ((s.acquireAt c k.acq).retireNow c fun c =>
        let x := match l.dst with
          | .reg n => { c.x with a := vset c.x.a n (mergeLanes act l.image (vget c.x.a n 0)) }.note [n]
          | _ => c.x
        { c with x := x.issueLong (longLat l.tok la false true) })

/-- A load into a register begins (R351, Table 13.3). -/
def State.loadReg (s : State) (c : Ctx) (k : LoadKind) (f : MemF) (dst : LoadDst) : Except Stop State :=
  let s := s.acquireAt c k.acq
  let rs := s.seePoison c.t.core (s.memLanes c f k.sh .load k.acq.isSome true)
  match s.accessGate c (s.winSpace c f.tw) .load rs with
  | .error e => .error e
  | .ok (.stay s) => .ok s
  | .ok (.go s) =>
    match s.readGate c k rs with
    | .error e => .error e
    | .ok s =>
    let (tok, s) := s.takeTok
    let s := s.beginLoad c k.sh (newLoad tok c dst f.ty (s.readsHome c k) rs)
    match (s.core c.t.core).load? tok with
    | none => .ok s
    | some l =>
      if l.performed then s.finishReg c k f.la (c.x.active f.g) l
      else .ok (s.modWarp c.w fun x => { x with begun := some (.load tok), stall := some (.load tok) })

/-- The lanes that fail because they are misaligned. -/
def chkMisaligned (rs : List LaneChk) : List LaneChk :=
  rs.filter fun r => match r.res with | .error (.cause .misaligned _) => true | _ => false

/-- A load into a queue: one entry is allocated at issue; it is Poisoned when a lane fails its check, Pending while a lane waits on a fault, Ready at once
with no active lane (R203, R351, R352); a misaligned lane of `ldacq` traps (R159, R353). With too few fault slots for its pages, those that find one are raised and the warp
waits at the instruction (R150). -/
def State.loadQueue (s : State) (c : Ctx) (k : LoadKind) (f : MemF) (q : Nat) (x : Queue) : Except Stop State :=
  let s := s.acquireAt c k.acq
  let rs := s.seePoison c.t.core (s.memLanes c f k.sh .load k.acq.isSome true)
  let (tok, s) := s.takeTok
  let done (s : State) (g : Warp → Warp) : State := s.retireNow c fun c => { c with x := (g c.x).issueLong (longLat tok f.la true false) }
  let leave (e : Entry) : Except Stop State :=
    .ok (done ((s.modCore c.t.core fun k => k.withdraw (Joined.ofWarp c.w)).setTeam (c.t.setQueue q (x.alloc e))) id)
  if c.t.noConsumer x = false ∧ x.hasRoom 1 = false then .error (.stall (.pushQ q))
  else if let some r := chkFail (chkMisaligned rs) then .error (.trap r)
  else if c.t.noConsumer x then .ok (done s id)
  else if rs.isEmpty then leave (Entry.ready 0)
  else
    match chkFail rs with
    | some r => leave { st := .poisoned r.cause, data := 0, psec := 0 }
    | none =>
      let ps := chkFaults rs
      if c.x.failed ≠ [] ∨ (ps.isEmpty = false ∧ s.noRing = true) then leave { st := .poisoned .faultFailed, data := 0, psec := 0 }
      else
        match s.readGate c k rs with
        | .error e => .error e
        | .ok s =>
        match s.raiseFaults (s.winSpace c f.tw) c.w.team (.load tok) ps with
        | (_, true, s) => start (s.modCore c.t.core fun k => k.withdraw (Joined.ofWarp c.w)) (if ps.isEmpty then .issued else .pending) tok done rs
        | (_, false, _) => .ok ((s.raiseFaults (s.winSpace c f.tw) c.w.team (.warp c.w .load) ps).2.2.stallWarp c.w .slots)
where
  /-- Allocates the entry and starts the load. -/
  start (s : State) (st : EntryState) (tok : Nat) (done : State → (Warp → Warp) → State) (rs : List LaneChk) : Except Stop State :=
    let (slot, gen, y) := x.allocate st
    let s := s.modTeam c.w.team fun t => t.setQueue q y
    let s := s.beginLoad c k.sh (newLoad tok c (.entry q slot gen) f.ty (s.readsHome c k) rs)
    .ok (done s fun x => if k.acq.isSome then { x with holdLd := x.holdLd ++ [tok] } else x)

/-- A load word (R351, R353). -/
def State.load (s : State) (k : LoadKind) (f : MemF) : Host.Outcome State Fault Refusal :=
  s.asMemory fun s c =>
    let inFlight := match c.x.begun with | some (.load tok) => (s.core c.t.core).load? tok | _ => none
    match inFlight with
    | some l => s.finishReg c k f.la (c.x.active f.g) l
    | none =>
      match loadTo c.t k.regs k.queues f.d with
      | .error e => .error e
      | .ok d =>
        match (if k.sh then .ok () else noRemote c f.tw) with
        | .error e => .error e
        | .ok () =>
          match d with
          | .reg n => s.loadReg c k f (.reg n)
          | .zero => s.loadReg c k f .none
          | .queue q x => s.loadQueue c k f q x

/-- `ldq` (Table 13.2). -/
def execLdq (f : MemF) (s : State) : Host.Outcome State Fault Refusal :=
  s.load { regs := false, queues := true, sh := false, acq := none } f

/-- `lda` (Table 13.2). -/
def execLda (f : MemF) (s : State) : Host.Outcome State Fault Refusal :=
  s.load { regs := true, queues := false, sh := false, acq := none } f

/-- `lds` (Table 13.2). -/
def execLds (f : MemF) (s : State) : Host.Outcome State Fault Refusal :=
  s.load { regs := true, queues := true, sh := true, acq := none } f

/-- `ldacq` (R353). -/
def execLdacq (f : MemF) (s : State) : Host.Outcome State Fault Refusal :=
  s.load { regs := true, queues := true, sh := f.sh, acq := some f.scope } f

/-! ## The domain (R57 to R61, R176) -/

/-- An entry of the domain table as it lies in memory: reserved bits that are not 0 make it not valid (R58; log entry 23). A table outside HBM, or in a poisoned sector, is read as the bytes
that stand there, 0 outside HBM (log entry 73). -/
def State.readDomEntry (s : State) (dev : Nat) : DomEntry :=
  let a := s.links.domTab.toNat * 32768 + 32 * dev
  let flags := s.mem.ram.num (a + 18) 2
  { dev := dev, ip := BitVec.ofNat 128 (s.mem.ram.num a 16), ports := BitVec.ofNat 16 (s.mem.ram.num (a + 16) 2),
    valid := flags == 1 && s.mem.ram.num (a + 20) 12 == 0 }

/-- The entry of a device, read when it is first needed and kept (R58). -/
def State.domEntry (s : State) (dev : Nat) : DomEntry × State :=
  match s.links.domCache.find? (·.dev == dev) with
  | some e => (e, s)
  | none =>
    let e := s.readDomEntry dev
    let s := s.served (tab 32 (s.links.domTab.toNat * 32768 + 32 * dev + ·))
    (e, { s with links := { s.links with domCache := s.links.domCache ++ [e] } })

/-- The ports over which a device can be reached now. -/
def State.upPorts (s : State) (e : DomEntry) : List Nat :=
  (List.range 16).filter fun p => e.ports.getLsbD p && (vget s.links.ports p EthPort.down).up

/-- Why a domain access to another device is not sent, if it is not, with the entry read (R59). -/
def State.domResolve (s : State) (dev : Nat) : Option Cause × State :=
  if s.links.domEn = false then (some .noDomain, s)
  else
    let (e, s) := s.domEntry dev
    (if e.valid = false ∨ s.upPorts e = [] then some .noSuchDevice else none, s)

/-- The bytes that a remote access covers. -/
def RemoteOp.size : RemoteOp → Nat
  | .read _ n => n
  | .write bs _ => bs.length
  | .atomic _ _ _ _ _ => 8

/-- Two remote accesses of one warp touch a common 16-byte sector of one target (R176). -/
def Remote.clash (a b : Remote) : Bool :=
  a.w == b.w && a.dev == b.dev && a.va / 16 ≤ (b.va + b.op.size - 1) / 16 && b.va / 16 ≤ (a.va + a.op.size - 1) / 16

/-- Sends a remote access over one of the ports that reach its target, which one the spec leaves open (R55; a free value). With no such port up nothing leaves the
device, and the packet counts as sent and unanswered: its timer runs (R56; log entry 113). -/
def State.transmit (s : State) (r : Remote) : State :=
  let (e, s) := s.domEntry r.dev
  let ps := s.upPorts e
  let (n, s) := s.takeFree
  let mark (x : Remote) : Remote := if x.tag = r.tag then { x with sent := true, port := ps.getD (n % ps.length) 16, last := s.mgmt.count } else x
  let s := { s with links := { s.links with remotes := s.links.remotes.map mark } }
  if ps.isEmpty then s else s.send (.domSend s.links.domid r.dev r.tag r.va r.op)

/-- A new remote access: held while an earlier one of its warp to the same sector is unacknowledged, else sent (R176). Its acknowledgement, or the reply to a read, is awaited by a
release at domain scope of its core. -/
def State.addRemote (s : State) (core : Nat) (w : WarpId) (dev va : Nat) (op : RemoteOp) : State :=
  let (tag, s) := s.takeTok
  let r : Remote :=
    { tag := tag, core := core, w := w, dev := dev, va := va, op := op, stok := some tag, sent := false, port := 0, tries := 0, last := 0 }
  let held := s.links.remotes.any fun x => x.clash r
  let s := { s with links := { s.links with remotes := s.links.remotes ++ [r] } }
  let s := s.modCore core fun c => { c with unacked := c.unacked ++ [{ tok := tag, w := some w, done := false, remote := true }] }
  if held then s else s.transmit r

/-- The lanes of an access through a remote window: an address at or above 2^52 fails, and so does a lane that R59 stops; else its address (R147, R350). -/
def State.remoteLanes (s : State) (c : Ctx) (f : MemF) (dev : Nat) (aligned disp : Bool) : List LaneChk × State :=
  let z := accSize f.ty
  let (stop, s) := s.domResolve dev
  let win := c.x.win f.tw
  ((lanesOf (c.x.active f.g)).map fun t =>
    let o := laneOff c f.off (if disp then f.b else 0) t
    let va := win.va + o
    { lane := t, va := va, size := z, dom := true
      res := if aligned ∧ va % z ≠ 0 then .error (.cause .misaligned va)
        else if va + z > 2 ^ 52 then .error (.cause .address (max va (2 ^ 52)))
        else match stop with | some k => .error (.cause k va) | none => .ok [va] }, s)

/-! ## Stores -/

/-- What distinguishes the stores: the data they take, whether the address is shared, and whether they release (and at which scope). -/
structure StoreKind where
  regs   : Bool
  queues : Bool
  sh     : Bool
  rel    : Option (BitVec 2)
  deriving DecidableEq, Repr

/-- The bytes that the lanes store, in lane order. -/
def storeBytesOf (d : StoreData) (rs : List LaneChk) : List StoreByte :=
  (chkPas rs).flatMap fun x => x.2.zipIdx.map fun y =>
    { lane := x.1.lane, pa := y.1, val := imgByte d.img (8 * x.1.lane + y.2), bad := d.psec.getLsbD (x.1.lane / 2) }

/-- The runs of bytes that the lanes of a store write through a remote window, by lane: address, bytes, and whether their data is poisoned (R122, R158). -/
def remoteRuns (d : StoreData) (rs : List LaneChk) : List (Nat × List Byte × Bool) :=
  let bs := lastWrites (rs.flatMap fun r => tab r.size fun i =>
    { lane := r.lane, pa := r.va + i, val := imgByte d.img (8 * r.lane + i), bad := d.psec.getLsbD (r.lane / 2) })
  (List.range 32).flatMap fun t => (cellRuns ((bs.filter fun b => b.lane == t).map fun b => (b.pa, b.val))).map fun x => (x.1, x.2, d.psec.getLsbD (t / 2))

/-- A block after a store of bytes to shared memory. -/
def Block.sharedBytesStore (b : Block) (bs : List StoreByte) : Block :=
  (List.range b.cores.length).foldl (fun b i =>
    let mine := (lastWrites bs).filter fun x => sharedIdx x.pa == i
    let r := (b.region i).store (mine.map fun x => (sharedOff x.pa, x.val)) fun sec => mine.any fun x => sharedOff x.pa / 16 == sec && x.bad
    { b with shared := b.shared.set i r }) b

/-- Retires a store: the popped entry leaves its queue, the instruction completes at its trap point (R351). -/
def State.endStore (s : State) (c : Ctx) (d : StoreData) (la : BitVec 4) : State :=
  let (tok, s) := s.takeTok
  s.retireNow c fun x =>
    { x with t := { x.t with queues := d.t.queues }, x := { x.x with begun := none }.issueLong (longLat tok la true false) }

/-- A release waits before its store is performed; a plain store does not. -/
def State.storeGate (s : State) (c : Ctx) (k : StoreKind) : Except Stop Gate :=
  match k.rel with
  | none => .ok (.go s)
  | some scope => s.releaseGate c scope false

/-- Performs the stores of a word in memory: those of a release at a wide scope go to their home slices (R168). -/
def State.storeAt (s : State) (c : Ctx) (k : StoreKind) (bs : List StoreByte) : State :=
  if (k.rel.map (s.wide c)).getD false then s.storeHomeward c.t.core c.w bs else s.storeBytes c.t.core c.w bs

/-- A store word (R351 to R353): checks of the operands, then of the lanes, then a release's waits, then the stores; the highest active lane that writes a
byte wins (R158). -/
def State.store (s : State) (k : StoreKind) (f : MemF) : Host.Outcome State Fault Refusal :=
  s.asMemory fun s c =>
    match storeData c f.ty k.regs k.queues f.d with
    | .error e => .error e
    | .ok d =>
      let remote := if k.sh then none else (s.effWin (c.x.win f.tw)).remote
      let (rs, s) := match remote with
        | some dev => s.remoteLanes c f dev k.rel.isSome true
        | none => (s.memLanes c f k.sh .store k.rel.isSome true, s)
      match s.accessGate c (s.winSpace c f.tw) .store rs with
      | .error e => .error e
      | .ok (.stay s) => .ok s
      | .ok (.go s) =>
        match s.storeGate c k with
        | .error e => .error e
        | .ok (.stay s) => .ok s
        | .ok (.go s) =>
          match remote with
          | some dev => .ok (((remoteRuns d rs).foldl (fun s r => s.addRemote c.t.core c.w dev r.1 (.write r.2.1 r.2.2)) s).endStore c d f.la)
          | none =>
            let bs := storeBytesOf d rs
            if k.sh then .ok ((s.modBlock c.t.block (·.sharedBytesStore bs)).endStore c d f.la)
            else
              match s.loadsFirst c (bs.map (·.pa)) with
              | .error e => .error e
              | .ok () => .ok ((s.storeAt c k bs).endStore c d f.la)

/-- `sta` (Table 13.2). -/
def execSta (f : MemF) (s : State) : Host.Outcome State Fault Refusal :=
  s.store { regs := true, queues := false, sh := false, rel := none } f

/-- `stq` (Table 13.2). -/
def execStq (f : MemF) (s : State) : Host.Outcome State Fault Refusal :=
  s.store { regs := false, queues := true, sh := false, rel := none } f

/-- `sts` (Table 13.2). -/
def execSts (f : MemF) (s : State) : Host.Outcome State Fault Refusal :=
  s.store { regs := true, queues := true, sh := true, rel := none } f

/-- `strel` (R353): the data as `sta` takes it for a global address, as `sts` for a shared one. -/
def execStrel (f : MemF) (s : State) : Host.Outcome State Fault Refusal :=
  s.store { regs := true, queues := f.sh, sh := f.sh, rel := some f.scope } f

end Sys2Proof.Machine
end

