-- ==== Sys2Proof/Machine/Atomic.lean ====
section
/-! DEFINITION. Atomics, slice work, broadcast and remote reads of the access slice (13: R354 to R358). -/

namespace Sys2Proof.Machine

/-! ## Atomics (R354) -/

/-- The operands of an atomic for lane `t` at an address: the lane of S and, for `cas`, of the register after it. -/
def atomElem (c : Ctx) (f : MemF) (pa t : Nat) : AtomElem :=
  { lane := t, pa := pa, ty := f.ty, op := f.op, x := lane (srcVal c f.ty f.b 0) t
    e := if f.op = 7 then lane (vget c.x.a (f.b.toNat + 1) 0) t else 0 }

/-- The data field of an atomic: `a`, `k` or a special; for `cas` every field but a0 to a62 is an "illegal operand" (R354). -/
def atomSource (f : MemF) : Except Stop Unit :=
  if f.op = 7 then need (f.b.toNat < 63) (trapOf .illegalOperand f.b.toNat)
  else
    match aOpd f.b.toNat with
    | .bad w => .error (trapOf w f.b.toNat)
    | .queue _ => .error (trapOf .queueDirection f.b.toNat)
    | _ => .ok ()

/-- Through a remote window only `.add`, `.swap` and `.cas` on 64-bit types (R354). -/
def atomRemoteOk (f : MemF) : Bool := (f.op == 0 || f.op == 6 || f.op == 7) && Ty.width f.ty == 64 && !Ty.float f.ty

/-- The order codes that release, and those that acquire (R354, Table 13.1). -/
def ordRel (o : BitVec 3) : Bool := o == 2 || o == 3 || o == 4
/-- The order codes that acquire. -/
def ordAcq (o : BitVec 3) : Bool := o == 1 || o == 3 || o == 4

/-- Sends the lanes of an atomic, one packet for each line, to the home slices (R134, R137). -/
def State.sendAtomics (s : State) (core : Nat) (dst : AtomDst) (es : List AtomElem) : State :=
  let s := s.flushPas core (es.map (·.pa))
  (linesOf (es.map (·.pa))).foldl (fun s ln =>
    let mine := es.filter fun e => lineOf e.pa == ln
    s.sendReq ln (flitsOf ((mine.map fun e => accSize e.ty * (if e.op = 7 then 2 else 1)).sum)) (.atomic core dst mine)) s

/-- The atomics of lanes on shared memory, at the owning arrays, in an order that nothing constrains (R125, R158): old values and poisoned lanes. -/
def Block.atomics (b : Block) : List AtomElem → Image × List (Nat × Cause) → Block × Image × List (Nat × Cause)
  | [], r => (b, r)
  | e :: es, r =>
    match (b.region (sharedIdx e.pa)).rmw { e with pa := sharedOff e.pa } with
    | none => b.atomics es (r.1, r.2 ++ [(e.lane, .uncorrectable)])
    | some (m, old) =>
      Block.atomics { b with shared := b.shared.set (sharedIdx e.pa) m } es
        (r.1 ||| BitVec.ofNat 2048 ((extWord e.ty (word old)).toNat <<< (64 * e.lane)), r.2)

/-- The lanes on shared memory that touch a poisoned sector (R123). -/
def Block.poisonedAtoms (b : Block) (es : List AtomElem) : List (Nat × Cause) :=
  (es.filter fun e => (b.region (sharedIdx e.pa)).poisonedAt (sharedOff e.pa)).map fun e => (e.lane, .uncorrectable)

/-- An atomic ends: the old values go to the active lanes of the register, to nothing, or to the entry that it allocated at issue; a failed lane poisons the entry, or
traps when there is a register (R203, R354). -/
def State.finishAtomic (s : State) (c : Ctx) (f : MemF) (d : LoadTo) (tok : Nat) (result : Image) (bad : List (Nat × Cause)) (ent : Option (Nat × BitVec 2)) :
    Except Stop State :=
  let lat := longLat tok f.la false true
  let s := if ordAcq f.order then s.acquireAt c (some f.scope) else s
  match d with
  | .zero => .ok (s.retireNow c fun c => { c with x := { c.x with begun := none }.issueLong lat })
  | .reg n =>
    match firstBad bad with
    | some b =>
      let va := (lane (vget c.x.a f.off.toNat 0) b.1).toNat + (if f.sh then 0 else (c.x.win f.tw).va)
      .ok ((s.modWarp c.w fun x => { x with begun := none }).raise c.w
        { cause := b.2, va := va, lanes := maskOf fun t => bad.contains (t, b.2) })
    | none => .ok (s.retireNow c fun c =>
        { c with x := { c.x with begun := none, a := vset c.x.a n (mergeLanes (c.x.active f.g) result (vget c.x.a n 0)) }.note [n] |>.issueLong lat })
  | .queue q _ =>
    let e : Entry := match firstBad bad with
      | some b => { st := .poisoned b.2, data := 0, psec := 0 }
      | none => Entry.ready result
    .ok (s.retireNow c fun c =>
      { c with
        t := match ent, c.t.queues[q]? with | some (slot, g), some y => c.t.setQueue q (y.fill slot g e) | _, _ => c.t
        x := { c.x with begun := none }.issueLong (longLat tok f.la true false) })

/-- An atomic into a queue allocates its entry at issue, Issued, unless no warp consumes the queue (R203, R204). -/
def State.allocAtomic (s : State) (c : Ctx) (d : LoadTo) : Option (Nat × BitVec 2) × State :=
  match d with
  | .queue q x =>
    if c.t.noConsumer x then (none, s)
    else
      let (slot, g, y) := x.allocate .issued
      (some (slot, g), s.modTeam c.w.team fun t => t.setQueue q y)
  | _ => (none, s)

/-- Sends the lanes of an atomic whose checks have passed and whose release has been waited for; with no lane it ends at once. An `atom` into a register
that meets poison traps, and a trap leaves no effect (R214): none of its lanes is performed. -/
def State.startAtomic (s : State) (c : Ctx) (f : MemF) (d : LoadTo) (remote : Option Nat) (rs : List LaneChk) : Except Stop State :=
  let (tok, s) := s.takeTok
  let es := (chkPas rs).map fun x => atomElem c f (x.2.headD 0) x.1.lane
  let (ent, s) := s.allocAtomic c d
  if es.isEmpty then s.finishAtomic c f d tok 0 [] ent
  else if f.sh then
    let spoilt := match d with | .reg _ => (s.blockOf c).poisonedAtoms es | _ => []
    if spoilt.isEmpty then
      let (es, s) := s.freeOrder es
      let (b, r) := (s.blockOf c).atomics es (0, [])
      (s.modBlock c.t.block fun _ => b).finishAtomic c f d tok r.1 r.2 ent
    else s.finishAtomic c f d tok 0 spoilt ent
  else
    let wait (s : State) : State := s.modWarp c.w fun x =>
      { x with begun := some (.atomic tok (maskOf fun t => es.any (·.lane == t)) 0 [] ent), stall := some .atomic }
    match remote with
    | some dev => .ok (wait (es.foldl (fun s e => s.addRemote c.t.core c.w dev e.pa (.atomic tok e.lane f.op e.x e.e)) s))
    | none =>
      let dst := match d with | .zero => AtomDst.discard c.w tok | .reg _ => .reg c.w tok | .queue _ _ => .warp c.w tok
      .ok (wait (s.sendAtomics c.t.core dst es))

/-- `atom` and `atomq` (R354): operands, lanes, the release's waits, the operations at their home slices, and the old values. -/
def State.atomic (s : State) (f : MemF) (toQueue : Bool) : Host.Outcome State Fault Refusal :=
  s.asMemory fun s c =>
    match loadTo c.t (!toQueue) toQueue f.d with
    | .error e => .error e
    | .ok d =>
      match atomSource f with
      | .error e => .error e
      | .ok () =>
        match c.x.begun with
        | some (.atomic tok left result bad ent) => if left = 0 then s.finishAtomic c f d tok result bad ent else .error (.stall .atomic)
        | _ =>
          let remote := if f.sh then none else (s.effWin (c.x.win f.tw)).remote
          if remote.isSome ∧ atomRemoteOk f = false then .error (trapOf .illegalOperand f.tw.toNat)
          else
            match d with
            | .queue q x => if c.t.noConsumer x = false ∧ x.hasRoom 1 = false then .error (.stall (.pushQ q)) else go s c d remote
            | _ => go s c d remote
where
  /-- The lanes' checks, the release's waits, the start. -/
  go (s : State) (c : Ctx) (d : LoadTo) (remote : Option Nat) : Except Stop State :=
    let (rs, s) := match remote with
      | some dev => s.remoteLanes c f dev true false
      | none =>
        let rs := s.memLanes c f f.sh .atomic true false
        ((match d with | .reg _ => s.seePoison c.t.core rs | _ => rs), s)
    match s.accessGate c (s.winSpace c f.tw) .atomic rs with
    | .error e => .error e
    | .ok (.stay s) => .ok s
    | .ok (.go s) =>
      match (if ordRel f.order then s.releaseGate c f.scope (f.order == 4) else .ok (.go s)) with
      | .error e => .error e
      | .ok (.stay s) => .ok s
      | .ok (.go s) =>
        match (if f.sh || remote.isSome then .ok () else s.loadsFirst c ((chkPas rs).flatMap (·.2))) with
        | .error e => .error e
        | .ok () => s.startAtomic c f d remote rs

/-- `atom` (R354). -/
def execAtom (f : MemF) (s : State) : Host.Outcome State Fault Refusal := s.atomic f false

/-- `atomq` (R354). -/
def execAtomq (f : MemF) (s : State) : Host.Outcome State Fault Refusal := s.atomic f true

/-- Sends the lanes of a reduction, one packet for each line, to the home slices (R135, R137). -/
def State.sendReductions (s : State) (c : Ctx) (f : MemF) (es : List AtomElem) : State :=
  let core := c.t.core
  (linesOf (es.map (·.pa))).foldl (fun s ln =>
    let mine := es.filter fun e => lineOf e.pa == ln
    let (tok, s) := s.takeTok
    let s := s.sendReq ln (flitsOf (mine.length * accSize f.ty)) (.reduce core tok mine)
    s.modCore core fun k => { k with unacked := k.unacked ++ [{ tok := tok, w := some c.w, done := false, remote := false }] }) (s.flushPas core (es.map (·.pa)))

/-- `redl2` (R355): one packet for each line, with the elements of its lanes; it completes when they are sent. -/
def execRedl2 (f : MemF) (s : State) : Host.Outcome State Fault Refusal :=
  s.asMemory fun s c =>
    match atomSource f with
    | .error e => .error e
    | .ok () =>
      match noRemote c f.tw with
      | .error e => .error e
      | .ok () =>
        let rs := s.memLanes c f false .atomic true false
        match s.accessGate c (s.winSpace c f.tw) .atomic rs with
        | .error e => .error e
        | .ok (.stay s) => .ok s
        | .ok (.go s) =>
          match s.loadsFirst c ((chkPas rs).flatMap (·.2)) with
          | .error e => .error e
          | .ok () =>
            let (tok, s) := (s.sendReductions c f ((chkPas rs).map fun x => atomElem c f (x.2.headD 0) x.1.lane)).takeTok
            .ok (s.retireNow c fun c => { c with x := c.x.issueLong (longLat tok f.la true false) })

/-! ## Entries that something else fills -/

/-- Ends an instruction that allocates one entry and completes at its trap point: the entry with its state, and, when a load fills it, that load as `mk` makes it
from the entry's slot, begun by `start` (R203, R346). -/
def State.allocLoad (s : State) (c : Ctx) (q : Nat) (x : Queue) (la : BitVec 4) (st : EntryState)
    (start : State → Nat → Nat → BitVec 2 → State) : Except Stop State :=
  let (tok, s) := s.takeTok
  let done (s : State) : State := s.retireNow c fun c => { c with x := c.x.issueLong (longLat tok la true false) }
  if c.t.noConsumer x then .ok (done s)
  else if x.hasRoom 1 = false then .error (.stall (.pushQ q))
  else
    let (slot, gen, y) := x.allocate st
    .ok (done (start (s.modTeam c.w.team fun t => t.setQueue q y) tok slot gen))

/-- A single access of a load: from byte 0 of its destination. -/
def oneAcc (dom : Bool) (va n : Nat) : LaneAcc := { pos := 0, va := va, size := n, dom := dom }

/-- A load of one run of bytes into an entry, checked; or why its entry is not Issued. -/
def State.runLoad (s : State) (c : Ctx) (sp : Space) (q : Nat) (x : Queue) (la : BitVec 4) (acc : LaneAcc) (res : Except AccFail (List Nat))
    (ok : State → PendLoad → List Nat → State) (g : Nat → Option GatherReq) : Except Stop State :=
  let mk (tok slot : Nat) (gen : BitVec 2) (fl : List LaneAcc) : PendLoad :=
    { tok := tok, w := c.w, dst := .entry q slot gen, ty := none, accs := [acc], need := [], data := 0, bad := [], faulted := fl, gather := g tok }
  match res with
  | .error (.cause k _) => s.allocLoad c q x la (.poisoned k) fun s _ _ _ => s
  | .error (.fault p k) =>
    if c.t.noConsumer x then s.allocLoad c q x la .ready fun s _ _ _ => s
    else if s.noRing then s.allocLoad c q x la (.poisoned .faultFailed) fun s _ _ _ => s
    else
      match s.raiseFault sp c.w.team p k (.load s.mem.nextTok) with
      | none => .error (.stall .slots)
      | some (_, s) => s.allocLoad c q x la .pending fun s tok slot gen =>
          s.modCore c.t.core fun k => { k with loads := k.loads ++ [mk tok slot gen [acc]] }
  | .ok pas =>
    match (if (g 0).isSome then .ok () else s.copiesFirst c pas) with
    | .error e => .error e
    | .ok () => s.allocLoad c q x la .issued fun s tok slot gen => ok s (mk tok slot gen []) pas

/-! ## `gatl2` (R136, R356) -/

/-- Sends a gather to the home slice of its index line; the bytes of an index line that no one slice holds whole are read first, at their slices or over the link. -/
def State.sendGather (s : State) (core : Nat) (l : PendLoad) (g : GatherReq) (pas : List Nat) : State :=
  let g := { g with idx := pas }
  let l := { l with gather := some g, atSlice := true }
  if pas.all fun pa => isHbm pa && sliceOf pa == sliceOf (pas.headD 0) then
    (s.modCore core fun k => { k with loads := k.loads ++ [l] }).sendReq (lineOf (pas.headD 0)) 1 (.gather g)
  else s.startLoad core { l with need := pas.zipIdx.map fun y => { pos := y.2, pa := y.1 } }

/-- `gatl2` (R356): the entry is allocated at issue; the slice reads the indices and the elements. -/
def execGatl2 (f : MemF) (s : State) : Host.Outcome State Fault Refusal :=
  s.asMemory fun s c =>
    match needQueue c.t f.d Queue.isForward with
    | .error e => .error e
    | .ok (q, x) =>
      match kField c f.b with
      | .error e => .error e
      | .ok len =>
        match noRemote c f.tw, noRemote c f.op with
        | .error e, _ => .error e
        | _, .error e => .error e
        | .ok (), .ok () =>
          let act := c.x.active f.g
          match lowestLane act with
          | none => s.allocLoad c q x f.la .ready fun s _ _ _ => s
          | some t =>
            let o := laneOff c f.off 0 t / 128 * 128
            let win := c.x.win f.tw
            let sp := s.winSpace c f.tw
            let core := c.t.core
            let g (tok : Nat) : GatherReq :=
              { core := core, tok := tok, idx := [], esz := accSize f.ty, len := len, lanes := act, win := c.x.win f.op }
            (s.writeBackAll core).runLoad c sp q x f.la (oneAcc win.dom (win.va + o) 128) (s.checkWin (s.spaceOf c.w.team) win .load o 128)
              (fun s l pas => s.sendGather core l (g l.tok) pas) fun tok => some (g tok)

/-! ## `mcast` (R138, R357) -/

/-- The cores that hold a resident team of a task. -/
def State.coresOf (s : State) (task : Nat) : BitVec 64 :=
  (s.hm.teams.filter fun t => t.task == task && t.st == .resident).foldl (fun m t => m ||| coreBit t.core) 0

/-- The lines of HBM that the active lanes touch with one byte each; a lane that would fail or fault is skipped (R357, R359). -/
def State.touchedLines (s : State) (c : Ctx) (f : MemF) (disp : Bool) : List Nat :=
  linesOf ((((chkPas (s.memLanes c f false .load false disp)).map fun x => x.2.headD 0)).filter isHbm)

/-- `mcast` (R357): a multicast read for each line, also when no core's bit stays set; for the issuing warp one plain load, until its slices have read the lines. -/
def execMcast (f : MemF) (s : State) : Host.Outcome State Fault Refusal :=
  s.asMemory fun s c =>
    match kField c f.b with
    | .error e => .error e
    | .ok m =>
      match noRemote c f.tw with
      | .error e => .error e
      | .ok () =>
        let mask := m &&& s.coresOf c.t.task
        let (tok, s) := s.takeTok
        let lines := s.touchedLines c f false
        let l : PendLoad :=
          { tok := tok, w := c.w, dst := .caches, ty := none, accs := [], need := lines.map fun ln => { pos := 0, pa := ln }, data := 0, bad := [], faulted := [], atSlice := false }
        let s := if lines.isEmpty then s else s.modCore c.t.core fun k => { k with loads := k.loads ++ [l] }
        let s := lines.foldl (fun s ln => s.sendReq ln 1 (.load mask ln 0xff tok)) s
        .ok (s.retireNow c fun c => { c with x := c.x.issueLong (longLat tok f.la true false) })

/-! ## `rld` (R61, R358) -/

/-- The queues that an `rld` may fill (R358). -/
def Queue.takesRld (q : Queue) : Bool := q.dir == .forward || (q.dir == .engine && q.producer == 3)

/-- `rld` (R358), resolved under R59. -/
def execRld (f : RldF) (s : State) : Host.Outcome State Fault Refusal :=
  s.asMemory fun s c =>
    match needQueue c.t f.d Queue.takesRld with
    | .error e => .error e
    | .ok (q, x) =>
      match lowestLane (c.x.active f.g) with
      | none => s.allocLoad c q x f.la .ready fun s _ _ _ => s
      | some t =>
        let da := lane (vget c.x.a f.off.toNat 0) t
        let n := f.n.toNat + 1
        let dev := fieldOf da 52 10
        let va := fieldOf da 0 52
        let core := c.t.core
        if fieldOf da 62 2 ≠ 0 then .error (trapOf .illegalOperand f.off.toNat)
        else if s.links.domEn = false then s.allocLoad c q x f.la (.poisoned .noDomain) fun s _ _ _ => s
        else if dev = s.links.self.toNat then
          let sp := s.domSpace (s.spaceOf c.w.team)
          s.runLoad c sp q x f.la (oneAcc true va n) (s.checkTlb sp .load va n)
            (fun s l pas => s.startLoad core { l with need := pas.zipIdx.map fun y => { pos := y.2, pa := y.1 } }) fun _ => none
        else
          match s.domResolve dev with
          | (some k, s) => s.allocLoad c q x f.la (.poisoned k) fun s _ _ _ => s
          | (none, s) => s.allocLoad c q x f.la .issued fun s tok slot gen =>
              let l : PendLoad :=
                { tok := tok, w := c.w, dst := .entry q slot gen, ty := none, accs := [oneAcc true va n],
                  need := tab n fun i => { pos := i, pa := 2 ^ 52 + i }, data := 0, bad := [], faulted := [], gather := none }
              (s.modCore core fun k => { k with loads := k.loads ++ [l] }).addRemote core c.w dev va (.read tok n)

end Sys2Proof.Machine
end

