-- ==== Sys2Proof/Machine/RegMgmt.lean ====
section
/-! DEFINITION. Register management (10: R295 to R300). -/

namespace Sys2Proof.Machine

/-- Field A of `rgn` and `rkill`: a register below the allotment (R295, R196). -/
def needReg (c : Ctx) (f : Fld) : Except Stop Unit :=
  need (f.toNat < 1536 && f.toNat < c.x.v.length) (trapOf .illegalOperand f.toNat)

/-- `rgn` (R296): a request for residency, which affects timing only. -/
def execRgn (f : RgnF) (s : State) : Host.Outcome State Fault Refusal :=
  s.asWarp fun c =>
    match needReg c f.a with
    | .error e => .error e
    | .ok () =>
      if c.x.cond f.g = false then .ok (s.retireWarp c.w c.x)
      else
        .ok ((s.modPart c.t.core c.x.partOf fun p => { p with
          rgn := (if f.new then p.rgn.filter (·.1 != c.w) else p.rgn) ++ [(c.w, f.a.toNat, f.count.toNat + 1)] }).retireWarp c.w c.x)

/-- The sum of the allotments on a core (R190): a saved team holds no registers. -/
def State.coreSum (s : State) (core : Nat) : Nat :=
  ((s.hm.teams.filter fun t => t.core == core && t.st != .saved).map fun t => ((t.warps.drop 1).map (·.v.length)).sum).sum

/-- A destination that is a predicate or `zero`, as that of `rgrow` and `rshrink` (R295). -/
def predDst (access : Bool) (f : Fld) : Except Stop Nat :=
  if Fld.isPred f then .ok (f.toNat - 1728) else if f = 1736#11 then .ok 0 else .error (wrongField access f)

/-- The shape of `rgrow` and `rshrink` (R297): the new registers when the change succeeds. -/
def State.resize (s : State) (f : DAF) (change : Ctx → Nat → Option (List VReg)) : Host.Outcome State Fault Refusal :=
  s.asWarp fun c =>
    match predDst c.w.access f.d with
    | .error e => .error e
    | .ok n =>
      if c.x.cond f.g = false then .ok (s.retireWarp c.w c.x)
      else
        match s.needQuiet c.w with
        | .error e => .error e
        | .ok () =>
          match change c (32 * f.a.toNat) with
          | some v => .ok (s.retireWarp c.w ({ c.x with v := v }.writePred n allLanes allLanes))
          | none => .ok (s.retireWarp c.w (c.x.writePred n allLanes 0))

/-- `rgrow` (R297). -/
def execRgrow (f : DAF) (s : State) : Host.Outcome State Fault Refusal :=
  s.resize f fun c n =>
    if c.x.v.length + n ≤ 1536 ∧ s.coreSum c.t.core + n ≤ 16384 then some (c.x.v ++ List.replicate n VReg.fresh) else none

/-- `rshrink` (R297). -/
def execRshrink (f : DAF) (s : State) : Host.Outcome State Fault Refusal :=
  s.resize f fun c n =>
    let u := c.x.v.length
    if u < n + 32 ∨ ((List.range n).any fun i => s.liveAcc c (u - n + i)) = true then none else some (c.x.v.take (u - n))

/-- The indices of `vmovx` and `vstx`: lane t of A as an unsigned 64-bit value; a special reads as n64 (DEDUCED, log entry 18). -/
def idxOf (x : Image) (t : Nat) : Nat := (lane x t).toNat

/-- The trap of the lowest failing lane, with every lane that fails with the same cause (R215). -/
def laneTrap (act : Mask) (f : Nat → Option TrapReq) : Option TrapReq :=
  match (List.range 32).find? fun t => mbit act t && (f t).isSome with
  | none => none
  | some t => (f t).map fun q => { q with lanes := maskOf fun u => mbit act u && (f u).any fun r => r.cause == q.cause }

/-- The lane check of an indexed register (R299). -/
def idxCheck (c : Ctx) (reads : Bool) (n : Nat) : Option TrapReq :=
  match c.x.v[n]? with
  | none => some { cause := .illegalOperand, reg := min n 2047 }
  | some r => if reads ∧ r.released = true then some { cause := .releasedRegister, reg := n } else none

/-- The distinct registers that active lanes index. -/
def idxRegs (act : Mask) (x : Image) : List Nat :=
  (((List.range 32).filter (mbit act)).map (idxOf x)).eraseDups

/-- `vmovx` (R299). -/
def execVmovx (f : MovxF) (s : State) : Host.Outcome State Fault Refusal :=
  s.asWarp fun c =>
    let us : List SrcUse := [⟨f.a, false⟩]
    match s.vecStart c f.d f.cc f.g us false false true with
    | .error e => .error e
    | .ok dst =>
      let act := c.x.active f.g
      let idx := srcVal c 7 f.a 0
      match laneTrap act fun t => idxCheck c true (idxOf idx t) with
      | some q => .error (.trap q)
      | none =>
        if (idxRegs act idx).any (s.vBusy c) then .error (.stall (.regs (idxRegs act idx)))
        else
          let x := ofLanes fun t => lane (((c.x.v[idxOf idx t]?).map (·.data)).getD 0) t
          let d := c.afterReads us
          match { d with x := { d.x with v := (idxRegs act idx).foldl countRead d.x.v } }.writeDst dst act x f.cc with
          | .error e => .error e
          | .ok c => .ok (s.retireCtx c)

/-- A register after `vstx` has written lane `t` of it. -/
def VReg.writeLane (r : VReg) (t : Nat) (x : Image) : VReg := r.write (maskOf (· == t)) x 0

/-- `vstx` (R299). -/
def execVstx (f : ABF) (s : State) : Host.Outcome State Fault Refusal :=
  s.asWarp fun c =>
    let us : List SrcUse := [⟨f.a, false⟩, ⟨f.b, false⟩]
    match s.vecStart c 1736#11 0 f.g us false false true with
    | .error e => .error e
    | .ok _ =>
      let act := c.x.active f.g
      let xs := srcVals c 7 us
      let idx := xs.getD 0 0
      match laneTrap act fun t => idxCheck c false (idxOf idx t) with
      | some q => .error (.trap q)
      | none =>
        if (idxRegs act idx).any (s.vBusy c) then .error (.stall (.regs (idxRegs act idx)))
        else
          let d := c.afterReads us
          let v := ((List.range 32).filter (mbit act)).foldl
            (fun v t => v.modify (idxOf idx t) fun r => r.writeLane t (xs.getD 1 0)) d.x.v
          .ok (s.retireCtx { d with x := { d.x with v := v }.note (((List.range 32).filter (mbit act)).map (idxOf idx)) })

/-- `rkill` (R300). -/
def execRkill (f : RkillF) (s : State) : Host.Outcome State Fault Refusal :=
  s.asWarp fun c =>
    match needReg c f.a with
    | .error e => .error e
    | .ok () =>
      if c.x.cond f.g = false then .ok (s.retireWarp c.w c.x)
      else
        match s.needQuiet c.w with
        | .error e => .error e
        | .ok () =>
          let v := (List.range (f.count.toNat + 1)).foldl
            (fun v i => v.modify (f.a.toNat + i) fun r => { r with count := 0, released := true }) c.x.v
          .ok (s.retireWarp c.w { c.x with v := v })

end Sys2Proof.Machine
end

