-- ==== Sys2Proof/Machine/MemControl.lean ====
section
/-! DEFINITION. Prefetch and cache flush (R359), `scopy` (R360), fences and code visibility (R361 to R363), shared size, tide phase and format blocks (R364 to
R366). -/

namespace Sys2Proof.Machine

/-! ## L1 words (R359) -/

/-- `pref` (R359): requests the missing sectors of each line that a lane touches. It produces no event and completes at its trap point. -/
def execPref (f : MemF) (s : State) : Host.Outcome State Fault Refusal :=
  s.asMemory fun s c =>
    match noRemote c f.tw with
    | .error e => .error e
    | .ok () =>
      let core := c.t.core
      let (tok, s) := s.takeTok
      let s := (s.touchedLines c f true).foldl (fun s ln =>
        let miss := ~~~((s.core core).line ln).valid
        if miss = 0 then s else s.sendReq ln 1 (.load (coreBit core) ln miss tok)) s
      .ok (s.retireCtx (s.again c))

/-- The tokens of a core's stores sent since a token. -/
def State.tokensSince (s : State) (core n : Nat) : List Nat := ((s.core core).unacked.filter fun u => n ≤ u.tok).map (·.tok)

/-- Sends a line's home slice the order to write its dirty sectors to HBM4E (R129, R359). -/
def State.sendClean (s : State) (core line : Nat) : State :=
  let (tok, s) := s.takeTok
  (s.sendReq line 1 (.clean core tok line)).modCore core fun k =>
    { k with unacked := k.unacked ++ [{ tok := tok, w := none, done := false, remote := false }] }

/-- `cflush` (R359): each touched line is written back and invalidated in the L1 and, at level 2, cleaned at its home slice; it completes when all of that has
been acknowledged. -/
def State.cflush (s : State) (l2 : Bool) (f : MemF) : Host.Outcome State Fault Refusal :=
  s.asMemory fun s c =>
    match noRemote c f.tw with
    | .error e => .error e
    | .ok () =>
      let core := c.t.core
      if c.x.begun = some .released then
        if c.x.holdSt.isEmpty then .ok (s.retireCtx c) else .error (.stall (.acks false))
      else
        let first := s.mem.nextTok
        let s := (s.touchedLines c f true).foldl (fun s ln =>
          let s := (s.flushLine core ln fun _ => true).modCore core fun k => k.skipSectors ln 0xff
          if l2 then s.sendClean core ln else s) s
        let toks := s.tokensSince core first
        if toks.isEmpty then .ok (s.retireCtx (s.again c))
        else .ok (s.modWarp c.w fun x => { x with begun := some .released, holdSt := toks, stall := some (.acks false) })

/-- `cflush.l1` (R359). -/
def execCflushL1 (f : MemF) (s : State) : Host.Outcome State Fault Refusal := s.cflush false f

/-- `cflush.l2` (R359). -/
def execCflushL2 (f : MemF) (s : State) : Host.Outcome State Fault Refusal := s.cflush true f

/-! ## `scopy` (R360) -/

/-- The bytes of a range of shared memory with the poison of their sectors, for a copy to another address. -/
def Block.copyBytes (b : Block) (src dst n : Nat) : List StoreByte :=
  tab n fun i => { lane := 0, pa := dst + i, val := (b.sharedBytes (src + i) 1).headD 0, bad := b.sharedPoison (src + i) 1 }

/-- `scopy` (R360): the ranges are checked whatever the predicate (R346); the whole source is read before a byte is written. -/
def execScopy (f : ScopyF) (s : State) : Host.Outcome State Fault Refusal :=
  s.asMemory fun s c =>
    match kOnly c f.d, kOnly c f.a, kOnly c f.b with
    | .error e, _, _ => .error e
    | _, .error e, _ => .error e
    | _, _, .error e => .error e
    | .ok d, .ok a, .ok n =>
      let (tok, s) := s.takeTok
      let done (s : State) : State := s.retireNow c fun c => { c with x := c.x.issueLong (longLat tok f.la true false) }
      let b := s.blockOf c
      if n = 0 then .ok (done s)
      else if n.toNat > 2 ^ 21 then .error (.trap { cause := .sharedRange, va := a.toNat })
      else if b.inShared a.toNat n.toNat = false then .error (.trap { cause := .sharedRange, va := b.firstOut a.toNat })
      else if b.inShared d.toNat n.toNat = false then .error (.trap { cause := .sharedRange, va := b.firstOut d.toNat })
      else if c.x.cond f.g = false then .ok (done s)
      else .ok (done (s.modBlock c.t.block fun b => b.sharedBytesStore (b.copyBytes a.toNat d.toNat n.toNat)))

/-! ## Fences (R361) -/

/-- `fence` (R361): the waits of a release; then, for an acquire, the clean L1 sectors are invalidated at a wide scope and the loads of the warp's path not yet performed hold its later
memory instructions (R162). -/
def execFence (f : FenceF) (s : State) : Host.Outcome State Fault Refusal :=
  s.asMemory fun s c =>
    if c.x.cond f.g = false then .ok (s.retireCtx c)
    else
      match (if ordRel f.order then s.releaseGate c f.scope (f.order == 4) else .ok (.go s)) with
      | .error e => .error e
      | .ok (.stay s) => .ok s
      | .ok (.go s) =>
        let s := if ordAcq f.order then s.acquireAt c (some f.scope) else s
        let toks := if ordAcq f.order then ((s.core c.t.core).loads.filter fun l => l.w == c.w && !c.x.unordered l.tok).map (·.tok) else []
        .ok (s.retireNow c fun c => { c with x := { c.x with holdLd := c.x.holdLd ++ toks } })

/-! ## Code (R362, R363) -/

/-- Whether a line of code at a physical address overlaps the part of `[va, va + n)` that lies on the page of `p`. -/
def State.codeHit (s : State) (sp : Space) (va n pa p : Nat) : Bool :=
  match s.xlat sp.core sp.asid p with
  | .leaf f big _ _ =>
    let lo := leafPa f big p
    let last := min (va + n) ((p / 65536 + 1) * 65536) - 1
    pa < lo + (last - p) + 1 && lo < pa + 128
  | _ => false

/-- `iinv` (R362): every core drops the fetched words of each 128-byte line that overlaps the range; pages that are not present are skipped. -/
def execIinv (f : ABF) (s : State) : Host.Outcome State Fault Refusal :=
  s.asWarp fun c =>
    match kField c f.a, kField c f.b with
    | .error e, _ => .error e
    | _, .error e => .error e
    | .ok a, .ok n =>
      if n ≠ 0 ∧ a.toNat + n.toNat > 2 ^ 52 then .error (.trap { cause := .address, va := max a.toNat (2 ^ 52) })
      else if c.x.cond f.g = false ∨ n = 0 then .ok (s.retireCtx c)
      else
        let sp := s.spaceOf c.w.team
        let ps := pagesOf a.toNat n.toNat
        let drop (x : Warp) : Warp :=
          match x.code with
          | some l => if ps.any (s.codeHit sp a.toNat n.toNat l.pa) then { x with code := none } else x
          | none => x
        let keep (k : Core) : Core := { k with codes := k.codes.filter fun l => !(ps.any (s.codeHit sp a.toNat n.toNat l.pa)) }
        let s := { s.setTeams (s.hm.teams.map fun t => { t with warps := t.warps.map drop }) with cores := s.cores.map keep }
        .ok (s.retireCtx (s.again c))

/-- `isync` (R363): the warp's fetched words are discarded; it must be the last word of its clause. -/
def execIsync (g : Guard) (s : State) : Host.Outcome State Fault Refusal :=
  s.asWarp fun c =>
    if c.x.lastWord = false then .error (trapOf .illegalClause)
    else .ok (s.retireCtx (if c.x.cond g then { c with x := { c.x with code := none } } else c))

/-! ## Shared size, phase, format blocks (R364 to R366) -/

/-- A memory image cut to its first `n` bytes. -/
def Ram.cut (r : Ram) (n : Nat) : Ram := { cells := r.cells.filter (·.1 < n), poison := r.poison.filter (16 * · < n) }

/-- Whether the size of a block can become `n` KiB: every core of the block needs at most 15 shared ways (R127). -/
def State.sharedFits (s : State) (b : Block) (n : Nat) : Bool :=
  n ≤ 1920 && b.cores.all fun k => waysFor (s.sharedSum k b.id n) ≤ 15

/-- The size of a block becomes `n` KiB: bytes gained are 0, bytes lost are discarded; the ways of its cores that become shared ways are written back and invalidated (R127). -/
def State.setShared (s : State) (b : Block) (n : Nat) : State :=
  b.cores.foldl State.fitL1 (s.modBlock b.id fun b => { b with shm := n, shared := b.shared.map fun r => r.cut (n * 1024) })

/-- `l1res` (R364). -/
def execL1res (f : DAF) (s : State) : Host.Outcome State Fault Refusal :=
  s.asMemory fun s c =>
    match predDst c.w.access f.d, kField c f.a with
    | .error e, _ => .error e
    | _, .error e => .error e
    | .ok p, .ok n =>
      if c.x.cond f.g = false then .ok (s.retireCtx c)
      else
        let b := s.blockOf c
        let ok := s.sharedFits b n.toNat
        let s := if ok then s.setShared b n.toNat else s
        .ok (s.retireNow c fun c => { c with x := c.x.writePred p allLanes (if ok then allLanes else 0) })

/-- `tide` (R365): a team of a VF submission area has no effect on the phase. -/
def execTide (f : AF) (s : State) : Host.Outcome State Fault Refusal :=
  s.asWarp fun c =>
    match kField c f.a with
    | .error e => .error e
    | .ok v =>
      let pf := match s.task? c.t.task with | some t => areaFn t.area == .pf | none => false
      let s := if c.x.cond f.g && pf then { s with mem := { s.mem with tidePhase := v.extractLsb' 0 6 } } else s
      .ok (s.retireCtx c)

/-- `fbset` (R366): the block is eight successive k registers. -/
def execFbset (f : FbsetF) (s : State) : Host.Outcome State Fault Refusal :=
  s.asWarp fun c =>
    if f.a.toNat < 1664 ∨ 1720 < f.a.toNat then .error (trapOf .illegalOperand f.a.toNat)
    else if c.x.cond f.g = false then .ok (s.retireCtx c)
    else
      let v : BitVec 512 := BitVec.ofNat 512 (packNat 64 (fun i => (c.x.kreg (f.a.toNat - 1664 + i)).toNat) 8)
      .ok (s.retireCtx { c with t := { c.t with fb := vset c.t.fb f.n.toNat v } })

end Sys2Proof.Machine
end

