-- ==== Sys2Proof/Machine/QueueOps.lean ====
section
/-! DEFINITION. Queue instructions (13: R367 to R369), barriers (R370 to R372), `ewait` (R376), system registers and the counter (R377, R378, R380). -/

namespace Sys2Proof.Machine

/-! ## Queues -/

/-- Cancels the loads that fill an entry: their accesses leave their faults, their replies will find nothing (R152, R199, R205). -/
def State.cancelEntry (s : State) (t : Team) (q slot : Nat) (gen : BitVec 2) : State :=
  s.modCore t.core fun c =>
    let toks := (c.loads.filter fun l => l.w.team == t.num && l.dst == .entry q slot gen).map (·.tok)
    let c := c.withdraw fun j => match j with | .load tok => toks.contains tok | _ => false
    { c with loads := c.loads.filter fun l => !toks.contains l.tok }

/-- The first `n` entries of a queue become Free, cancelled (R200, R205). -/
def State.cancelEntries (s : State) (t : Team) (q n : Nat) : State :=
  match t.queues[q]? with
  | none => s
  | some x =>
    let s := (List.range (min n x.entries.length)).foldl (fun s i => s.cancelEntry t q (x.slotOf i) (x.gen (x.slotOf i))) s
    s.modTeam t.num fun t => t.setQueue q (x.popN (min n x.entries.length))

/-- `qpush` (Table 13.5). -/
def execQpush (f : DAF) (s : State) : Host.Outcome State Fault Refusal :=
  s.asWarp fun c =>
    match needQueue c.t f.d Queue.isForward with
    | .error e => .error e
    | .ok (q, x) =>
      match aOpd f.a.toNat with
      | .bad w => .error (trapOf w f.a.toNat)
      | .queue _ => .error (trapOf .queueDirection f.a.toNat)
      | _ =>
        if c.t.noConsumer x = false ∧ x.hasRoom 1 = false then .error (.stall (.pushQ q))
        else .ok (s.retireCtx { c with t := c.t.push q x (Entry.ready (mergeLanes (c.x.active f.g) (srcVal c 7 f.a 0) 0)) })

/-- `qpop` (Table 13.5). -/
def execQpop (f : DAF) (s : State) : Host.Outcome State Fault Refusal :=
  s.asWarp fun c =>
    match loadTo c.t true false f.d with
    | .error e => .error e
    | .ok d =>
      match needQueue c.t f.a Queue.isReturn with
      | .error e => .error e
      | .ok (q, x) =>
        match entryCheck c.t f.a.toNat q 0 with
        | .fail r | .poison r => .error (.trap r)
        | .wait y => .error (.stall y)
        | .ok =>
          let y := ((x.entries.head?).map (·.data)).getD 0
          let a := match d with
            | .reg n => vset c.x.a n (mergeLanes (c.x.active f.g) y (vget c.x.a n 0))
            | _ => c.x.a
          .ok (s.retireCtx { c with t := c.t.setQueue q x.pop, x := { c.x with a := a }.note (match d with | .reg n => [n] | _ => []) })

/-- `qdrop` (Table 13.5, R369). -/
def execQdrop (f : AF) (s : State) : Host.Outcome State Fault Refusal :=
  s.asWarp fun c =>
    match needQueue c.t f.a (fun _ => true) with
    | .error e => .error e
    | .ok (q, _) => .ok ((if c.x.cond f.g then s.cancelEntries c.t q 1 else s).retireNow c id)

/-- `qflush` (Table 13.5). -/
def execQflush (f : AF) (s : State) : Host.Outcome State Fault Refusal :=
  s.asWarp fun c =>
    match needQueue c.t f.a (fun _ => true) with
    | .error e => .error e
    | .ok (q, x) => .ok ((if c.x.cond f.g then s.cancelEntries c.t q x.entries.length else s).retireNow c id)

/-- The code of an entry's state in Table 13.6. -/
def EntryState.code : EntryState → Nat
  | .issued => 1 | .pending => 2 | .ready => 3 | .poisoned _ => 4

/-- The number of entries in a state. -/
def Queue.countSt (q : Queue) (code : Nat) : Nat := (q.entries.filter fun e => e.st.code == code).length

/-- The status of Table 13.6. -/
def Team.qstat (t : Team) (n : Nat) (q : Queue) : Word :=
  let dir := match q.dir with | .forward => 0 | .ret => 1 | .engine => 2
  word (dir * 2 ^ 49 + b2n (t.exhausted n q) * 2 ^ 48 + ((q.entries.head?).map (·.st.code)).getD 0 * 2 ^ 45 + q.depth * 2 ^ 36 +
    q.countSt 4 * 2 ^ 27 + q.countSt 2 * 2 ^ 18 + q.countSt 3 * 2 ^ 9 + q.entries.length)

/-- A destination that is a k register or `zero`. -/
def kOrZero (f : Fld) : Except Stop Unit :=
  if Fld.isK f || f == 1736#11 then .ok ()
  else
    match aOpd f.toNat with
    | .bad w => .error (trapOf w f.toNat)
    | .queue _ => .error (trapOf .queueDirection f.toNat)
    | _ => .error (trapOf .illegalOperand f.toNat)

/-- `qstat` (R368). -/
def execQstat (f : DAF) (s : State) : Host.Outcome State Fault Refusal :=
  s.asWarp fun c =>
    match kOrZero f.d with
    | .error e => .error e
    | .ok () =>
      match needQueue c.t f.a (fun _ => true) with
      | .error e => .error e
      | .ok (q, x) => .ok (s.retireCtx (if c.x.cond f.g then { c with x := c.x.writeK f.d (c.t.qstat q x) } else c))

/-- The outstanding fault of a core that one of a team's loads into a queue has joined. -/
def Core.queueFault (c : Core) (team q : Nat) : Option Nat :=
  (List.range 32).find? fun i =>
    match vget c.faults i none with
    | none => false
    | some f => f.joined.any fun j =>
        match j with
        | .load tok => c.loads.any fun l => l.tok == tok && l.w.team == team && (match l.dst with | .entry p _ _ => p == q | _ => false)
        | _ => false

/-- `qwait` (R367, R369): no entry Issued or Pending; it waits on an outstanding fault as a store does. -/
def execQwait (f : AF) (s : State) : Host.Outcome State Fault Refusal :=
  s.asWarp fun c =>
    match needQueue c.t f.a (fun _ => true) with
    | .error e => .error e
    | .ok (q, x) =>
      if c.x.cond f.g = false ∨ x.countSt 1 + x.countSt 2 = 0 then .ok (s.retireCtx c)
      else
        match (s.core c.t.core).queueFault c.w.team q with
        | some i => .error (.stall (.fault c.t.core i 2))
        | none => .error (.stall (.queue q))

/-! ## Barriers -/

/-- The group that a barrier word names, when the warp's team has a member in it (R370). -/
def State.groupOf (s : State) (c : Ctx) (n : BitVec 8) : Except Stop Group :=
  match (s.blockOf c).groups.find? (·.gnum == n.toNat) with
  | none => .error (trapOf .illegalOperand n.toNat)
  | some g => if g.hasTeam (c.t.warps.length - 1) c.t.index then .ok g else .error (trapOf .illegalOperand n.toNat)

/-- The scope at which the waits on a group acquire: block, or chip when it contains an engine channel (R173). -/
def Group.scope (g : Group) : BitVec 2 := if g.emask = 0 then 1 else 2

/-- The instance at which the warp arrived last. -/
def Warp.lastAt (x : Warp) (n : Nat) : Option Nat := (x.lastBar.find? (·.1 == n)).map (·.2)

/-- The arrival of `bara` (R371, R372): after the waits of its release, at block scope (R173); while the warp has already arrived for the current instance it waits. -/
def State.arriveAt (s : State) (c : Ctx) (g : Group) (err : Bool) : Except Stop Gate :=
  if g.arrived.any (fun a => a.1 == .team c.t.index) then .error (.stall (.barrier g.gnum))
  else
    match s.releaseGate c 1 false with
    | .error e => .error e
    | .ok (.stay s) => .ok (.stay s)
    | .ok (.go s) =>
      let inst := g.results.length
      let s := s.modWarp c.w fun x =>
        { x with begun := some .arrived, lastBar := (g.gnum, inst) :: x.lastBar.filter (·.1 != g.gnum) }
      .ok (.go (s.arrive c.t.block g.gnum (.team c.t.index) err))

/-- The wait of `barw`: the error bit of the last instance, when it has completed (R372). -/
def State.waitAt (s : State) (c : Ctx) (n : BitVec 8) (p : Nat) : Except Stop State :=
  let c := s.again c
  match s.groupOf c n with
  | .error e => .error e
  | .ok g =>
    match c.x.lastAt g.gnum with
    | none => .ok (s.retireCtx { c with x := c.x.writePred p allLanes 0 })
    | some i =>
      match g.results[i]? with
      | none => .error (.stall (.barrier g.gnum))
      | some err => .ok ((s.acquireAt c (some g.scope)).retireNow c fun c =>
          { c with x := c.x.writePred p allLanes (if err then allLanes else 0) })

/-- `bara` (R372). -/
def execBara (f : BarF) (s : State) : Host.Outcome State Fault Refusal :=
  s.asWarp fun c =>
    match s.groupOf c f.n with
    | .error e => .error e
    | .ok g =>
      if c.x.cond f.g = false then .ok (s.retireCtx c)
      else
        match s.arriveAt c g f.err with
        | .error e => .error e
        | .ok (.stay s) => .ok s
        | .ok (.go s) => .ok (s.retireNow c id)

/-- `barw` (R372). -/
def execBarw (f : BarF) (s : State) : Host.Outcome State Fault Refusal :=
  s.asWarp fun c =>
    match predDst c.w.access f.d with
    | .error e => .error e
    | .ok p =>
      match s.groupOf c f.n with
      | .error e => .error e
      | .ok _ => if c.x.cond f.g = false then .ok (s.retireCtx c) else s.waitAt c f.n p

/-- `bar` (R372): `bara`, then `barw`, as one instruction. -/
def execBar (f : BarF) (s : State) : Host.Outcome State Fault Refusal :=
  s.asWarp fun c =>
    match predDst c.w.access f.d with
    | .error e => .error e
    | .ok p =>
      match s.groupOf c f.n with
      | .error e => .error e
      | .ok g =>
        if c.x.cond f.g = false then .ok (s.retireCtx c)
        else if c.x.begun = some .arrived then s.waitAt c f.n p
        else
          match s.arriveAt c g f.err with
          | .error e => .error e
          | .ok (.stay s) => .ok s
          | .ok (.go s) =>
            match s.waitAt c f.n p with
            | .error (.stall y) => .ok (s.stallWarp c.w y)
            | r => r

/-! ## `ewait` -/

/-- `ewait` (R376). Its return is an acquire at the scope of the command; the model makes it one at chip scope (log entry 25). -/
def execEwait (f : EwaitF) (s : State) : Host.Outcome State Fault Refusal :=
  s.asWarp fun c =>
    match kOrZero f.d with
    | .error e => .error e
    | .ok () =>
      match kField c f.a with
      | .error e => .error e
      | .ok v =>
        let e := f.e.toNat
        let want : BitVec 32 := v.truncate 32
        let ahead := (want - vget c.t.eseq e 0).toNat
        let done := vget c.t.edone e 0
        if 1 ≤ ahead ∧ ahead < 2 ^ 31 then .error (trapOf .illegalOperand (f.a.toNat - 1664))
        else if c.x.cond f.g = false then .ok (s.retireCtx c)
        else if (done - want).toNat < 2 ^ 31 then
          .ok ((s.invalidateClean c.t.core).retireNow c fun c => { c with x := c.x.writeK f.d (done.setWidth 64) })
        else .error (.stall (.command e want))

/-! ## System registers -/

/-- The warp that a selector names: 0 to 3 an execute warp of the team, 7 the access warp (R377). -/
def selWarp (c : Ctx) (w : BitVec 3) : Except Stop WarpId :=
  if w = 7 then .ok { team := c.w.team, idx := 0 }
  else if w.toNat + 1 < c.t.warps.length then .ok { team := c.w.team, idx := w.toNat + 1 }
  else .error (trapOf .illegalOperand w.toNat)

/-- Whether a number is listed in Table 13.10. -/
def sysListed (n : Nat) : Bool := n ≤ 0x00e || (0x010 ≤ n && n ≤ 0x02f)

/-- The value of a system register (Table 13.10). -/
def State.sysReg (s : State) (c : Ctx) (w : WarpId) (x : Warp) (n : Nat) : Word :=
  if n < 4 then vget x.tinfo n 0
  else if n = 4 then (if w.access then 0 else x.fflags)
  else if n = 5 then (if w.access then 0 else x.amax)
  else if n = 6 then word (b2n x.matrix)
  else if n = 7 then word (if w.access then 64 else x.v.length)
  else if n = 8 then c.t.lod.events.setWidth 64
  else if n = 9 then c.t.lod.ns.setWidth 64
  else if n = 10 then c.t.lod.qfull.setWidth 64
  else if n = 11 then c.t.lod.pend.setWidth 64
  else if n = 12 then x.retired
  else if n = 13 then word (c.t.num * 2 ^ 32 + c.t.core * 2 ^ 16)
  else if n = 14 then word (s.blockOf c).shm
  else if n < 0x020 then (vget c.t.eseq (n - 0x010) 0).setWidth 64
  else (vget c.t.edone (n - 0x020) 0).setWidth 64

/-- `sysr` (R377, R378): fflags, amax, mode and retired wait until what the selected warp has issued has completed. -/
def execSysr (f : SysrF) (s : State) : Host.Outcome State Fault Refusal :=
  s.asWarp fun c =>
    match kOrZero f.d with
    | .error e => .error e
    | .ok () =>
      let n := f.n.toNat
      if sysListed n = false then .error (trapOf .illegalOperand n)
      else
        match selWarp c f.w with
        | .error e => .error e
        | .ok w =>
          match c.t.warps[w.idx]? with
          | none => .error (trapOf .illegalOperand f.w.toNat)
          | some x =>
            if c.x.cond f.g = false then .ok (s.retireCtx c)
            else if (n = 4 ∨ n = 5 ∨ n = 6 ∨ n = 12) ∧ s.quiet w = false then .error (.stall (.quiet w.idx))
            else .ok (s.retireCtx { c with x := c.x.writeK f.d (s.sysReg c w x n) })

/-- The fields of a register that `sysw` writes (Tables 7.9, 7.10, 8.5). -/
def sysMask (access : Bool) (n : Nat) : Word :=
  if n = 0 then 0x0000000ffe800000#64
  else if n = 1 then 0x00000000ffffffff#64
  else if n = 4 then (if access then 0 else 0x3f#64)
  else 0

/-- The RW fields of `old` replaced by those of `new`. -/
def withMask (m old new : Word) : Word := (old &&& ~~~m) ||| (new &&& m)

/-- A warp after `sysw` (R219, R377). -/
def Warp.sysw (x : Warp) (access : Bool) (n : Nat) (v : Word) : Warp :=
  if n < 4 then { x with tinfo := vset x.tinfo n (withMask (sysMask access n) (vget x.tinfo n 0) v) }
  else if n = 4 then { x with fflags := withMask (sysMask access 4) x.fflags v }
  else x

/-- `sysw` (R377). -/
def execSysw (f : SyswF) (s : State) : Host.Outcome State Fault Refusal :=
  s.asWarp fun c =>
    match kField c f.a with
    | .error e => .error e
    | .ok v =>
      let n := f.n.toNat
      if sysListed n = false then .error (trapOf .illegalOperand n)
      else
        match selWarp c f.w with
        | .error e => .error e
        | .ok w => .ok ((if c.x.cond f.g then s.modWarp w fun x => x.sysw w.access n v else s).retireNow c id)

/-- `cnt` (R380): the counter of the core's Tender island. -/
def execCnt (f : CntF) (s : State) : Host.Outcome State Fault Refusal :=
  s.asWarp fun c =>
    let v := (s.island (6 * c.t.core)).count
    let put (x : Warp) : Except Stop Warp :=
      match aOpd f.d.toNat with
      | .a n => .ok { x with a := vset x.a n (mergeLanes (x.active f.g) (ofLanes fun _ => v) (vget x.a n 0)) }
      | .k _ => .ok (x.writeK f.d v)
      | .spec 0 => .ok x
      | .bad w => .error (trapOf w f.d.toNat)
      | .queue _ => .error (trapOf .queueDirection f.d.toNat)
      | _ => .error (trapOf .illegalOperand f.d.toNat)
    match put c.x with
    | .error e => .error e
    | .ok x =>
      if c.x.cond f.g = false then .ok (s.retireCtx c)
      else if f.sync ∧ s.quiet c.w = false then .error (.stall (.quiet c.w.idx))
      else .ok (s.retireCtx { c with x := x })

end Sys2Proof.Machine
end

