-- ==== Sys2Proof/Machine/Park.lean ====
section
/-! DEFINITION. Parking a team and its park records (04: R105, R106), `park` (R379), and reads of host memory by the device's own readers (R52, R53). -/

namespace Sys2Proof.Machine

/-! ## Park records -/

/-- The park ring's size, 0 when there is none: with lsize 0, or when it does not lie wholly in HBM (R93, Table 4.4). -/
def State.parkRing (s : State) : Nat :=
  let n := ringSize s.hm.parkSize.toNat
  if s.hm.parkSize = 0 ∨ isHbm (s.hm.parkBase.toNat * 4096 + 32 * n - 1) = false then 0 else n

/-- Writes the waiting park records that fit, oldest first, each followed by its advance of park_tail and its message (R106). -/
def State.parkDrain (s : State) : List (List Byte) → State
  | [] => { s with hm := { s.hm with parkWait := [] } }
  | r :: rs =>
    let n := s.parkRing
    if n = 0 then { s with hm := { s.hm with parkWait := [] } }
    else if (s.hm.parkTail - s.hm.parkHead).toNat ≥ n then { s with hm := { s.hm with parkWait := r :: rs } }
    else
      let t := s.hm.parkTail.toNat
      let bytes := r.take 6 ++ leBytes 1 (phaseBit t n) ++ r.drop 7
      let s := s.homeWrite (cellsAt (s.hm.parkBase.toNat * 4096 + 32 * (t % n)) bytes)
      State.parkDrain { s with hm := { s.hm with parkTail := s.hm.parkTail + 1, parkMsg := true } } rs

/-- A park record but for its phase (Table 4.8). -/
def State.parkRecord (s : State) (t : Team) (p : ParkCond) : List Byte :=
  let k := s.task? t.task
  leBytes 4 t.num ++ leBytes 1 p.reason ++ leBytes 1 t.core ++ leBytes 1 0 ++ leBytes 1 ((k.map (·.area)).getD 0) ++ leBytes 2 p.fid ++ leBytes 2 0 ++
    leBytes 4 ((k.map (·.index.toNat)).getD 0) ++ leBytes 8 p.code.toNat ++ leBytes 8 (s.memCount t.core).toNat

/-- Every warp of a team gives up its issue port; one with an open clause takes a port again before it goes on (R105, R112, R186, R187). -/
def State.releasePorts (s : State) (t : Team) : State :=
  (List.range t.warps.length).foldl (fun s i =>
    (s.releasePort { team := t.num, idx := i }).modWarp { team := t.num, idx := i } fun x => if x.clause.isSome then { x with resumed := true } else x) s

/-- A park condition is added to a Resident or Parked team, which is Parked from then on (R105, R106). -/
def State.addPark (s : State) (team : Nat) (p : ParkCond) : State :=
  match s.team? team with
  | none => s
  | some t =>
    let rec' := s.parkRecord t p
    let now := s.mgmt.count
    let s := s.setTeam { t with
      st := if t.st = .resident then .parked else t.st
      parkAt := if t.st = .resident then now else t.parkAt
      parkNs := if t.st = .resident then 0 else t.parkNs
      parks := t.parks ++ [p] }
    (s.releasePorts t).parkDrain (s.hm.parkWait ++ [rec'])

/-- `park` (R379): waits for every earlier instruction, must be the last word of its clause, and parks the team with reason 3 and the code. -/
def execPark (f : AF) (s : State) : Host.Outcome State Fault Refusal :=
  s.asWarp fun c =>
    match kField c f.a with
    | .error e => .error e
    | .ok v =>
      if c.x.lastWord = false then .error (trapOf .illegalClause)
      else
        match s.needQuiet c.w with
        | .error e => .error e
        | .ok () =>
          let s := s.retireCtx c
          .ok (if c.x.cond f.g then s.addPark c.w.team { reason := 3, fid := 0, code := v } else s)

/-! ## Reads of host memory by readers other than warps -/

/-- What a read has so far: bytes with the poison of each, a failed host access, or a state in which the missing host bytes are on their way. -/
inductive Got where
  | bytes (bs : List (Byte × Bool))
  | fail
  | wait (s : State)
  deriving DecidableEq, Repr

/-- Reads bytes at physical addresses: home memory at once; the host aperture over the link, in reads of at most 256 bytes, after which the event goes on (R51 to R53, log
entry 14). -/
def State.readPas (s : State) (r : Reader) (pas : List Nat) : Got :=
  let ap := pas.filter isAperture
  let bufs := s.links.apBuf.filter (·.r == r)
  let find (pa : Nat) : Option ApBuf := bufs.find? fun b => b.pa ≤ pa && pa < b.pa + b.len
  let missing := ap.filter fun pa => (find pa).isNone
  if ap.isEmpty then .bytes (pas.map fun pa => (readCell s.mem.ram.cells pa, s.mem.ram.poisonedAt pa))
  else if s.links.apEn = false then .fail
  else if missing.isEmpty then
    if ap.any (fun pa => ((find pa).bind (·.data)).isNone) then .fail
    else .bytes (pas.map fun pa =>
      match find pa with
      | some b => ((b.data.getD []).getD (pa - b.pa) 0, false)
      | none => (readCell s.mem.ram.cells pa, s.mem.ram.poisonedAt pa))
  else if s.links.apReads.any (fun x => x.dst == .buf r) || s.links.apQueue.any (fun x => x.dst == .buf r) then .wait s
  else .wait ((spans (missing.foldr insertNat [])).foldl (fun s x => s.apRead x.1 x.2 (.buf r)) s)

/-- A reader has what it needs: the bytes kept for it are dropped. -/
def State.doneReading (s : State) (r : Reader) : State :=
  { s with links := { s.links with apBuf := s.links.apBuf.filter (·.r != r) } }

/-- A read by the Harbourmaster (R148): translated, no range check. -/
inductive HmGot where
  | bytes (bs : List Byte)
  | fail
  | wait (s : State)
  deriving DecidableEq, Repr

/-- The read of `n` bytes at a virtual address for a reader of the Harbourmaster: it fails on a translation fault, a page not present, a poisoned sector or a failed host access. -/
def State.hmGet (s : State) (r : Reader) (asid : BitVec 12) (va n : Nat) : HmGot :=
  match s.hmXlat asid va n with
  | none => .fail
  | some pas =>
    match s.readPas r pas with
    | .fail => .fail
    | .wait s => .wait s
    | .bytes bs => if bs.any (·.2) then .fail else .bytes (bs.map (·.1))

/-- What a run of reads by the Harbourmaster has read has been served, up to the first that fails; and whether none does. -/
def State.hmServedAll (s : State) (r : Reader) (asid : BitVec 12) : List (Nat × Nat) → State × Bool
  | [] => (s, true)
  | (va, n) :: rest =>
    if n = 0 then s.hmServedAll r asid rest
    else
      match s.hmGet r asid va n with
      | .bytes _ => (s.hmServed asid va n).hmServedAll r asid rest
      | _ => (s.hmServed asid va n, false)

/-! ## Accesses of an engine -/

/-- What an engine's read gives (R148 to R150). -/
inductive EngGot where
  | bytes (bs : List (Byte × Bool))
  | fail (c : Cause)
  | fault (page : Page) (kind : Nat)
  | wait (s : State)
  deriving DecidableEq, Repr

/-- An engine's read of global memory: chip scope, at the home slices (R172). -/
def State.engRead (s : State) (r : Reader) (sp : Space) (va n : Nat) : EngGot :=
  match s.checkTlb sp .load va n with
  | .error (.cause c _) => .fail c
  | .error (.fault p k) => .fault p k
  | .ok pas =>
    match s.readPas r pas with
    | .bytes bs => .bytes bs
    | .fail => .fail .hostAccess
    | .wait s => .wait s

/-- An engine's read of global memory has been served at the home slices (R129), for the team's core (log entry 21). -/
def State.engServed (s : State) (sp : Space) (va n : Nat) : State :=
  match s.checkTlb sp .load va n with
  | .ok pas => s.servedFor (coreBit sp.core) pas
  | .error _ => s

/-- A run of bytes that an engine has read has been served, line by line. -/
def State.engServedRun (s : State) (sp : Space) (va n : Nat) : State :=
  (List.range ((va + n + 127) / 128 - va / 128)).foldl (fun s i =>
    let a := max va ((va / 128 + i) * 128)
    s.engServed sp a (min (va + n) ((va / 128 + i + 1) * 128) - a)) s

/-- An engine's write of global memory with the poison of each byte: performed at once at the home slices, posted to the host. -/
def State.engWrite (s : State) (own : ApOwner) (pas : List Nat) (bs : List (Byte × Bool)) : State :=
  let z : List (Nat × Byte × Bool) := pas.zip bs
  let hbm := z.filter fun (x : Nat × Byte × Bool) => isHbm x.1
  let ram := s.mem.ram.store (hbm.map fun (x : Nat × Byte × Bool) => (x.1, x.2.1)) fun sec => hbm.any fun x => x.1 / 16 == sec && x.2.2
  (({ s with mem := { s.mem with ram := ram } }).servedWrite (hbm.map fun (x : Nat × Byte × Bool) => x.1)).apWrites own
    ((z.filter fun (x : Nat × Byte × Bool) => isAperture x.1).map fun (x : Nat × Byte × Bool) => (x.1, x.2.1))

end Sys2Proof.Machine
end

