-- ==== Sys2Proof/Machine/Engines.lean ====
section
/-! DEFINITION. Engine commands (13: R373 to R375; 14: R381 to R391): `push` and `spawn`, the checks at the head, starting, the copy engine, completion. -/

namespace Sys2Proof.Machine

/-! ## Fields of a command -/

/-- Quadword `i` of a command. -/
def Cmd.qw (c : Cmd) (i : Nat) : Word := vget c.q i 0

/-- A field of a quadword. -/
def Cmd.fld (c : Cmd) (i lo w : Nat) : Nat := fieldOf (c.qw i) lo w

/-- The kind, the acquire flag and the completion record's address (Table 14.1). -/
def Cmd.kind (c : Cmd) : Nat := c.fld 0 0 8
/-- The acquire flag. -/
def Cmd.acq (c : Cmd) : Bool := (c.qw 0).getLsbD 8
/-- The completion record's address, 0 for none. -/
def Cmd.crec (c : Cmd) : Nat := c.fld 1 4 48 * 16

/-- The release flag. -/
def Cmd.rel (c : Cmd) : Bool := (c.qw 0).getLsbD 9

/-- A command as the owner of its writes to the host. -/
def Cmd.owner (c : Cmd) (t : Team) : ApOwner := .cmd t.num c.e c.seq

/-- Every write of the command has been performed: none is held for a translation (R172 to R174). -/
def State.writesOut (s : State) (t : Team) (c : Cmd) : Bool := !(s.links.apWrites.any fun w => w.own == c.owner t)

/-- The commands of a team on a queue, lowest number first: the first is the next to be reported (R384). -/
def Team.head (t : Team) (e : Nat) : Option Cmd := t.cmds.find? (·.e == e)

/-- The command of a queue that is the next to be checked and started: those before it have started, and run on (R383, R384). -/
def Team.front (t : Team) (e : Nat) : Option Cmd := t.cmds.find? fun c => c.e == e && (c.st == .queued || c.st == .checked)

/-- A command of a queue that was suspended for a save and has still to go on (R388). -/
def Team.suspendedOn (t : Team) (e : Nat) : Option Cmd := t.cmds.find? fun c => c.e == e && c.suspended && (match c.st with | .running _ => true | _ => false)

/-- Changes a command. -/
def State.modCmd (s : State) (team e : Nat) (seq : BitVec 32) (f : Cmd → Cmd) : State :=
  s.modTeam team fun t => { t with cmds := t.cmds.map fun c => if c.e = e ∧ c.seq = seq then f c else c }

/-! ## `push` and `spawn` -/

/-- The number that a predecessor field names, resolved against eseq as it stands before the push (R382): its queue and number, or none when it names none. -/
def resolvePre (t : Team) (pe pseq : Nat) : Option (Nat × BitVec 32) :=
  let top := vget t.eseq pe 0
  let full := top - BitVec.ofNat 32 ((top.toNat + 2 ^ 16 - pseq) % 2 ^ 16)
  if (5 ≤ pe ∧ pe ≤ 7) ∨ full = 0 then none else some (pe, full)

/-- The command that a push makes from eight successive k registers; a spawn has no header (R374, R375, R382, R410). -/
def newCmd (t : Team) (e : Nat) (q : Vector Word 8) (after : List Nat) (ord : Nat) : Cmd :=
  let h := vget q 0 0
  let ps : List (Option (Nat × BitVec 32)) :=
    if e = 4 then []
    else (if h.getLsbD 21 then [resolvePre t (fieldOf h 22 4) (fieldOf h 32 16)] else []) ++
      (if h.getLsbD 26 then [resolvePre t (fieldOf h 27 4) (fieldOf h 48 16)] else [])
  { e := e, seq := vget t.eseq e 0 + 1, q := q, pre := ps.filterMap id, badPre := ps.any Option.isNone, after := after, ord := ord, st := .queued,
    suspended := false, failed := false, holding := false, heldAt := 0 }

/-- Whether a command's reads wait for the pushing warp's earlier events: with the acquire flag, and always for a spawn (R172, R178). -/
def acquires (e : Nat) (h : Word) : Bool := e == 4 || h.getLsbD 8

/-- What must have been performed before the first access of a command that acquires: the core's dirty sectors are written back, and with the stores not yet
acknowledged and the warp's loads they are waited for (R166, R172). -/
def State.pushAfter (s : State) (c : Ctx) (acq : Bool) : State × List Nat :=
  if acq = false then (s, [])
  else
    let s := s.writeBackAll c.t.core
    (s, (s.core c.t.core).unacked.map (·.tok) ++ ((s.core c.t.core).loads.filter fun l => l.w == c.w).map (·.tok))

/-- `push` and `spawn` (R374, R375): refused with 16 commands of the team outstanding on the queue. -/
def State.push (s : State) (f : PushF) (e : Nat) : Host.Outcome State Fault Refusal :=
  s.asMemory fun s c =>
    match predDst c.w.access f.d with
    | .error x => .error x
    | .ok p =>
      if f.a.toNat < 1664 ∨ 1720 < f.a.toNat then .error (trapOf .illegalOperand f.a.toNat)
      else
        let (tok, s) := s.takeTok
        let done (c : Ctx) (bits : Mask) : Ctx :=
          { c with x := (c.x.writePred p allLanes bits).issueLong { tok := tok, done := false, left := some (f.la.toNat + 1), load := false, grid := false } }
        if c.x.cond f.g = false then
          .ok (s.retireCtx { c with x := c.x.issueLong (longLat tok f.la true false) })
        else if (c.t.cmds.filter fun x => x.e == e).length ≥ 16 then .ok (s.retireNow c fun c => done c allLanes)
        else
          let q : Vector Word 8 := Vector.ofFn fun (i : Fin 8) => c.x.kreg (f.a.toNat - 1664 + i.val)
          let (s, after) := s.pushAfter c (acquires e (vget q 0 0))
          .ok (s.retireNow c fun c =>
            let cmd := newCmd c.t e q after tok
            done { c with t := { c.t with cmds := c.t.cmds ++ [cmd], eseq := vset c.t.eseq e cmd.seq } } 0)

/-- `push` (R374). -/
def execPush (f : PushF) (s : State) : Host.Outcome State Fault Refusal := s.push f f.e.toNat

/-- `spawn` (R375). -/
def execSpawn (f : PushF) (s : State) : Host.Outcome State Fault Refusal := s.push f 4

/-! ## The checks at the head (R383) -/

/-- The block of a team; an empty one when it has none. -/
def State.teamBlock (s : State) (t : Team) : Block :=
  (s.block? t.block).getD { id := 0, task := 0, index := 0, cores := [], shm := 0, shared := [], groups := [], seq := 0 }

/-- The group that a command names holds its channel (R82). -/
def State.groupHolds (s : State) (t : Team) (c : Cmd) : Bool :=
  match c.group with
  | none => true
  | some g => (s.teamBlock t).groups.any fun x => x.gnum == g && x.emask.getLsbD (chanOf c.e)

/-- An engine queue of the team with a producer (R81). -/
def engineQueue (t : Team) (q producer : Nat) : Bool :=
  match t.queues[q]? with
  | some x => x.dir == .engine && x.producer == producer
  | none => false

/-- Every reserved bit of the header is 0, the kind is defined, the predecessors name numbers, the group holds the channel, the record lies in one range. -/
def State.headerBad (s : State) (t : Team) (c : Cmd) : Bool :=
  let sp := s.spaceOf t.num
  let kinds := if c.e = 0 then 2 else if c.e = 3 then 6 else 1
  c.fld 0 31 1 != 0 || c.fld 1 52 12 != 0 || c.fld 1 0 4 != 0 || c.kind == 0 || c.kind > kinds || c.badPre || !s.groupHolds t c ||
    (c.crec != 0 && !inRanges sp.leased c.crec 16 && !inRanges sp.demand c.crec 16)

/-- Two half-open ranges overlap. -/
def rangesMeet (a n b m : Nat) : Bool := 0 < n && 0 < m && a < b + m && b < a + n

/-- The checks of a copy or gather payload (R389). -/
def copyBad (t : Team) (c : Cmd) : Bool :=
  let lin := c.kind == 1
  let ssh := c.fld 2 52 1 == 1
  let dsh := c.fld 3 52 1 == 1
  let dq := c.fld 3 53 1 == 1
  let src := c.fld 2 0 52
  let dst := c.fld 3 0 52
  let rowlen := c.fld 4 32 16
  let nidx := c.fld 4 48 13
  let swz := c.fld 6 32 4
  let stride := c.fld 6 0 32
  let srcLen := if lin then c.fld 4 0 32 else c.fld 4 0 32 * rowlen
  let dstLen := if lin then c.fld 4 0 32 else nidx * stride
  c.fld 2 53 11 != 0 || c.fld 3 54 10 != 0 || ((ssh || dsh) && dq) || (ssh && src ≥ 2 ^ 32) || (dsh && dst ≥ 2 ^ 32) || (dq && dst ≥ 64) ||
    (dq && !engineQueue t dst 4) ||
    (if lin then c.fld 4 32 32 != 0 || c.qw 5 != 0 || c.qw 6 != 0 || c.qw 7 != 0
      else c.fld 4 61 3 != 0 || c.fld 5 52 12 != 0 || c.fld 5 0 2 != 0 || c.fld 6 36 28 != 0 || c.qw 7 != 0 || nidx == 0 || nidx > 4096 ||
        rowlen < 16 || c.fld 4 0 32 == 0 || swz > 8 || rowlen % (16 * 2 ^ swz) != 0 ||
        (if dq then stride != 0 || swz != 0 else stride % 16 != 0 || stride < rowlen)) ||
    (!dq && ssh == dsh && rangesMeet src srcLen dst dstLen)

/-- The checks of a Lighter payload made at the head (R392, R393). -/
def lighterBad (t : Team) (c : Cmd) : Bool :=
  c.fld 2 0 2 != 0 || c.fld 3 12 4 != 0 || c.fld 3 6 2 != 0 || c.fld 7 52 12 != 0 || c.fld 7 0 4 != 0 || !engineQueue t (c.fld 3 0 6) 0

/-- The checks of a Pilot payload made at the head (R399). -/
def pilotBad (t : Team) (c : Cmd) : Bool :=
  c.fld 2 57 7 != 0 || c.fld 2 0 2 != 0 || c.fld 3 52 12 != 0 || c.fld 3 0 3 != 0 || c.fld 4 35 29 != 0 || c.fld 4 6 2 != 0 || c.fld 4 16 16 == 0 ||
    !engineQueue t (c.fld 4 0 6) 2

/-- The pieces in which a decode command outputs a tile: a header and 8 or 16 data units for a queue, one store for memory (R68). -/
def Cmd.av1Per (c : Cmd) : Nat := if c.fld 3 55 2 = 0 then (if c.fld 3 54 1 = 1 then 17 else 9) else 1

/-- The stream context that a decode command names. -/
def State.av1Ctx (s : State) (unit ctx : Nat) : Av1Ctx := vget (vget s.links.av1 unit (Vector.replicate 8 Av1Ctx.free)) ctx Av1Ctx.free

/-- The checks of a decode payload (R404). -/
def State.av1Bad (s : State) (t : Team) (c : Cmd) : Bool :=
  let dk := c.fld 3 55 2
  let x := s.av1Ctx (c.e - 8) (c.fld 3 48 3)
  let stride := c.fld 5 0 32
  c.fld 2 52 12 != 0 || c.fld 3 62 2 != 0 || dk == 3 || c.fld 3 32 16 == 0 || c.fld 5 33 31 != 0 || c.qw 6 != 0 || c.qw 7 != 0 ||
    (x.owner.isSome && x.owner != some t.num) || (c.fld 3 51 1 == 0 && x.owner != some t.num) ||
    (if dk = 0 then c.fld 4 6 58 != 0 || !engineQueue t (c.fld 4 0 6) 1 || stride != 0
      else (if dk = 1 then c.fld 4 32 32 != 0 else c.fld 4 52 12 != 0) || stride % 64 != 0 || stride < (if c.fld 3 54 1 = 0 then 2112 else 4160))

/-- A collective list. -/
def State.collList (s : State) (l : Nat) : CollList := (s.links.lists[l]?).getD { members := [], lost := false, ops := 0 }

/-- The types of a reduction (Table 2.8). -/
def collType (t : Nat) : Bool := t == 2 || t == 3 || t == 6 || t == 7 || t == 8 || t == 9 || t == 10

/-- The checks of a collective payload, and the limits of Table 2.8 (R62, R408). -/
def State.collBad (s : State) (c : Cmd) : Bool :=
  let k := c.kind
  let red := k == 1 || k == 2 || k == 3
  let count := c.fld 4 0 32
  let ty := c.fld 4 32 4
  let oper := c.fld 4 36 3
  let root := c.fld 4 46 10
  let l := s.collList (c.fld 4 40 6)
  let n := l.members.length
  let bytes := count * accSize (BitVec.ofNat 4 ty)
  c.fld 2 52 12 != 0 || c.fld 3 52 12 != 0 || c.fld 4 39 1 != 0 || c.fld 4 56 8 != 0 || c.qw 5 != 0 || c.qw 6 != 0 || c.qw 7 != 0 ||
    (if red then !collType ty || oper > 5 || (3 ≤ oper && 8 ≤ ty) else ty != 0 || oper != 0) ||
    (!(k == 3 || k == 5) && root != 0) ||
    (k == 6 && (c.qw 2 != 0 || c.qw 3 != 0 || count != 0)) ||
    ((k == 1 || k == 3) && (bytes < 4 || bytes > 2 ^ 30)) || (k == 4 && (count < 256 || count > 2 ^ 30)) || (k == 5 && (count < 1 || count > 2 ^ 30)) ||
    n < 2 || !l.members.contains s.links.self.toNat || (k == 2 && count % n != 0) || ((k == 3 || k == 5) && !l.members.contains root)

/-- The command at the head is bad (R383). -/
def State.cmdBad (s : State) (t : Team) (c : Cmd) : Bool :=
  if c.e = 4 then false
  else s.headerBad t c || (if c.e = 0 then copyBad t c else if c.e = 1 then lighterBad t c else if c.e = 2 then pilotBad t c
    else if c.e = 3 then s.collBad c else s.av1Bad t c)

/-! ## Starting (R384) -/

/-- Every predecessor has completed. -/
def Cmd.preDone (c : Cmd) (t : Team) : Bool := c.pre.all fun p => (vget t.edone p.1 0 - p.2).toNat < 2 ^ 31

/-- Everything that its acquire waits for has been performed. -/
def State.afterDone (s : State) (t : Team) (c : Cmd) : Bool :=
  c.after.all fun k => !((s.core t.core).unacked.any (·.tok == k)) && !((s.core t.core).loads.any (·.tok == k))

/-- A team whose commands may run: not saving, saved or being restored. -/
def Team.runsEngines (t : Team) : Bool := t.st == .resident || t.st == .parked || t.st == .saving

/-- A command that another team's may not overtake on the Lighter slot of their core (R384, R392): suspended, or at the front of its queue, its predecessors complete, whether it has been
checked or not. A team that is being saved, or is saved, starts none. -/
def State.lighterFirst (s : State) (t u : Team) (c : Cmd) : Bool :=
  u.core == t.core && u.num != t.num && (u.st == .resident || u.st == .parked) &&
    ((match u.front 1 with | some d => d.preDone u && s.afterDone u d && d.ord < c.ord | none => false) ||
      (match u.suspendedOn 1 with | some d => d.ord < c.ord | none => false))

/-- The engine can take the command: the Lighter slot of a core runs one at a time, in push order; a collective list takes its commands in push order over the device; a stream context
decodes for one command at a time; the others run concurrently (R67, R384, R392, R409; log entry 56). -/
def State.engineFree (s : State) (t : Team) (c : Cmd) : Bool :=
  if c.e = 1 then
    (s.core t.core).lightCmd.isNone && !(s.hm.teams.any fun u => s.lighterFirst t u c)
  else if c.e = 3 then
    !(s.hm.teams.any fun u => u.cmds.any fun d => d.e == 3 && d.ord < c.ord && d.fld 4 40 6 == c.fld 4 40 6 &&
      (match d.st with | .finished _ _ _ | .arrived _ _ _ => false | _ => true))
  else if 8 ≤ c.e then
    !(s.hm.teams.any fun u => u.cmds.any fun d => d.e == c.e && d.ord != c.ord && d.fld 3 48 3 == c.fld 3 48 3 && !d.suspended && (match d.st with | .running _ => true | _ => false))
  else true

/-- A Lighter machine before its program is read (R393). -/
def Lighter.init (c : Cmd) : Lighter :=
  let u := c.fld 3 8 4 + 1
  { prog := [], s := #v[c.qw 4, c.qw 5, c.qw 6, 0, 0, 0, 0, 0, 0, 0, 0, 0, 0, 0, 0, 0], tile := List.replicate u 0, tpois := List.replicate u none,
    mask := 0, tileNo := 0, recov := c.fld 2 52 12 + 1, pc := 0, run := 0, errors := 0, err := none }

/-- How a command begins. -/
def Cmd.begin (c : Cmd) : Progress :=
  if c.e = 0 then (if c.kind = 1 then .copy 0 else .gather 0 0 0)
  else if c.e = 1 then .lighter (Lighter.init c)
  else if c.e = 2 then .pilot { prog := [], next := 0, walks := [], done := 0, limits := 0, faults := 0 }
  else if c.e = 3 then .coll
  else .av1 { begun := false, frame := 0, tileNo := 0, bad := 0, whole := 0, waitFor := none, pos := 0 }

/-- Changes the stream context that a decode command names. -/
def State.modAv1 (s : State) (c : Cmd) (f : Av1Ctx → Av1Ctx) : State :=
  let u := c.e - 8
  let row := vget s.links.av1 u (Vector.replicate 8 Av1Ctx.free)
  { s with links := { s.links with av1 := vset s.links.av1 u (vset row (c.fld 3 48 3) (f (s.av1Ctx u (c.fld 3 48 3)))) } }

/-- A decode command's context has gone to another team since the command was checked (R404; log entry 64). -/
def State.streamLost (s : State) (t : Team) (c : Cmd) : Bool :=
  8 ≤ c.e && (let x := s.av1Ctx (c.e - 8) (c.fld 3 48 3); (x.owner.isSome || c.fld 3 51 1 == 0) && x.owner != some t.num)

/-- A decode command that begins a stream takes its context when it starts (R404). -/
def State.takeStream (s : State) (t : Team) (c : Cmd) : State :=
  if 8 ≤ c.e ∧ c.fld 3 51 1 = 1 then s.modAv1 c fun x => { x with owner := some t.num } else s

/-- A core's engine taken by a command. -/
def State.takeEngine (s : State) (t : Team) (c : Cmd) : State :=
  if c.e = 0 then s.modCore t.core fun k => { k with copyCmd := k.copyCmd ++ [(t.num, c.seq)] }
  else if c.e = 1 then s.modCore t.core fun k => { k with lightCmd := some (t.num, c.seq) }
  else s

/-- A core's engine freed. -/
def State.freeEngine (s : State) (t : Team) (c : Cmd) : State :=
  s.modCore t.core fun k => { k with
    copyCmd := k.copyCmd.filter (· != (t.num, c.seq) || c.e != 0)
    lightCmd := k.lightCmd.filter (· != (t.num, c.seq) || c.e != 1) }

/-- A command ends with a status, a cause and a count; the smallest status that applies is its (R385). -/
def State.finish (s : State) (t : Team) (c : Cmd) (status cause count : Nat) : State :=
  ((s.freeEngine t c).modCmd t.num c.e c.seq fun x => { x with st := .finished status cause count, failed := false, holding := false }).doneReading
    (.cmd t.num c.e c.seq)

/-- ENGINE_COMMAND_START (R383, R384): the command at the front is checked; a checked command starts when its predecessors have completed and its engine is free, unless another
team has taken the context of its stream meanwhile (R404); a command suspended for a save goes on after the restore (R388). -/
def execEngineCommandStart (team e : Nat) (s : State) : Host.Outcome State Fault Refusal :=
  .next <|
    match s.team? team with
    | none => s
    | some t =>
      if t.runsEngines = false ∨ e = 4 then s
      else
        match t.suspendedOn e, t.front e with
        | some c, _ =>
          if t.st ≠ .saving ∧ s.engineFree t c = true then (s.takeEngine t c).modCmd team e c.seq fun x => { x with suspended := false } else s
        | none, none => s
        | none, some c =>
          if c.st = .queued then (if s.cmdBad t c then s.finish t c 1 0 0 else s.modCmd team e c.seq fun x => { x with st := .checked })
          else if t.st ≠ .saving ∧ c.preDone t = true ∧ s.afterDone t c = true ∧ s.engineFree t c = true then
            if s.streamLost t c then s.finish t c 1 0 0
            else ((s.takeEngine t c).takeStream t c).modCmd team e c.seq fun x => { x with st := .running x.begin }
          else s

/-! ## Faults of a command -/

/-- A demand fault of a command: "fault failed" when there is no fault ring; else the command holds on it (R150, R151). With no slot free it is met again. A command
marked failed, whose fault was resolved with outcome 1, makes the access no more: it fails at once. -/
def State.cmdFault (s : State) (t : Team) (c : Cmd) (page : Page) (kind : Nat) (a : Acc) : Except Cause State :=
  if s.noRing = true then .error .faultFailed
  else
    match s.raiseFault (s.spaceOf t.num) t.num page kind (.cmd t.num c.e c.seq a) with
    | none => .ok s
    | some (_, s) => .ok (s.modCmd t.num c.e c.seq fun x => { x with holding := true })

/-- The running commands of a team's queue that are neither suspended nor held. -/
def Team.runningOn (t : Team) (e : Nat) : List (Cmd × Progress) :=
  t.cmds.filterMap fun c => if c.e = e ∧ c.suspended = false ∧ c.holding = false then (match c.st with | .running p => some (c, p) | _ => none) else none

/-- The command of a team's queue that goes on next: of several that run, which one nothing constrains (R384, R415; a free value, log entry 56). -/
def State.running? (s : State) (team e : Nat) : Option (Team × Cmd × Progress) :=
  match s.team? team with
  | none => none
  | some t =>
    if t.runsEngines = false then none
    else
      match t.runningOn e with
      | [] => none
      | [x] => some (t, x)
      | x :: r => some (t, (x :: r).getD (Config.freePick s.tick % (r.length + 1)) x)

/-! ## The copy engine (R389 to R391) -/

/-- The place of a copy in its output: offset, indices at or above nrow, the index of the row in hand. -/
structure CopyPos where
  off    : Nat
  misses : Nat
  idx    : Nat
  deriving DecidableEq, Repr

/-- How a unit of output ends. -/
inductive CopyEnd where
  | more
  | fail (c : Cause)
  | fault (page : Page) (kind : Nat) (a : Acc)
  | wait
  deriving DecidableEq, Repr

/-- A read of shared memory by an engine (R125). -/
def Block.engShared (b : Block) (a n : Nat) : EngGot :=
  if b.inShared a n then .bytes (tab n fun i => ((b.sharedBytes (a + i) 1).headD 0, b.sharedPoison (a + i) 1)) else .fail .sharedRange

/-- A source of a copy: shared or global memory. -/
def State.copyRead (s : State) (t : Team) (c : Cmd) (sh : Bool) (a n : Nat) : EngGot :=
  if sh then (s.teamBlock t).engShared a n else s.engRead (.cmd t.num c.e c.seq) (s.spaceOf t.num) a n

/-- A write of a copy: shared or global memory. -/
def State.copyWrite (s : State) (t : Team) (c : Cmd) (sh : Bool) (a : Nat) (bs : List (Byte × Bool)) : Except AccFail State :=
  if sh then
    if (s.teamBlock t).inShared a bs.length then
      .ok (s.modBlock t.block fun b => b.sharedBytesStore (bs.zipIdx.map fun x => { lane := 0, pa := a + x.2, val := x.1.1, bad := x.1.2 }))
    else .error (.cause .sharedRange a)
  else
    match s.checkTlb (s.spaceOf t.num) .store a bs.length with
    | .error e => .error e
    | .ok pas => .ok (s.engWrite (c.owner t) pas bs)

/-- The index of the row at an output offset of a gather: read once, when the row begins. -/
def State.copyIndex (s : State) (t : Team) (c : Cmd) (p : CopyPos) : EngGot × CopyPos :=
  let rowlen := c.fld 4 32 16
  if c.kind = 1 ∨ p.off % rowlen ≠ 0 then (.bytes [], p)
  else
    match s.engRead (.cmd t.num c.e c.seq) (s.spaceOf t.num) (c.fld 5 0 52 + 4 * (p.off / rowlen)) 4 with
    | .bytes bs =>
      if bs.any (·.2) then (.fail .uncorrectable, p)
      else
        let x := leNat (bs.map (·.1))
        (.bytes [], { p with idx := x, misses := p.misses + b2n (decide (c.fld 4 0 32 ≤ x)) })
    | e => (e, p)

/-- The source bytes of the output bytes `[off, off + n)`. -/
def State.copySource (s : State) (t : Team) (c : Cmd) (p : CopyPos) (n : Nat) : EngGot :=
  let rowlen := c.fld 4 32 16
  let sh := c.fld 2 52 1 == 1
  if c.kind = 1 then s.copyRead t c sh (c.fld 2 0 52 + p.off) n
  else if c.fld 4 0 32 ≤ p.idx then .bytes (List.replicate n (0, false))
  else s.copyRead t c sh (c.fld 2 0 52 + p.idx * rowlen + p.off % rowlen) n

/-- What the slices have served of the reads of an output of `n` bytes: the row's index, when the row begins, and the source (R129). -/
def State.copyServed (s : State) (t : Team) (c : Cmd) (p : CopyPos) (n : Nat) : State :=
  let sp := s.spaceOf t.num
  let rowlen := c.fld 4 32 16
  let s := if c.kind = 1 ∨ p.off % rowlen ≠ 0 then s else s.engServed sp (c.fld 5 0 52 + 4 * (p.off / rowlen)) 4
  if c.fld 2 52 1 = 1 ∨ (c.kind ≠ 1 ∧ c.fld 4 0 32 ≤ p.idx) then s
  else s.engServed sp (if c.kind = 1 then c.fld 2 0 52 + p.off else c.fld 2 0 52 + p.idx * rowlen + p.off % rowlen) n

/-- Where the output at an offset is written. -/
def copyDest (c : Cmd) (off : Nat) : Nat :=
  let rowlen := c.fld 4 32 16
  if c.kind = 1 then c.fld 3 0 52 + off
  else
    let i := off / rowlen
    c.fld 3 0 52 + i * c.fld 6 0 32 + 16 * ((off % rowlen / 16) ^^^ (i % 2 ^ c.fld 6 32 4))

/-- The output up to `stop`, sector by sector: written, or kept for a queue entry. -/
def State.copySectors (t : Team) (c : Cmd) (stop : Nat) : Nat → State → CopyPos → List (Byte × Bool) → State × CopyPos × List (Byte × Bool) × CopyEnd
  | 0, s, p, acc => (s, p, acc, .more)
  | fuel + 1, s, p, acc =>
    if stop ≤ p.off then (s, p, acc, .more)
    else
      match s.copyIndex t c p with
      | (.fail e, _) => (s, p, acc, .fail e)
      | (.fault a k, _) => (s, p, acc, .fault a k .load)
      | (.wait s, _) => (s, p, acc, .wait)
      | (.bytes _, p') =>
        let n := min 16 (stop - p.off)
        match s.copySource t c p' n with
        | .fail e => (s, p, acc, .fail e)
        | .fault a k => (s, p, acc, .fault a k .load)
        | .wait s => (s, p, acc, .wait)
        | .bytes bs =>
          if c.fld 3 53 1 = 1 then State.copySectors t c stop fuel (s.copyServed t c p' n) { p' with off := p.off + n } (acc ++ bs)
          else
            match s.copyWrite t c (c.fld 3 52 1 == 1) (copyDest c p.off) bs with
            | .error (.cause e _) => (s, p, acc, .fail e)
            | .error (.fault a k) => (s, p, acc, .fault a k .store)
            | .ok s => State.copySectors t c stop fuel ((s.copyServed t c p' n).doneReading (.cmd t.num c.e c.seq)) { p' with off := p.off + n } acc

/-- An entry with an engine's bytes: Poisoned with "uncorrectable" when some are poisoned (R390). -/
def engEntry (bs : List (Byte × Bool)) : Entry :=
  if bs.any (·.2) then { st := .poisoned .uncorrectable, data := 0, psec := 0 } else Entry.ready (ofBytes (bs.map (·.1)))

/-- Pushes entries an engine has filled; none when the queue lacks room (R203, R204, R384). -/
def State.engPush (s : State) (t : Team) (q : Nat) (es : List Entry) : Option State :=
  match t.queues[q]? with
  | none => some s
  | some x =>
    if t.noConsumer x then some s
    else if x.hasRoom es.length = false then none
    else some (s.modTeam t.num fun t => t.setQueue q (es.foldl Queue.alloc x))

/-- One 256-byte unit of output of a copy or gather. -/
def State.copyUnit (s : State) (t : Team) (c : Cmd) (p : CopyPos) : State :=
  let total := if c.kind = 1 then c.fld 4 0 32 else c.fld 4 48 13 * c.fld 4 32 16
  let stop := min total ((p.off / 256 + 1) * 256)
  let dq := c.fld 3 53 1 == 1
  let keep (s : State) (p : CopyPos) : State :=
    s.modCmd t.num c.e c.seq fun x => { x with failed := false, st := .running (if c.kind = 1 then .copy p.off else .gather p.off p.misses p.idx) }
  if c.failed then s.finish t c 2 Cause.faultFailed.code c.heldAt
  else if total ≤ p.off then s.finish t c 0 0 p.misses
  else
    match State.copySectors t c stop 17 s p [] with
    | (s, p', acc, .more) =>
      let s' := if dq then s.engPush t (c.fld 3 0 6) [engEntry acc] else some s
      (match s' with
      | none => keep s p
      | some s => if stop = total then s.finish t c 0 0 p'.misses else (keep s p').doneReading (.cmd t.num c.e c.seq))
    | (s, p', _, .fail e) => s.finish t c 2 e.code p'.off
    | (s, p', _, .wait) => keep s (if dq then p else p')
    | (s, p', _, .fault page k a) =>
      match s.cmdFault t c page k a with
      | .error e => s.finish t c 2 e.code p'.off
      | .ok s => (keep s (if dq then p else p')).modCmd t.num c.e c.seq fun x => { x with heldAt := p'.off }

/-- COPY_LINEAR (R390). -/
def execCopyLinear (team : Nat) (s : State) : Host.Outcome State Fault Refusal :=
  .next <|
    match s.running? team 0 with
    | some (t, c, .copy off) => s.copyUnit t c { off := off, misses := 0, idx := 0 }
    | _ => s

/-- ROW_GATHER (R390). -/
def execRowGather (team : Nat) (s : State) : Host.Outcome State Fault Refusal :=
  .next <|
    match s.running? team 0 with
    | some (t, c, .gather off misses idx) => s.copyUnit t c { off := off, misses := misses, idx := idx }
    | _ => s

/-! ## Completion (R384 to R386) -/

/-- The completion record (Table 14.2). -/
def complRecord (seq : BitVec 32) (status cause count : Nat) : List (Byte × Bool) :=
  (leBytes 4 seq.toNat ++ leBytes 1 status ++ leBytes 1 cause ++ leBytes 2 0 ++ leBytes 8 count).map fun b => (b, false)

/-- The command leaves its team and edone takes its number; an instance that waited only for it completes (R371). -/
def State.complete (s : State) (t : Team) (c : Cmd) : State :=
  (s.modTeam t.num fun t =>
    { t with cmds := t.cmds.filter fun x => !(x.e == c.e && x.seq == c.seq), edone := vset t.edone c.e c.seq }).settleBarriers t.block

/-- The record is not written, and that is counted (R154, R384). -/
def State.recDrop (s : State) : State := s.setCtr { s.mem.ctr with recDrop := s.mem.ctr.recDrop + 1 }

/-- The completion record of a command whose arrival has been made, then edone; a demand fault holds it (R384). -/
def State.report (s : State) (t : Team) (c : Cmd) (status cause count : Nat) : State :=
  let sp := s.spaceOf t.num
  if c.crec = 0 then s.complete t c
  else if c.failed then s.recDrop.complete t c
  else
    match s.checkTlb sp .store c.crec 16 with
    | .ok pas => (s.engWrite (c.owner t) pas (complRecord c.seq status cause count)).complete t c
    | .error (.cause _ _) => if status = 1 ∧ inRanges sp.leased c.crec 16 = false ∧ inRanges sp.demand c.crec 16 = false then s.complete t c else s.recDrop.complete t c
    | .error (.fault a k) =>
      match s.cmdFault t c a k .store with
      | .error _ => s.recDrop.complete t c
      | .ok s => s

/-- COMMAND_COMPLETE (R172, R173, R384 to R386): once every write of the command has been performed, the group arrival, then the record, then edone. A decoder has arrived frame by frame, but for a bad command. -/
def execCommandComplete (team e : Nat) (s : State) : Host.Outcome State Fault Refusal :=
  .next <|
    match s.team? team with
    | none => s
    | some t =>
      match t.head e with
      | none => s
      | some c =>
        if c.holding ∨ t.runsEngines = false ∨ s.writesOut t c = false then s
        else
          match c.st with
          | .finished st cause count =>
            let s := match c.group with
              | some g => if s.groupHolds t c = true ∧ (e < 8 ∨ st = 1) then s.arrive t.block g (.chan (chanOf e)) (st != 0) else s
              | none => s
            let s := s.modCmd team e c.seq fun x => { x with st := .arrived st cause count }
            (match s.team? team with
            | none => s
            | some t => s.report t c st cause count)
          | .arrived st cause count => s.report t c st cause count
          | _ => s

/-- A running command stands at a suspension point of Table 14.4: a copy after whole 256-byte units of output, a decoder after whole tiles; the Lighter and the Pilot between any two of the
model's events. -/
def Cmd.suspends (c : Cmd) : Progress → Bool
  | .copy off | .gather off _ _ => off % 256 == 0
  | .av1 r => r.pos % c.av1Per == 0
  | .coll => false
  | _ => true

/-- ENGINE_SUSPEND (R388): in a team that is being saved a running command that stands at a suspension point is suspended and frees its engine; a collective cannot be. -/
def execEngineSuspend (team e : Nat) (s : State) : Host.Outcome State Fault Refusal :=
  .next <|
    match s.team? team with
    | none => s
    | some t =>
      match t.cmds.find? fun c => c.e == e && !c.suspended && (match c.st with | .running p => c.suspends p | _ => false) with
      | none => s
      | some c => if t.st = .saving ∧ e ≠ 3 then (s.freeEngine t c).modCmd team e c.seq fun x => { x with suspended := true } else s

end Sys2Proof.Machine
end

