-- ==== Sys2Proof/Machine/Av1.lean ====
section
/-! DEFINITION. AV1 decode (02: R66 to R70; 14: R404 to R406; R430): streams, frames, tiles. What a bitstream decodes to is the AV1 specification's, a free value here
(log entry 7). -/

namespace Sys2Proof.Machine

/-! ## Streams -/

/-- The stream context of a command. -/
def State.ctxOf (s : State) (c : Cmd) : Av1Ctx := s.av1Ctx (c.e - 8) (c.fld 3 48 3)

/-- The part of a stream that a command brings, nothing of it read. -/
def Cmd.part (c : Cmd) : Av1Part :=
  { annexb := c.fld 3 52 1 == 1, op := c.fld 3 57 5, grain := c.fld 3 53 1 == 1, frames := 0, bytes := [], mark := 0 }

/-- A context as a command begins on it (R404): with `new` a new stream, every reference slot invalid. -/
def Av1Ctx.begin (x : Av1Ctx) (t : Team) (c : Cmd) : Av1Ctx :=
  if c.fld 3 51 1 = 1 then { owner := some t.num, slots := 0, parts := [c.part], excluded := false, unread := false } else { x with parts := x.parts ++ [c.part] }

/-- The last part of a stream changed. -/
def Av1Ctx.modPart (x : Av1Ctx) (f : Av1Part → Av1Part) : Av1Ctx :=
  { x with parts := x.parts.modify (x.parts.length - 1) f }

/-- The bytes of the last part read so far. -/
def Av1Ctx.bytesRead (x : Av1Ctx) : Nat := ((x.parts.getLast?).map (·.bytes.length)).getD 0

/-- AV1_DECODE (R404): the command begins or continues a stream of its context; ownership is looked at again, since another team may have begun a stream there. -/
def execAv1Decode (team unit : Nat) (s : State) : Host.Outcome State Fault Refusal :=
  .next <|
    match s.running? team (8 + unit) with
    | some (t, c, .av1 r) =>
      let x := s.ctxOf c
      if r.begun then s
      else if x.owner.isSome ∧ x.owner ≠ some t.num then s.finish t c 1 0 0
      else (s.modAv1 c fun x => x.begin t c).modCmd team c.e c.seq fun d => { d with st := .running (.av1 { r with begun := true }) }
    | _ => s

/-! ## Facts of a frame (free values) -/

/-- The number of bytes of the part that decoding reads up to the end of the frame. -/
def Av1Ctx.factRead (x : Av1Ctx) (f : Nat) : Nat := Config.av1Fact x.parts f 0
/-- The bitstream ends before the frame, though it reached the one before. -/
def Av1Ctx.missing (x : Av1Ctx) (f : Nat) : Bool := Config.av1Fact x.parts f 1 != 0
/-- The decoding of the frame meets a syntax error, a value out of range, an OBU that overruns its size or a trailing-bits mismatch (R70). -/
def Av1Ctx.broken (x : Av1Ctx) (f : Nat) : Bool := Config.av1Fact x.parts f 2 != 0
/-- The tiles decoded before the error is met. -/
def Av1Ctx.good (x : Av1Ctx) (f : Nat) : Nat := Config.av1Fact x.parts f 3
/-- Width, height: luma samples. -/
def Av1Ctx.width (x : Av1Ctx) (f : Nat) : Nat := Config.av1Fact x.parts f 4
/-- Height. -/
def Av1Ctx.height (x : Av1Ctx) (f : Nat) : Nat := Config.av1Fact x.parts f 5
/-- The bit depth, 8 or 10 (Table 2.9). -/
def Av1Ctx.depth (x : Av1Ctx) (f : Nat) : Nat := if Config.av1Fact x.parts f 6 = 0 then 8 else 10
/-- 4:0:0: the luma plane alone. -/
def Av1Ctx.mono (x : Av1Ctx) (f : Nat) : Bool := Config.av1Fact x.parts f 7 != 0
/-- Film grain has been applied; never without the command's grain flag. -/
def Av1Ctx.grained (x : Av1Ctx) (f : Nat) : Bool :=
  Config.av1Fact x.parts f 12 != 0 && ((x.parts.getLast?).map (·.grain)).getD false
/-- The reference slots that the frame references. -/
def Av1Ctx.uses (x : Av1Ctx) (f : Nat) : BitVec 8 := BitVec.ofNat 8 (Config.av1Fact x.parts f 9)
/-- The reference slots that the frame refreshes. -/
def Av1Ctx.refreshes (x : Av1Ctx) (f : Nat) : BitVec 8 := BitVec.ofNat 8 (Config.av1Fact x.parts f 10)
/-- The frame is coded with large_scale_tile = 1, which Table 2.9 excludes. -/
def Av1Ctx.largeScale (x : Av1Ctx) (f : Nat) : Bool := Config.av1Fact x.parts f 8 != 0

/-! ## What precedes a frame -/

/-- A unit of the bitstream between an output frame and the one before it. -/
inductive Av1Unit where
  | seqHeader
  | hidden
  | other
  deriving DecidableEq, Repr

/-- The number of units before the frame's own. -/
def Av1Ctx.unitCount (x : Av1Ctx) (f : Nat) : Nat := Config.av1Fact x.parts f 11
/-- Fact `i` of unit `j`. -/
def Av1Ctx.unitFact (x : Av1Ctx) (f j i : Nat) : Nat := Config.av1Fact x.parts f (16 + 16 * j + i)
/-- What unit `j` is. -/
def Av1Ctx.unitAt (x : Av1Ctx) (f j : Nat) : Av1Unit := match x.unitFact f j 0 with | 0 => .seqHeader | 1 => .hidden | _ => .other
/-- Where unit `j` ends, as a count of the part's bytes; the frame's own begins where the last one ends. -/
def Av1Ctx.unitEnd (x : Av1Ctx) (f j : Nat) : Nat := x.unitFact f j 1
/-- Where unit `j` begins: where the one before it ends, the first where the last frame's bytes do. -/
def Av1Ctx.unitStart (x : Av1Ctx) (f j : Nat) : Nat := if j = 0 then ((x.parts.getLast?).map (·.mark)).getD 0 else x.unitEnd f (j - 1)
/-- A read of the part's bytes from `a` up to `b` has failed (R405). -/
def Av1Ctx.failedIn (x : Av1Ctx) (a b : Nat) : Bool := (((((x.parts.getLast?).map (·.bytes)).getD []).take b).drop a).any Option.isNone

/-- Table 2.9 excludes the sequence header that unit `j` is: its profile is not Main, its level is above 6.1, its bit depth neither 8 nor 10, or it is neither 4:2:0 nor 4:0:0. -/
def Av1Ctx.excludes (x : Av1Ctx) (f j : Nat) : Bool :=
  let profile := x.unitFact f j 2
  let major := x.unitFact f j 3
  let minor := x.unitFact f j 4
  let depth := x.unitFact f j 5
  let subX := x.unitFact f j 6
  let subY := x.unitFact f j 7
  let mono := x.unitFact f j 8 != 0
  profile != 0 || major > 6 || (major == 6 && minor > 1) || !(depth == 8 || depth == 10) || !(mono || (subX == 1 && subY == 1))

/-- A context once the decoder has passed unit `j` (R70, R405): a sequence header read whole comes into force; a frame that is not shown leaves the slots it refreshes valid, invalid when it
is corrupt; a failed read outside a frame is kept until a sequence header is read whole. -/
def Av1Ctx.pass (x : Av1Ctx) (y : Av1Ctx) (f j : Nat) : Av1Ctx :=
  let failed := x.failedIn (x.unitStart f j) (x.unitEnd f j)
  match x.unitAt f j with
  | .seqHeader => if failed then { y with unread := true } else { y with unread := false, excluded := x.excludes f j }
  | .other => if failed then { y with unread := true } else y
  | .hidden =>
    let uses : BitVec 8 := BitVec.ofNat 8 (x.unitFact f j 2)
    let fresh : BitVec 8 := BitVec.ofNat 8 (x.unitFact f j 3)
    if failed || y.excluded || x.unitFact f j 4 != 0 || x.unitFact f j 5 != 0 || uses &&& ~~~y.slots != 0 then { y with slots := y.slots &&& ~~~fresh }
    else { y with slots := y.slots ||| fresh }

/-- The context when the frame itself is decoded: every unit before it passed. -/
def Av1Ctx.settled (x : Av1Ctx) (f : Nat) : Av1Ctx := (List.range (x.unitCount f)).foldl (fun y j => x.pass y f j) x

/-- A read made while the frame was being decoded has failed: it is charged to the frame (R405). -/
def Av1Ctx.charged (x : Av1Ctx) (f : Nat) : Bool := x.failedIn (x.unitStart f (x.unitCount f)) (x.factRead f)

/-- The cause of a corrupt frame, 0 when it is not corrupt (R70, R405, Table 2.10): 4 when a read charged to it has failed, or one that no later sequence header has mended; 2 under an excluded sequence
header; else its own error: 1, 2 or 3 (log entry 7). -/
def Av1Ctx.cause (x : Av1Ctx) (f : Nat) : Nat :=
  let y := x.settled f
  if x.charged f || y.unread then 4 else if y.excluded then 2 else if x.broken f then 1 else if x.largeScale f then 2 else if x.uses f &&& ~~~y.slots != 0 then 3 else 0

/-- The valid slots after the frame: those it refreshes are valid when it is not corrupt, invalid when it is (R70). -/
def Av1Ctx.slotsAfter (x : Av1Ctx) (f : Nat) : BitVec 8 :=
  if x.cause f = 0 then (x.settled f).slots ||| x.refreshes f else (x.settled f).slots &&& ~~~(x.refreshes f)

/-! ## Tiles (R68, R69) -/

/-- A plane's size in samples: chroma planes are halved, rounded up. -/
def planeDim (n plane : Nat) : Nat := if plane = 0 then n else (n + 1) / 2

/-- A tile: its plane, its row and its column of tiles. -/
structure TileAt where
  plane : Nat
  row   : Nat
  col   : Nat
  deriving DecidableEq, Repr

/-- The tiles of a frame: planes Y, U, V, each in raster order (R68). -/
def Av1Ctx.tiles (x : Av1Ctx) (f : Nat) : List TileAt :=
  (List.range (if x.mono f then 1 else 3)).flatMap fun p =>
    (List.range ((planeDim (x.height f) p + 31) / 32)).flatMap fun r =>
      (List.range ((planeDim (x.width f) p + 63) / 64)).map fun k => { plane := p, row := r, col := k }

/-- The valid rows and columns of a tile. -/
def Av1Ctx.validRows (x : Av1Ctx) (f : Nat) (t : TileAt) : Nat := min 32 (planeDim (x.height f) t.plane - 32 * t.row)
/-- The valid columns. -/
def Av1Ctx.validCols (x : Av1Ctx) (f : Nat) (t : TileAt) : Nat := min 64 (planeDim (x.width f) t.plane - 64 * t.col)

/-- A sample as int8: scaled to 8 bits, rounded to nearest even, saturated, less 128 (R69). -/
def av1Int8 (d v : Nat) : Nat :=
  let q := if d = 8 then v else (roundQ 0 false v 0 (d - 8) false).1
  (min q 255 + 128) % 256

/-- A sample as bf16: s / (2^d − 1), rounded to nearest even (R69). -/
def av1Bf16 (d v : Nat) : Nat :=
  let n := 2 ^ d - 1
  if v = 0 then 0 else ((fmtOf 9).round 0 false false (v * 2 ^ 40 / n) (-40) (v * 2 ^ 40 % n != 0)).1

/-- An element of a tile: 0 beyond the picture's edge. -/
def Av1Ctx.element (x : Av1Ctx) (f : Nat) (bf : Bool) (t : TileAt) (row col : Nat) : Nat :=
  if row < x.validRows f t ∧ col < x.validCols f t then
    let d := x.depth f
    let v := Config.av1Sample x.parts f (t.plane, 32 * t.row + row, 64 * t.col + col) % 2 ^ d
    if bf then av1Bf16 d v else av1Int8 d v
  else 0

/-- The data units of a tile: row i is lane i, columns are sub-elements of rising index (R68). -/
def Av1Ctx.units (x : Av1Ctx) (f : Nat) (bf zero : Bool) (t : TileAt) : List Image :=
  let w := if bf then 16 else 8
  let n := 64 / w
  tab (if bf then 16 else 8) fun u => if zero then 0 else ofLanes fun row => ofSubs w fun k => x.element f bf t row (u * n + k)

/-- The header of a tile (Table 2.10); `zero` is the form of R70 and R430. -/
def Av1Ctx.header (x : Av1Ctx) (f ctx : Nat) (bf zero : Bool) (t : TileAt) : List Byte :=
  let flags := if zero then 1 else 2 * b2n (x.grained f)
  leBytes 2 0x0a01 ++ leBytes 1 t.plane ++ leBytes 1 (b2n bf) ++ leBytes 4 f ++ leBytes 2 t.row ++ leBytes 2 t.col ++ leBytes 1 (x.validCols f t) ++
    leBytes 1 (x.depth f) ++ leBytes 2 flags ++ leBytes 4 (2 ^ x.validRows f t - 1) ++ leBytes 1 (if zero then x.cause f else 0) ++ leBytes 1 ctx ++
    List.replicate 42 0

/-- The tiles of a corrupt frame that were decoded before its error was met: none where the error stands before every tile, in a sequence header that could not be read or that Table 2.9
excludes, in the frame's own header, or in the slots that it references (R70, R430). -/
def Av1Ctx.sound (x : Av1Ctx) (f : Nat) : Nat :=
  let y := x.settled f
  if y.unread || y.excluded || x.largeScale f || x.uses f &&& ~~~y.slots != 0 then 0 else min (x.good f) (x.tiles f).length

/-- The tile that an output piece belongs to, and whether it is in the zero form: a corrupt frame's tiles before the error carry samples; in a queue the later
ones follow in the zero form, in memory every tile is written again in it (R70, R430). -/
def Av1Ctx.pieceTile (x : Av1Ctx) (f : Nat) (queue : Bool) (k : Nat) : Option (Nat × TileAt × Bool) :=
  let ts := x.tiles f
  let good := x.sound f
  let (i, zero) := if x.cause f = 0 then (k, false) else if k < good then (k, false) else if queue then (k, true) else (k - good, true)
  (ts[i]?).map fun t => (i, t, zero)

/-! ## Reading the bitstream (R405) -/

/-- The next bytes of the bitstream, up to the end of a 16-byte sector and no further than needed: a failed or poisoned read leaves none; a demand fault holds. -/
def State.av1Read (s : State) (t : Team) (c : Cmd) (r : Av1Run) (stop : Nat) : State :=
  let x := s.ctxOf c
  let a := c.fld 2 0 52 + x.bytesRead
  let n := min (16 - a % 16) (stop - x.bytesRead)
  let add (s : State) (bs : List (Option Byte)) : State :=
    ((s.modAv1 c fun x => x.modPart fun p => { p with bytes := p.bytes ++ bs }).doneReading (.cmd t.num c.e c.seq)).modCmd t.num c.e c.seq fun d =>
      { d with failed := false, st := .running (.av1 r) }
  if c.failed then add s (List.replicate n none)
  else
  match s.engRead (.cmd t.num c.e c.seq) (s.spaceOf t.num) a n with
  | .bytes bs => add (s.engServed (s.spaceOf t.num) a n) (if bs.any (·.2) then List.replicate n none else bs.map fun b => some b.1)
  | .fail _ => add s (List.replicate n none)
  | .wait s => s
  | .fault p k =>
    match s.cmdFault t c p k .load with
    | .error _ => add s (List.replicate n none)
    | .ok s => s

/-! ## Frames (R405, R406) -/

/-- The decoder arrives for a frame: the state, and the barrier instance for which the arrival counts (R371, R406). -/
def State.av1Arrive (s : State) (t : Team) (c : Cmd) (err : Bool) : State × Option Nat :=
  match c.group with
  | none => (s, none)
  | some g =>
    match (s.teamBlock t).groups.find? (·.gnum == g) with
    | none => (s, none)
    | some x =>
      let m : Member := .chan (chanOf c.e)
      let mine := x.arrived.any fun a => a.1 == m
      let inst := x.results.length + (if mine then 1 + (x.held.filter fun h => h.1 == chanOf c.e).length else 0)
      (s.arrive t.block g m err, some inst)

/-- A decoder's arrival is a release at chip scope (R173): every write of its command has been performed, also those to the host aperture. -/
def State.arrivesNow (s : State) (t : Team) (c : Cmd) : Bool := c.group.isNone || s.writesOut t c

/-- The barrier instance at which the decoder arrived for the frame before has completed (R406). -/
def State.av1Free (s : State) (t : Team) (c : Cmd) (r : Av1Run) : Bool :=
  match r.waitFor, c.group with
  | some inst, some g => ((s.teamBlock t).groups.find? (·.gnum == g)).all fun x => inst < x.results.length
  | _, _ => true

/-- A frame has been output or is missing: the decoder arrives and goes on with the next, or ends (R405, R406). -/
def State.av1FrameDone (s : State) (t : Team) (c : Cmd) (r : Av1Run) (bad : Bool) (tiles : Nat) : State :=
  let (s, inst) := s.av1Arrive t c bad
  let r := { r with
    frame := r.frame + 1, pos := 0, tileNo := if c.fld 5 32 1 = 1 then 0 else r.tileNo + tiles
    bad := r.bad + b2n bad, whole := r.whole + b2n (!bad), waitFor := inst }
  let s := s.modAv1 c fun x => x.modPart fun p => { p with frames := p.frames + 1, mark := p.bytes.length }
  if r.frame = c.fld 3 32 16 then s.finish t c (if r.bad = 0 then 0 else 5) 0 r.bad
  else s.modCmd t.num c.e c.seq fun d => { d with failed := false, st := .running (.av1 r) }

/-- A tile write has failed: the decoder arrives with the error bit for this frame and every later one, and the command stops with status 2 (R405). -/
def State.av1Stop (s : State) (t : Team) (c : Cmd) (r : Av1Run) (w : Cause) : State :=
  let nf := c.fld 3 32 16
  ((List.range (nf - r.frame)).foldl (fun s _ => (s.av1Arrive t c true).1) s).finish t c 2 w.code (nf - r.whole)

/-- The decoder's context after a frame: the units before it passed, the slots as the frame leaves them; as they were when the frame is missing. -/
def Av1Ctx.after (x : Av1Ctx) (f : Nat) (missing : Bool) (y : Av1Ctx) : Av1Ctx :=
  let z := x.settled f
  { y with slots := if missing then z.slots else x.slotsAfter f, excluded := z.excluded, unread := z.unread }

/-- The pieces of a tile from `r.pos` on, until the tile is out or one must wait; after the last tile the frame is done. -/
def State.av1Pieces (t : Team) (c : Cmd) (x : Av1Ctx) : Nat → State → Av1Run → State
  | 0, s, r => s.modCmd t.num c.e c.seq fun d => { d with failed := false, st := .running (.av1 r) }
  | fuel + 1, s, r =>
    let dk := c.fld 3 55 2
    let bf := c.fld 3 54 1 == 1
    let ctx := c.fld 3 48 3
    let per := c.av1Per
    let keep (s : State) : State := s.modCmd t.num c.e c.seq fun d => { d with failed := false, st := .running (.av1 r) }
    match x.pieceTile r.frame (dk == 0) (r.pos / per) with
    | none =>
      if s.arrivesNow t c then (s.modAv1 c (x.after r.frame false)).av1FrameDone t c r (x.cause r.frame != 0) (x.tiles r.frame).length else keep s
    | some (i, tile, zero) =>
      let head := x.header r.frame ctx bf zero tile
      let units := x.units r.frame bf zero tile
      if dk = 0 then
        let e : Entry := if r.pos % per = 0 then Entry.ready (ofBytes head) else Entry.ready (units.getD (r.pos % per - 1) 0)
        match s.engPush t (c.fld 4 0 6) [e] with
        | none => keep s
        | some s =>
          let t := (s.team? t.num).getD t
          State.av1Pieces t c x fuel s { r with pos := r.pos + 1 }
      else
        let bytes := (head ++ units.flatMap imgBytes).map fun b => (b, false)
        match s.copyWrite t c (dk == 1) (c.fld 4 0 52 + (r.tileNo + i) * c.fld 5 0 32) bytes with
        | .ok s => State.av1Pieces t c x fuel s { r with pos := r.pos + 1 }
        | .error (.cause w _) => if s.arrivesNow t c then s.av1Stop t c r w else keep s
        | .error (.fault p k) =>
          match (keep s).cmdFault t c p k .store with
          | .error w => if s.arrivesNow t c then s.av1Stop t c r w else keep s
          | .ok s => s

/-- AV1_FRAME (R405, R406): after the end of the bitstream every frame is missing; else it reads what the next frame needs, then writes its tiles, one in each event, once the barrier instance of the frame before has completed, and arrives. -/
def execAv1Frame (team unit : Nat) (s : State) : Host.Outcome State Fault Refusal :=
  .next <|
    match s.running? team (8 + unit) with
    | some (t, c, .av1 r) =>
      if r.begun = false then s
      else
        let x := s.ctxOf c
        let stop := min (x.factRead r.frame) (c.fld 3 0 32)
        if r.ended ∨ c.fld 3 0 32 = 0 then (if s.arrivesNow t c then s.av1FrameDone t c r true 0 else s)
        else if x.bytesRead < stop then s.av1Read t c r stop
        else if x.missing r.frame then
          (if s.arrivesNow t c then (s.modAv1 c (x.after r.frame true)).av1FrameDone t c { r with ended := true } true 0 else s)
        else if s.av1Free t c r = false then s
        else if c.failed then (if s.arrivesNow t c then s.av1Stop t c r .faultFailed else s)
        else State.av1Pieces t c x (c.av1Per - r.pos % c.av1Per) s r
    | _ => s

end Sys2Proof.Machine
end

