-- ==== Sys2Proof/Machine/Collective.lean ====
section
/-! DEFINITION. Collectives (02: R62 to R65; 14: R408, R409): the combining orders, the operations, mismatches, the loss of a member. -/

namespace Sys2Proof.Machine

/-! ## Combining (R63) -/

/-- The largest power of two not above `n`, for `1 ≤ n < 2^11`. -/
def pow2Below (n : Nat) : Nat := 2 ^ n.log2

/-- Adjacent values combined, the lower on the left. -/
def pairUp {α : Type} (f : α → α → α) : List α → List α
  | a :: b :: r => f a b :: pairUp f r
  | l => l

/-- The doubling steps: adjacent pairs until one value is left. -/
def doubling {α : Type} (f : α → α → α) : Nat → List α → List α
  | 0, l => l
  | k + 1, l => doubling f k (pairUp f l)

/-- The small path over the members' values of one element, by rank (R63): the fold to P values, then the doubling steps. -/
def smallPath {α : Type} (f : α → α → α) (xs : List α) : Option α :=
  let p := pow2Below xs.length
  let lo := xs.take p
  let hi := xs.drop p
  let folded := lo.zipIdx.map fun x => match hi[x.2]? with | some y => f x.1 y | none => x.1
  (doubling f 10 folded).head?

/-- The ring path for an element of block `b`: ranks b + 1, b + 2, …, b, left to right (R63). -/
def ringPath {α : Type} (f : α → α → α) (xs : List α) (b : Nat) : Option α :=
  match xs.drop (b + 1) ++ xs.take (b + 1) with
  | [] => none
  | x :: r => some (r.foldl f x)

/-- The block of an element on the ring: equal blocks when the count divides, else a free cut (R63 gives none). -/
def ringBlockOf (count n i : Nat) : Nat := if count % n = 0 then i / (count / n) else Config.ringBlock count n i % n

/-- One element of a reduction: the values of every rank combined in the order that the message's size selects. -/
def reduceElem (ty : BitVec 4) (op : BitVec 3) (count i : Nat) (xs : List Nat) : Nat :=
  let f (a b : Nat) : Nat := atomOp ty op a b 0
  ((if count * accSize ty ≤ 4096 then smallPath f xs else ringPath f xs (ringBlockOf count xs.length i))).getD 0

/-! ## Fields of a collective command (R408) -/

/-- Count, type, operator, list, root. -/
def Cmd.collCount (c : Cmd) : Nat := c.fld 4 0 32
/-- The type of a reduction. -/
def Cmd.collTy (c : Cmd) : BitVec 4 := BitVec.ofNat 4 (c.fld 4 32 4)
/-- The operator. -/
def Cmd.collOp (c : Cmd) : BitVec 3 := BitVec.ofNat 3 (c.fld 4 36 3)
/-- The list's number. -/
def Cmd.collIdx (c : Cmd) : Nat := c.fld 4 40 6
/-- The root device. -/
def Cmd.collRoot (c : Cmd) : Nat := c.fld 4 46 10

/-- The bytes that a member's source holds: a reduction's elements, or the bytes of kinds 4 and 5, of the root alone in a broadcast. -/
def Cmd.collBytes (c : Cmd) (self : Nat) : Nat :=
  if c.kind = 6 ∨ c.kind = 5 ∧ self ≠ c.collRoot then 0
  else if c.kind < 4 then c.collCount * accSize c.collTy else c.collCount

/-- A device's rank: members rank in ascending device number (R62). -/
def CollList.rank (l : CollList) (dev : Nat) : Nat := (l.members.filter (· < dev)).length

/-- What a member contributed names the same operation. -/
def Cmd.collSame (c : Cmd) (x : Contribution) : Bool :=
  x.kind == c.kind && x.count == c.collCount && x.ty == c.collTy.toNat && x.oper == c.collOp.toNat && x.root == c.collRoot

/-- The bytes that this member's destination receives, from every rank's source in rank order. -/
def Cmd.collResult (c : Cmd) (l : CollList) (self : Nat) (data : List (List Byte)) : List Byte :=
  let n := data.length
  let z := accSize c.collTy
  let elem (i : Nat) : List Byte :=
    leBytes z (reduceElem c.collTy c.collOp c.collCount i (data.map fun d => leNat ((d.drop (i * z)).take z)))
  match c.kind with
  | 1 => (List.range c.collCount).flatMap elem
  | 2 => (List.range (c.collCount / n)).flatMap fun i => elem (l.rank self * (c.collCount / n) + i)
  | 3 => if self = c.collRoot then (List.range c.collCount).flatMap elem else []
  | 4 => data.flatten
  | 5 => data.getD (l.rank c.collRoot) []
  | _ => []

/-! ## Memory -/

/-- How a run of an engine's accesses ends. -/
inductive RunGot where
  | bytes (bs : List Byte)
  | fail (c : Cause)
  | fault (page : Page) (kind : Nat)
  | wait (s : State)
  deriving DecidableEq, Repr

/-- Reads `n` bytes from `a`, sector by sector; a poisoned sector fails with "uncorrectable" (R123). -/
def State.readRunOf (s : State) (r : Reader) (sp : Space) : Nat → Nat → Nat → RunGot
  | 0, _, _ => .bytes []
  | fuel + 1, a, n =>
    if n = 0 then .bytes []
    else
      let m := min n (16 - a % 16)
      match s.engRead r sp a m with
      | .fail c => .fail c
      | .fault p k => .fault p k
      | .wait s => .wait s
      | .bytes bs =>
        if bs.any (·.2) then .fail .uncorrectable
        else
          match s.readRunOf r sp fuel (a + m) (n - m) with
          | .bytes rest => .bytes (bs.map (·.1) ++ rest)
          | e => e

/-- Writes bytes from `a`, sector by sector: how it ends, and the state. -/
def State.writeRunOf (s : State) (own : ApOwner) (sp : Space) : Nat → Nat → List Byte → State × Option AccFail
  | 0, _, _ => (s, none)
  | fuel + 1, a, bs =>
    if bs.isEmpty then (s, none)
    else
      let m := min bs.length (16 - a % 16)
      match s.checkTlb sp .store a m with
      | .error e => (s, some e)
      | .ok pas => (s.engWrite own pas ((bs.take m).map fun b => (b, false))).writeRunOf own sp fuel (a + m) (bs.drop m)

/-! ## The operations -/

/-- A lost member's destination (R65): each element keeps its value or takes one that nothing constrains. -/
def State.loseElems (s : State) (own : ApOwner) (sp : Space) (a z : Nat) : Nat → State
  | 0 => s
  | n + 1 =>
    let s := s.loseElems own sp a z n
    let (k, s) := s.takeFree
    let (v, s) := s.takeFree
    if k % 2 = 0 then s
    else
      match s.checkTlb sp .store (a + z * n) z with
      | .ok pas => s.engWrite own pas ((leBytes z v).map fun b => (b, false))
      | .error _ => s

/-- The elements that this member's destination would have received, and their size. -/
def Cmd.collDest (c : Cmd) (self n : Nat) : Nat × Nat :=
  match c.kind with
  | 1 => (c.collCount, accSize c.collTy)
  | 2 => (c.collCount / n, accSize c.collTy)
  | 3 => (if self = c.collRoot then c.collCount else 0, accSize c.collTy)
  | 4 => (n * c.collCount, 1)
  | 5 => (c.collCount, 1)
  | _ => (0, 1)

/-- Changes a member list. -/
def State.modList (s : State) (l : Nat) (f : CollList → CollList) : State :=
  { s with links := { s.links with lists := s.links.lists.modify l f } }

/-- The command ends as "member lost" (R65): later commands on the list fail the same way until the lists are written. -/
def State.collLost (s : State) (t : Team) (c : Cmd) : State :=
  let d := c.collDest s.links.self.toNat (s.collList c.collIdx).members.length
  let s := s.modList c.collIdx fun l => { l with lost := true, ops := l.ops + 1 }
  (s.loseElems (c.owner t) (s.spaceOf t.num) (c.fld 3 0 52) d.2 d.1).finish t c 3 0 0

/-- The command ends with a status, its operation of the list used up (R409). -/
def State.collEnd (s : State) (t : Team) (c : Cmd) (status cause : Nat) : State :=
  (s.modList c.collIdx fun l => { l with ops := l.ops + 1 }).finish t c status cause 0

/-- The command ends with status 1 (R409); a member lost beside it is lost to later commands on the list all the same (R65, R385). -/
def State.collMixed (s : State) (t : Team) (c : Cmd) (lost : Bool) : State :=
  (if lost then s.modList c.collIdx fun l => { l with lost := true } else s).collEnd t c 1 0

/-- The contributions name this operation: one for each other member, each with the bytes that its source holds. -/
def Cmd.collFits (c : Cmd) (l : CollList) (self : Nat) (xs : List (Option Contribution)) : Bool :=
  xs.length + 1 == l.members.length &&
    (xs.zip (l.members.filter (· != self))).all fun x =>
      match x.1 with
      | none => true
      | some y => !c.collSame y || y.data.length == c.collBytes x.2

/-- A collective operation of a kind (R62, R63, R65, R408, R409): the others' contributions have arrived. It reads the source, sends it, combines, and writes the
destination; a failing access stops it, a demand fault holds it. The domain's en bit does not enter (DEDUCED, log entry 127). -/
def State.collective (s : State) (team kind : Nat) (xs : List (Option Contribution)) : Host.Outcome State Fault Refusal :=
  .next <|
    match s.running? team 3 with
    | some (t, c, .coll) =>
      let l := s.collList c.collIdx
      let self := s.links.self.toNat
      let sp := s.spaceOf t.num
      let r : Reader := .cmd t.num c.e c.seq
      let n := c.collBytes self
      let hold (s : State) (p : Page) (k : Nat) (a : Acc) : State :=
        match s.cmdFault t c p k a with
        | .error w => s.collEnd t c 2 w.code
        | .ok s => s
      if c.kind ≠ kind then s
      else if l.lost then s.collLost t c
      else if c.collFits l self xs = false then s
      else if xs.any (fun x => match x with | some y => !c.collSame y | none => false) then s.collMixed t c (xs.any Option.isNone)
      else if xs.any Option.isNone then s.collLost t c
      else
        match s.readRunOf r sp (n / 16 + 2) (c.fld 2 0 52) n with
        | .fail w => s.collEnd t c 2 w.code
        | .wait s => s
        | .fault p k => if c.failed then s.collEnd t c 2 Cause.faultFailed.code else hold s p k .load
        | .bytes own =>
          if c.failed then (s.send (.coll own)).collEnd t c 2 Cause.faultFailed.code
          else
          let k := l.rank self
          let others := xs.filterMap fun x => x.map (·.data)
          let out := c.collResult l self (others.take k ++ own :: others.drop k)
          match (s.engServedRun sp (c.fld 2 0 52) n).writeRunOf (c.owner t) sp (out.length / 16 + 2) (c.fld 3 0 52) out with
          | (s, none) => (s.send (.coll own)).collEnd t c 0 0
          | (s, some (.cause w _)) => (s.send (.coll own)).collEnd t c 2 w.code
          | (s, some (.fault p k)) => hold s p k .store
    | _ => s

/-- ALL_REDUCE (R408). -/
def execAllReduce (team : Nat) (xs : List (Option Contribution)) (s : State) : Host.Outcome State Fault Refusal := s.collective team 1 xs

/-- REDUCE_SCATTER (R408). -/
def execReduceScatter (team : Nat) (xs : List (Option Contribution)) (s : State) : Host.Outcome State Fault Refusal := s.collective team 2 xs

/-- REDUCE (R408). -/
def execReduce (team : Nat) (xs : List (Option Contribution)) (s : State) : Host.Outcome State Fault Refusal := s.collective team 3 xs

/-- ALL_GATHER (R408). -/
def execAllGather (team : Nat) (xs : List (Option Contribution)) (s : State) : Host.Outcome State Fault Refusal := s.collective team 4 xs

/-- BROADCAST (R408). -/
def execBroadcast (team : Nat) (xs : List (Option Contribution)) (s : State) : Host.Outcome State Fault Refusal := s.collective team 5 xs

/-- COLLECTIVE_BARRIER (R408). -/
def execCollectiveBarrier (team : Nat) (xs : List (Option Contribution)) (s : State) : Host.Outcome State Fault Refusal := s.collective team 6 xs

/-! ## Member lists (R407) -/

/-- A member list as it lies in memory: bit n names device n. -/
def State.readList (s : State) (l : Nat) : CollList :=
  let a := s.links.collBase.toNat * 8192 + 128 * l
  { members := (List.range 1024).filter fun n => (readCell s.mem.ram.cells (a + n / 8)).getLsbD (n % 8), lost := false, ops := 0 }

/-- COLL_LISTS_WRITE (R407): every list is read again, and the loss of members is forgotten. -/
def execCollListsWrite (v : Word) (s : State) : Host.Outcome State Fault Refusal :=
  let s := { s with links := { s.links with collBase := BitVec.ofNat 27 (fieldOf v 13 27) } }
  let s := { s with links := { s.links with lists := tab 64 s.readList } }
  .next (s.servedRun (s.links.collBase.toNat * 8192) 8192)

end Sys2Proof.Machine
end

