-- ==== Sys2Proof/Machine/Control.lean ====
section
/-! DEFINITION. The control instructions (10: R278 to R289). -/

namespace Sys2Proof.Machine

/-- The condition of `bra`, `call` and `jmpi` (R279): any active thread, or with `.all` every thread of the path. -/
def Warp.condAll (x : Warp) (all : Bool) (g : Guard) : Bool := if all then x.active g == x.m else x.cond g

/-- The position rule of R280. -/
def needLast (c : Ctx) : Except Stop Unit := need c.x.lastWord (trapOf .illegalClause)

/-- The header offset a displacement names (R281). -/
def Warp.target (x : Warp) {n : Nat} (disp : BitVec n) : Int := x.hdr + 8 * disp.toInt

/-- `bra` (R283). -/
def execBra (f : BraF) (s : State) : Host.Outcome State Fault Refusal :=
  s.asWarp fun c =>
    if c.x.condAll f.all f.g then .ok (s.transfer c.w c.x (c.x.target f.disp)) else .ok (s.retireWarp c.w c.x)

/-- Pushes the two entries of a divergence (R284); `now` is the next token. -/
def Warp.diverge (x : Warp) (f : BrcF) (now : Nat) : Warp :=
  let j := x.target f.jdisp
  let p := x.guard f.g
  { x with
    pstack := { pc := nextHeader x.hdr x.count, mask := x.m &&& ~~~p, rpc := some j, tok := some now } ::
      { pc := j, mask := x.m, rpc := x.rpc } :: x.pstack
    m := x.m &&& p, rpc := some j }

/-- `brc` (R284). -/
def execBrc (f : BrcF) (s : State) : Host.Outcome State Fault Refusal :=
  s.asWarp fun c =>
    match needLast c with
    | .error e => .error e
    | .ok () =>
      if c.x.m &&& ~~~(c.x.guard f.g) = 0 then .ok (s.transfer c.w c.x (c.x.target f.tdisp))
      else if c.x.m &&& c.x.guard f.g = 0 then .ok (s.retireWarp c.w c.x)
      else if c.x.pstack.length > 30 then .error (trapOf .illegalClause)
      else .ok (s.transfer c.w (c.x.diverge f s.mem.nextTok) (c.x.target f.tdisp))

/-- `call` (R283): a full call stack traps. -/
def execCall (f : BraF) (s : State) : Host.Outcome State Fault Refusal :=
  s.asWarp fun c =>
    match needLast c with
    | .error e => .error e
    | .ok () =>
      if c.x.condAll f.all f.g = false then .ok (s.retireWarp c.w c.x)
      else if c.x.cstack.length ≥ 16 then .error (trapOf .illegalClause)
      else .ok (s.transfer c.w { c.x with cstack := nextHeader c.x.hdr c.x.count :: c.x.cstack } (c.x.target f.disp))

/-- `ret` (R283): an empty call stack traps. -/
def execRet (g : Guard) (s : State) : Host.Outcome State Fault Refusal :=
  s.asWarp fun c =>
    match needLast c with
    | .error e => .error e
    | .ok () =>
      if c.x.cond g = false then .ok (s.retireWarp c.w c.x)
      else
        match c.x.cstack with
        | [] => .error (trapOf .illegalClause)
        | h :: r => .ok (s.transfer c.w { c.x with cstack := r } h)

/-- `jmpi` (R281, R283): the k field is checked with the operands, the target when the condition holds. -/
def execJmpi (f : JmpiF) (s : State) : Host.Outcome State Fault Refusal :=
  s.asWarp fun c =>
    match kOnly c f.a with
    | .error e => .error e
    | .ok t =>
      match needLast c with
      | .error e => .error e
      | .ok () =>
        if c.x.condAll f.all f.g = false then .ok (s.retireWarp c.w c.x)
        else if t.toNat ≥ 2 ^ 32 ∨ t.toNat % 8 ≠ 0 then .error (trapOf .illegalClause f.a.toNat)
        else .ok (s.transfer c.w c.x (t.toNat : Int))

/-- `loop` (R283). -/
def execLoop (f : LoopF) (s : State) : Host.Outcome State Fault Refusal :=
  s.asWarp fun c =>
    match kOnly c f.d with
    | .error e => .error e
    | .ok n =>
      if c.x.cond f.g = false then .ok (s.retireWarp c.w c.x)
      else
        let x := c.x.writeK f.d (n - 1)
        if n - 1 = 0 then .ok (s.retireWarp c.w x) else .ok (s.transfer c.w x (x.target f.disp))

/-- The threads `gone` end (R286): they leave L, M and every path-stack entry. -/
def Warp.endThreads (x : Warp) (gone : Mask) : Warp :=
  { x with
    live := x.live &&& ~~~gone, m := x.m &&& ~~~gone
    pstack := x.pstack.map fun e => { e with mask := e.mask &&& ~~~gone } }

/-- The tokens with which a popped path is not ordered (R162): a path that had still to run, also those taken since its divergence; a merge, only those of paths that rejoin it further down the stack. -/
def Warp.othersAt (x : Warp) (e : PathEntry) (r : List PathEntry) (now : Nat) : List (Nat × Nat × Nat) :=
  match e.tok with
  | some t => x.others ++ [(t, now, r.length)]
  | none => x.others.filter fun o => o.2.2 ≤ r.length

/-- The warp goes on with a popped path (R285, R286). -/
def Warp.takePath (x : Warp) (e : PathEntry) (r : List PathEntry) (now : Nat) : Warp :=
  { x with m := e.mask, rpc := e.rpc, pstack := r, others := x.othersAt e r now }

/-- The first path-stack entry with threads left, and the entries below it (R286). -/
def popLive : List PathEntry → Option (PathEntry × List PathEntry)
  | [] => none
  | e :: r => if e.mask = 0 then popLive r else some (e, r)

/-- A warp ends (R286): it gives up its port, its claim of the grid and its place among those waiting; barriers count a team whose
access warp has ended as arrived (R371). -/
def State.warpEnds (s : State) (c : Ctx) (x : Warp) : State :=
  let y := { x with ended := true, retired := x.retired + 1, stall := none, clause := none, elig := none, matrix := false, gridWait := false }
  let s := ((s.setWarp c.w y).releasePort c.w).modPart c.t.core x.partOf fun p =>
    { p with grid := p.grid.filter (· != c.w), waiters := p.waiters.filter (· != c.w), rgn := p.rgn.filter (·.1 != c.w) }
  s.settleBarriers c.t.block

/-- `exit` (R286). -/
def execExit (g : Guard) (s : State) : Host.Outcome State Fault Refusal :=
  s.asWarp fun c =>
    match needLast c, s.needQuiet c.w with
    | .error e, _ => .error e
    | _, .error e => .error e
    | .ok (), .ok () =>
      let x := c.x.endThreads (c.x.active g)
      if x.m ≠ 0 then .ok (s.retireWarp c.w x)
      else
        match popLive x.pstack with
        | some (e, r) => .ok (s.transfer c.w (x.takePath e r s.mem.nextTok) e.pc)
        | none => .ok (s.warpEnds c { x with pstack := [] })

/-- `yield` (R287): the next clause's eligibility time is the clock after it, which the end of any clause gives it. -/
def execYield (_ : Guard) (s : State) : Host.Outcome State Fault Refusal :=
  s.asWarp fun c =>
    match needLast c with
    | .error e => .error e
    | .ok () => .ok (s.retireWarp c.w c.x)

/-- `spin` (R287): not eligible again until another warp has issued a clause on the same ports or SPIN_TIMEOUT. -/
def execSpin (g : Guard) (s : State) : Host.Outcome State Fault Refusal :=
  s.asWarp fun c =>
    match needLast c with
    | .error e => .error e
    | .ok () => .ok (s.retireWarp c.w { c.x with spinning := c.x.cond g })

/-- The reconvergence of R285 at `h`: the warp after it, and where another path runs. But for a path that had still to run, the accesses of every path are ordered before what follows
(R162). -/
def Warp.reconverge (x : Warp) (h : Int) (now : Nat) : Warp × Option Int :=
  if x.rpc = some h then
    match x.pstack with
    | [] => (x, none)
    | e :: r => if e.pc = h then ({ x.takePath e r now with others := [] }, none) else (x.takePath e r now, some e.pc)
  else ({ x with others := [] }, none)

/-- `reconv` (R285): it names no condition, so its predicate has no effect (DEDUCED, log entry 16). -/
def execReconv (_ : Guard) (s : State) : Host.Outcome State Fault Refusal :=
  s.asWarp fun c =>
    match needLast c with
    | .error e => .error e
    | .ok () =>
      match c.x.reconverge c.x.hdr s.mem.nextTok with
      | (x, some h) => .ok (s.transfer c.w x h)
      | (x, none) => .ok (s.retireWarp c.w x)

/-- `nop` (R287). -/
def execNop (_ : Guard) (s : State) : Host.Outcome State Fault Refusal :=
  s.asWarp fun c => .ok (s.retireWarp c.w c.x)

/-- `rep` (R265, R266): the next word issues n + 1 times. The prefix is not counted among the instructions retired (log entry 15). -/
def execRep (f : RepF) (s : State) : Host.Outcome State Fault Refusal :=
  s.asWarp fun c =>
    match s.repCheck c (some f) with
    | (s, .error e) => s.stallWith c.w e
    | (s, .ok ()) =>
      .ok (s.modWarp c.w fun x => { x with
        slot := x.slot + 1, repLeft := f.n.toNat + 1, window := spendLook x.window, stall := none, failed := [], recheck := false })

/-- `trap` and `bpt` when their condition holds (R289). -/
def codeTrap (c : Ctx) (s : State) (cause : Cause) (f : CodeF) : Except Stop State :=
  if c.x.cond f.g then .error (.trap { cause := cause, reg := f.n.toNat, nxt := true }) else .ok (s.retireWarp c.w c.x)

/-- `trap` (R289). -/
def execTrap (f : CodeF) (s : State) : Host.Outcome State Fault Refusal := s.asWarp fun c => codeTrap c s .userTrap f

/-- `bpt` (R289). -/
def execBpt (f : CodeF) (s : State) : Host.Outcome State Fault Refusal := s.asWarp fun c => codeTrap c s .breakpoint f

/-- The number of words of the clause whose header a word is, if it is one. -/
def headerCount (w : Word) : Option Nat := if fieldOf w 60 4 = 15 then some (fieldOf w 53 4 + 1) else none

/-- `eret` (R216, R289): outside a handler, or with an hpc that does not address a clause header or a slot that its clause does not
have (log entry 17), "illegal clause". -/
def execEret (g : Guard) (s : State) : Host.Outcome State Fault Refusal :=
  s.asWarp fun c =>
    match needLast c with
    | .error e => .error e
    | .ok () =>
      if c.x.cond g = false then .ok (s.retireWarp c.w c.x)
      else if c.x.inHandler = false then .error (trapOf .illegalClause)
      else
        match s.fetch c (fieldOf (vget c.x.tinfo 1 0) 0 32 : Nat) with
        | (s, .error e) => s.stallWith c.w e
        | (s, .ok w) =>
          match headerCount w with
          | none => .error (trapOf .illegalClause)
          | some n =>
            let r := resumeAt (vget c.x.tinfo 0 0) (vget c.x.tinfo 1 0) n
            if r.fresh = false ∧ r.slot ≥ n then .error (trapOf .illegalClause)
            else .ok ((s.setWarp c.w ((s.again c).x.eret r)).releasePort c.w)

end Sys2Proof.Machine
end

