-- ==== Sys2Proof/Machine/VectorFloat.lean ====
section
/-! DEFINITION. The vector floating-point instructions 0x080 to 0x08b (11: R301 to R304). -/

namespace Sys2Proof.Machine

/-- A floating-point operation on the sub-elements of a lane: results and the OR of the flags. -/
def onSubsF (ty : BitVec 4) (f : List Nat → Nat × Nat) (xs : List Word) : Word × Nat :=
  let w := Ty.width ty
  let r := (List.range (64 / w)).map fun e => f (xs.map fun x => subEl w x e)
  (ofSubs w fun e => (r.getD e (0, 0)).1, r.foldl (fun a x => a ||| x.2) 0)

/-- An element-wise floating-point instruction (R301). -/
def State.fltOp (s : State) (e : Elem) (f : Fmt → List Nat → Nat × Nat) : Host.Outcome State Fault Refusal :=
  s.elementwise e (onSubsF e.ty (f (fmtOf e.ty)))

/-- The condition of R303 on two values. -/
def fCond (cond : Nat) (x y : FVal) : Bool :=
  let un := x.isNan || y.isNan
  match cond with
  | 0 => !un && x.same y
  | 1 => un || !x.same y
  | 2 => !un && x.less y
  | 3 => !un && (x.less y || x.same y)
  | 4 => !un && y.less x
  | 5 => !un && (y.less x || x.same y)
  | 6 => un
  | _ => !un

/-- The class bit of Table 11.2. -/
def Fmt.cls (f : Fmt) (x : Nat) : Nat :=
  let neg := x.testBit (f.eb + f.fb)
  let sub := bitsOf x f.fb f.eb == 0
  match f.val x with
  | .nan true => 8
  | .nan false => 9
  | .inf n => if n then 0 else 7
  | .fin _ 0 _ => if neg then 3 else 4
  | .fin _ _ _ => if neg then (if sub then 2 else 1) else (if sub then 5 else 6)

/-- `vfadd` (Table 11.1). -/
def execVfadd (f : Alu2) (s : State) : Host.Outcome State Fault Refusal :=
  s.fltOp (elem2 f true) fun m xs => m.add 0 (arg xs 0) (arg xs 1)

/-- `vfsub` (Table 11.1). -/
def execVfsub (f : Alu2) (s : State) : Host.Outcome State Fault Refusal :=
  s.fltOp (elem2 f true) fun m xs => m.add 0 (arg xs 0) (m.flip (arg xs 1))

/-- `vfmul` (Table 11.1). -/
def execVfmul (f : Alu2) (s : State) : Host.Outcome State Fault Refusal :=
  s.fltOp (elem2 f true) fun m xs => m.mul 0 (arg xs 0) (arg xs 1)

/-- `vfma` (Table 11.1). -/
def execVfma (f : Alu3) (s : State) : Host.Outcome State Fault Refusal :=
  s.fltOp (elem3 f true) fun m xs => m.fma 0 (arg xs 0) (arg xs 1) (arg xs 2)

/-- `vfms` (Table 11.1). -/
def execVfms (f : Alu3) (s : State) : Host.Outcome State Fault Refusal :=
  s.fltOp (elem3 f true) fun m xs => m.fma 0 (arg xs 0) (arg xs 1) (m.flip (arg xs 2))

/-- `vfnma` (Table 11.1). -/
def execVfnma (f : Alu3) (s : State) : Host.Outcome State Fault Refusal :=
  s.fltOp (elem3 f true) fun m xs => m.fma 0 (m.flip (arg xs 0)) (arg xs 1) (arg xs 2)

/-- `vfmin` (Table 8.4). -/
def execVfmin (f : Alu2) (s : State) : Host.Outcome State Fault Refusal :=
  s.fltOp (elem2 f true) fun m xs => m.minMax false (arg xs 0) (arg xs 1)

/-- `vfmax` (Table 8.4). -/
def execVfmax (f : Alu2) (s : State) : Host.Outcome State Fault Refusal :=
  s.fltOp (elem2 f true) fun m xs => m.minMax true (arg xs 0) (arg xs 1)

/-- `vfabs` (Table 11.1). -/
def execVfabs (f : Alu1) (s : State) : Host.Outcome State Fault Refusal :=
  s.fltOp (elem1 f true) fun m xs => (arg xs 0 % 2 ^ (m.eb + m.fb), 0)

/-- `vfneg` (Table 11.1). -/
def execVfneg (f : Alu1) (s : State) : Host.Outcome State Fault Refusal :=
  s.fltOp (elem1 f true) fun m xs => (m.flip (arg xs 0), 0)

/-- `vfcmp` (R303): invalid when either operand is a signalling NaN. -/
def execVfcmp (f : AluCmp) (s : State) : Host.Outcome State Fault Refusal :=
  s.compare { ty := f.ty, d := f.d, us := [⟨f.a, true⟩, ⟨f.b, true⟩], cc := f.cc, g := f.g, uni := f.uni } f.any fun xs =>
    let x := (fmtOf f.ty).val (arg xs 0)
    let y := (fmtOf f.ty).val (arg xs 1)
    (fCond f.cond.toNat x y, if x.isSnan || y.isSnan then fInv else 0)

/-- `vfclass` (R304): the class bit in each sub-element, or the lanes whose classes the mask selects. -/
def execVfclass (f : AluClass) (s : State) : Host.Outcome State Fault Refusal :=
  let e : Elem := { ty := f.ty, d := f.d, us := [⟨f.a, true⟩], cc := f.cc, g := f.g, uni := f.uni }
  if Fld.isPred f.d then s.compare e f.any fun xs => (f.mask.getLsbD ((fmtOf f.ty).cls (arg xs 0)), 0)
  else s.fltOp e fun m xs => (2 ^ m.cls (arg xs 0), 0)

end Sys2Proof.Machine
end

