-- ==== Sys2Proof/Machine/Transcend.lean ====
section
/-! DEFINITION. Reciprocal, root, division and transcendental instructions (11: R305, R306, Tables 11.3 and 11.4). Every function is computed in
fixed point with 900 fraction bits, far beyond the bits that decide the rounding of any f16, bf16 or f32 result, and rounded once; a result
that the function cannot represent exactly carries the sticky mark. -/

namespace Sys2Proof.Machine

/-- The fraction bits of the fixed point. -/
def fixP : Nat := 900

/-- 1 in fixed point. -/
def fixOne : Nat := 2 ^ fixP

/-- floor(√n), one bit at a time from bit `k - 1` down, starting from `r`. -/
def isqrtFrom (n : Nat) : Nat → Nat → Nat
  | 0, r => r
  | k + 1, r => isqrtFrom n k (if (r + 2 ^ k) * (r + 2 ^ k) ≤ n then r + 2 ^ k else r)

/-- floor(√n). -/
def isqrt (n : Nat) : Nat := isqrtFrom n (Nat.log2 n / 2 + 1) 0

/-- The Taylor sum of terms t, t·x/k(k+1)…: `step` gives the divisor of the next term; `x` is in fixed point. -/
def taylor (x : Int) (div : Nat → Nat) : Nat → Nat → Int → Int → Int
  | 0, _, _, acc => acc
  | n + 1, k, t, acc => taylor x div n (k + 1) (t * x / (fixOne : Int) / (div k : Int)) (acc + t)

/-- e^x for |x| ≤ 1. -/
def fixExp (x : Int) : Int := taylor x (fun k => k + 1) 180 0 (fixOne : Int) 0

/-- sin x for |x| ≤ 1. -/
def fixSin (x : Int) : Int := taylor (-(x * x / (fixOne : Int))) (fun k => (2 * k + 2) * (2 * k + 3)) 95 0 x 0

/-- cos x for |x| ≤ 1. -/
def fixCos (x : Int) : Int := taylor (-(x * x / (fixOne : Int))) (fun k => (2 * k + 1) * (2 * k + 2)) 95 0 (fixOne : Int) 0

/-- The sum of p_k / (2k+1), the powers p_k growing by the factor ±y/2^`q`. -/
def oddSum (q : Nat) (y : Int) : Nat → Nat → Int → Int → Int
  | 0, _, _, acc => acc
  | n + 1, k, p, acc => oddSum q y n (k + 1) (p * y / ((2 ^ q : Nat) : Int)) (acc + p / ((2 * k + 1 : Nat) : Int))

/-- 2·atanh(u) for |u| ≤ 1/5. -/
def fixAtanh2 (u : Int) : Int := 2 * oddSum fixP (u * u / (fixOne : Int)) 200 0 u 0

/-- The natural logarithm of num/den, for a quotient between 3/4 and 3/2. -/
def fixLn (num den : Nat) : Int := fixAtanh2 (((num : Int) - den) * (fixOne : Int) / ((num : Int) + den))

/-- ln 2 = ln(4/3) + ln(3/2). -/
def fixLn2 : Int := fixLn 4 3 + fixLn 3 2

/-- The fraction bits of π/2, enough to reduce any f32 argument. -/
def piP : Nat := 1100

/-- arctan(1/n) with 1100 fraction bits. -/
def fixArctanInv (n : Nat) : Int :=
  oddSum piP (-((2 ^ piP : Nat) : Int) / ((n * n : Nat) : Int)) (if n < 10 then 250 else 90) 0 (((2 ^ piP : Nat) : Int) / (n : Int)) 0

/-- π/2 = 8·arctan(1/5) − 2·arctan(1/239), with 1100 fraction bits. -/
def fixHalfPi : Int := 8 * fixArctanInv 5 - 2 * fixArctanInv 239

/-- A finite value in fixed point with `p` fraction bits (exact for every value of the three formats when p ≥ 149). -/
def toFix (p : Nat) (neg : Bool) (m : Nat) (e : Int) : Int :=
  let x : Int := if 0 ≤ e + p then (m * 2 ^ (e + p).toNat : Nat) else (m / 2 ^ (-(e + p)).toNat : Nat)
  if neg then -x else x

/-- e^x as mantissa × 2^n, mantissa in fixed point near [1, 2), for a fixed-point x. -/
def fixExpFull (x : Int) : Int × Int :=
  let n := x / fixLn2
  (fixExp (x - n * fixLn2), n)

/-- Rounds a signed fixed-point value that is not exact. -/
def Fmt.fromFix (f : Fmt) (x : Int) : Nat × Nat := f.round 0 false (decide (x < 0)) x.natAbs (-(fixP : Int)) true

/-- A result far below the smallest subnormal, and one far above the largest finite value. -/
def Fmt.tiny (f : Fmt) : Nat × Nat := f.round 0 false false 1 (-5000) true
/-- A result far above the largest finite value. -/
def Fmt.huge (f : Fmt) : Nat × Nat := f.round 0 false false 1 5000 true

/-- a/b for finite non-zero a and b. -/
def Fmt.divFin (f : Fmt) (neg : Bool) (m1 : Nat) (e1 : Int) (m2 : Nat) (e2 : Int) : Nat × Nat :=
  let q := m1 * 2 ^ 96 / m2
  f.round 0 false neg q (e1 - e2 - 96) (q * m2 != m1 * 2 ^ 96)

/-- √(m × 2^e). -/
def Fmt.sqrtFin (f : Fmt) (m : Nat) (e : Int) : Nat × Nat :=
  let m' := if e % 2 = 0 then m else 2 * m
  let e' := if e % 2 = 0 then e else e - 1
  let n := isqrt (m' * 2 ^ 200)
  f.round 0 false false n (e' / 2 - 100) (n * n != m' * 2 ^ 200)

/-- 1/√(m × 2^e). -/
def Fmt.rsqrtFin (f : Fmt) (m : Nat) (e : Int) : Nat × Nat :=
  let m' := if e % 2 = 0 then m else 2 * m
  let e' := if e % 2 = 0 then e else e - 1
  let n := isqrt (2 ^ 300 / m')
  f.round 0 false false n (-(e' / 2) - 150) (n * n * m' != 2 ^ 300)

/-- 2^a for a finite a. -/
def Fmt.exp2Fin (f : Fmt) (neg : Bool) (m : Nat) (e : Int) : Nat × Nat :=
  if 3000 * 2 ^ 200 ≤ m * 2 ^ (e + 200).toNat then (if neg then f.tiny else f.huge)
  else
    let x := toFix fixP neg m e
    let n := x / (fixOne : Int)
    let r := x % (fixOne : Int)
    if r = 0 then f.round 0 false false 1 n false
    else f.round 0 false false (fixExp (r * fixLn2 / (fixOne : Int))).natAbs (n - fixP) true

/-- log₂(m × 2^e) for m > 0. -/
def Fmt.log2Fin (f : Fmt) (m : Nat) (e : Int) : Nat × Nat :=
  let k := Nat.log2 m
  if m = 2 ^ k then f.roundZ 0 false (decide (e + k < 0)) (e + k).natAbs 0
  else
    let up := 3 * 2 ^ k < 2 * m
    let den := if up then 2 ^ (k + 1) else 2 ^ k
    let n := e + k + (if up then 1 else 0)
    f.fromFix (n * (fixOne : Int) + fixLn m den * (fixOne : Int) / fixLn2)

/-- The quadrant of a value and the rest of its reduction by π/2, in [−π/4, π/4]. -/
def trigReduce (neg : Bool) (m : Nat) (e : Int) : Int × Int :=
  let x := toFix piP neg m e
  let q := (2 * x + fixHalfPi) / (2 * fixHalfPi)
  (q % 4, (x - q * fixHalfPi) / ((2 ^ (piP - fixP) : Nat) : Int))

/-- sin of a reduced argument `quad` quadrants on. -/
def trigAt (quad r : Int) : Int :=
  if quad = 0 then fixSin r else if quad = 1 then fixCos r else if quad = 2 then -(fixSin r) else -(fixCos r)

/-- sin a, or with `shift` 1 cos a, for a finite non-zero a. -/
def Fmt.trigFin (f : Fmt) (shift : Int) (neg : Bool) (m : Nat) (e : Int) : Nat × Nat :=
  let (q, r) := trigReduce neg m e
  f.fromFix (trigAt ((q + shift) % 4) r)

/-- A finite magnitude of at least 2^`b`. -/
def atLeast (b : Int) (m : Nat) (e : Int) : Bool := decide (b ≤ e + Nat.log2 m)

/-- tanh a for a finite non-zero a: (e^2a − 1)/(e^2a + 1). -/
def Fmt.tanhFin (f : Fmt) (neg : Bool) (m : Nat) (e : Int) : Nat × Nat :=
  if atLeast 6 m e then f.fromFix (if neg then -(fixOne : Int) else fixOne)
  else
    let (x, n) := fixExpFull (2 * toFix fixP false m e)
    let t := x * ((2 ^ n.toNat : Nat) : Int)
    let r := (t - fixOne) * fixOne / (t + fixOne)
    f.fromFix (if neg then -r else r)

/-- 1/(1 + e^(−a)) for a finite non-zero a. -/
def Fmt.sigFin (f : Fmt) (neg : Bool) (m : Nat) (e : Int) : Nat × Nat :=
  if atLeast 8 m e then (if neg then f.tiny else f.fromFix fixOne)
  else
    let (x, n) := fixExpFull (-(toFix fixP false m e))
    let t := x / ((2 ^ (-n).toNat : Nat) : Int)
    f.fromFix ((if neg then t else (fixOne : Int)) * fixOne / (fixOne + t))

/-- The functions of Table 11.3 but division. -/
inductive FFun where
  | rcp | rsq | sqrt | exp2 | log2 | sin | cos | tanh | sig
  deriving DecidableEq, Repr

/-- 1 in a format. -/
def Fmt.one (f : Fmt) : Nat := f.bias * 2 ^ f.fb
/-- 0.5 in a format. -/
def Fmt.half (f : Fmt) : Nat := (f.bias - 1) * 2 ^ f.fb

/-- The function at an infinity (Table 11.4). -/
def Fmt.funInf (f : Fmt) (k : FFun) (neg : Bool) : Nat × Nat :=
  match k with
  | .rcp => (f.sign neg, 0)
  | .rsq => if neg then (f.nan, fInv) else (0, 0)
  | .sqrt | .log2 => if neg then (f.nan, fInv) else (f.inf, 0)
  | .exp2 => (if neg then 0 else f.inf, 0)
  | .sin | .cos => (f.nan, fInv)
  | .tanh => (f.sign neg + f.one, 0)
  | .sig => (if neg then 0 else f.one, 0)

/-- The function at a zero (Table 11.4). -/
def Fmt.funZero (f : Fmt) (k : FFun) (neg : Bool) : Nat × Nat :=
  match k with
  | .rcp | .rsq => (f.sign neg + f.inf, fDz)
  | .log2 => (f.sign true + f.inf, fDz)
  | .sqrt | .sin | .tanh => (f.sign neg, 0)
  | .exp2 | .cos => (f.one, 0)
  | .sig => (f.half, 0)

/-- The function at a finite non-zero value (R306). -/
def Fmt.funFin (f : Fmt) (k : FFun) (neg : Bool) (m : Nat) (e : Int) : Nat × Nat :=
  match k with
  | .rcp => f.divFin neg 1 0 m e
  | .rsq => if neg then (f.nan, fInv) else f.rsqrtFin m e
  | .sqrt => if neg then (f.nan, fInv) else f.sqrtFin m e
  | .exp2 => f.exp2Fin neg m e
  | .log2 => if neg then (f.nan, fInv) else f.log2Fin m e
  | .sin => f.trigFin 0 neg m e
  | .cos => f.trigFin 1 neg m e
  | .tanh => f.tanhFin neg m e
  | .sig => f.sigFin neg m e

/-- A function of Table 11.3 at a pattern. -/
def Fmt.apply (f : Fmt) (k : FFun) (x : Nat) : Nat × Nat :=
  match f.val x with
  | .nan sg => (f.nan, if sg then fInv else 0)
  | .inf n => f.funInf k n
  | .fin n m e => if m = 0 then f.funZero k n else f.funFin k n m e

/-- Division (Table 8.4). -/
def Fmt.div (f : Fmt) (a b : Nat) : Nat × Nat :=
  let x := f.val a
  let y := f.val b
  match nanFlags [x, y] with
  | some g => (f.nan, g)
  | none =>
    match x, y with
    | .inf _, .inf _ => (f.nan, fInv)
    | .inf n1, .fin n2 _ _ => (f.sign (n1 != n2) + f.inf, 0)
    | .fin n1 _ _, .inf n2 => (f.sign (n1 != n2), 0)
    | .fin n1 m1 e1, .fin n2 m2 e2 =>
      if m2 = 0 then (if m1 = 0 then (f.nan, fInv) else (f.sign (n1 != n2) + f.inf, fDz))
      else if m1 = 0 then (f.sign (n1 != n2), 0)
      else f.divFin (n1 != n2) m1 e1 m2 e2
    | _, _ => (f.nan, 0)

/-! ## Long-latency vector instructions -/

/-- The entry of a long-latency vector instruction in the window (R250, R257): it completes when it has written its results, which for a push into a return queue is
at the trap point; so it is for `zero`, which leaves no result to write (log entry 22). -/
def longEntry (dst : Dst) (la : BitVec 4) (tok : Nat) : LongLat :=
  longLat tok la (match dst with | .push _ | .zero => true | _ => false) false

/-- The end of a long-latency vector instruction: as `vecEnd`, with a new instruction in the window whose lookahead counts the words after it. -/
def State.longEnd (s : State) (c : Ctx) (la : BitVec 4) (us : List SrcUse) (dst : Dst) (act : Mask) (x : Image) (cc : BitVec 2)
    (upd : Warp → Warp) : Except Stop State :=
  match (c.afterReads us).writeDst dst act x cc with
  | .error e => .error e
  | .ok c =>
    let (tok, s) := s.takeTok
    .ok (s.retireCtx { c with x := (upd c.x).issueLong (longEntry dst la tok) })

/-- A long-latency floating-point instruction (R305). -/
def State.longFlt (s : State) (ty : BitVec 4) (d : Fld) (us : List SrcUse) (la : BitVec 4) (cc : BitVec 2) (g : Guard)
    (f : Fmt → List Nat → Nat × Nat) : Host.Outcome State Fault Refusal :=
  s.asWarp fun c =>
    match s.vecStart c d cc g us false false true with
    | .error q => .error q
    | .ok dst =>
      let xs := srcVals c ty us
      let act := c.x.active g
      let r := fun t => if mbit act t then onSubsF ty (f (fmtOf ty)) (laneArgs xs t) else (0, 0)
      s.longEnd c la us dst act (ofLanes fun t => (r t).1) cc (·.addFlags (laneFlags act fun t => (r t).2))

/-- A one-source long-latency floating-point instruction. -/
def State.longFun (s : State) (k : FFun) (f : Long1) : Host.Outcome State Fault Refusal :=
  s.longFlt f.ty f.d [⟨f.a, true⟩] f.la f.cc f.g fun m xs => m.apply k (arg xs 0)

/-- `vfrcp` (Table 11.3). -/
def execVfrcp (f : Long1) (s : State) : Host.Outcome State Fault Refusal := s.longFun .rcp f
/-- `vfrsq` (Table 11.3). -/
def execVfrsq (f : Long1) (s : State) : Host.Outcome State Fault Refusal := s.longFun .rsq f
/-- `vfsqrt` (Table 11.3). -/
def execVfsqrt (f : Long1) (s : State) : Host.Outcome State Fault Refusal := s.longFun .sqrt f
/-- `vfdiv` (Table 11.3). -/
def execVfdiv (f : Long2) (s : State) : Host.Outcome State Fault Refusal :=
  s.longFlt f.ty f.d [⟨f.a, true⟩, ⟨f.b, true⟩] f.la f.cc f.g fun m xs => m.div (arg xs 0) (arg xs 1)
/-- `vfexp2` (Table 11.3). -/
def execVfexp2 (f : Long1) (s : State) : Host.Outcome State Fault Refusal := s.longFun .exp2 f
/-- `vflog2` (Table 11.3). -/
def execVflog2 (f : Long1) (s : State) : Host.Outcome State Fault Refusal := s.longFun .log2 f
/-- `vfsin` (Table 11.3). -/
def execVfsin (f : Long1) (s : State) : Host.Outcome State Fault Refusal := s.longFun .sin f
/-- `vfcos` (Table 11.3). -/
def execVfcos (f : Long1) (s : State) : Host.Outcome State Fault Refusal := s.longFun .cos f
/-- `vftanh` (Table 11.3). -/
def execVftanh (f : Long1) (s : State) : Host.Outcome State Fault Refusal := s.longFun .tanh f
/-- `vfsig` (Table 11.3). -/
def execVfsig (f : Long1) (s : State) : Host.Outcome State Fault Refusal := s.longFun .sig f

end Sys2Proof.Machine
end

