-- ==== Sys2Proof/Machine/Convert.lean ====
section
/-! DEFINITION. Conversion, quantisation and the running maximum (08: R231 to R240; 11: R307 to R315). -/

namespace Sys2Proof.Machine

/-- The flag `n` when a condition holds. -/
def flagIf (b : Bool) (n : Nat) : Nat := if b then n else 0

/-- A floating-point value converted to a floating-point type (R231, R234). -/
def cvtToFloat (d : Fmt) (rm : Nat) (sf : Bool) (x : FVal) : Nat × Nat :=
  match x with
  | .nan sg => (d.nan, flagIf sg fInv)
  | .inf n => (d.sign n + (if sf then d.maxFin else d.inf), 0)
  | .fin n m e => d.roundZ rm sf n m e

/-- A floating-point value converted to an integer type or an unsigned code (R232). -/
def cvtToInt (dty : BitVec 4) (rm : Nat) (x : FVal) : Nat × Nat :=
  let w := Ty.width dty
  let sg := Ty.signed dty
  match x with
  | .nan _ => (0, fInv)
  | .inf n => (toN w (satInt sg w (if n then -(2 ^ 70 : Nat) else (2 ^ 70 : Nat))), fInv)
  | .fin n m e =>
    let (i, exact) := roundInt rm n m e
    let j := satInt sg w i
    (toN w j, flagIf (!exact) fInx + flagIf (i != j) fInv)

/-- `vcvt` on one element (R309). -/
def cvtElem (sty dty : BitVec 4) (rm : Nat) (sf : Bool) (x : Nat) : Nat × Nat :=
  let v := (fmtOf sty).val x
  if Ty.float dty then cvtToFloat (fmtOf dty) rm sf v else cvtToInt dty rm v

/-- `vcvti` on one element (R310). -/
def cvtIntElem (sty dty : BitVec 4) (sat : Bool) (x : Nat) : Nat × Nat :=
  let w := Ty.width dty
  let i := intVal sty x
  (toN w (if sat then satInt (Ty.signed dty) w i else i), 0)

/-- An integer converted to a floating-point type (R233). -/
def intToFloat (d : Fmt) (rm : Nat) (i : Int) : Nat × Nat := d.roundZ rm false (decide (i < 0)) i.natAbs 0

/-- The nearest integer to num/den, a tie going to the even one. -/
def rneDiv (num : Int) (den : Nat) : Int :=
  let q := num / (den : Int)
  let r := num % (den : Int)
  if 2 * r > den ∨ 2 * r = den ∧ q % 2 = 1 then q + 1 else q

/-- `vqnt` on one element (R236): `s` is an f16 pattern. -/
def quantElem (sty dty : BitVec 4) (x s z : Nat) : Nat × Nat :=
  let w := Ty.width dty
  let top : Int := ((2 ^ w : Nat) : Int) - 1
  match (fmtOf sty).val x, (fmtOf 8).val s with
  | _, .nan _ => (z, fInv + fNfs)
  | _, .inf _ => (z, fInv + fNfs)
  | .nan _, _ => (z, fInv)
  | .inf n1, .fin n2 m2 _ => if m2 = 0 then (z, fInv) else (if n1 = n2 then top.toNat else 0, fInx + fInv)
  | .fin n1 m1 e1, .fin n2 m2 e2 =>
    if m2 = 0 then (z, fInv)
    else
      let k := min e1 e2
      let num : Int := (if n1 = n2 then 1 else -1) * (m1 * 2 ^ (e1 - k).toNat : Nat)
      let den := m2 * 2 ^ (e2 - k).toNat
      let q := max 0 (min (rneDiv num den + z) top)
      (q.toNat, flagIf ((q - z) * den != num) fInx)

/-- `vdqnt` on one element (R237). -/
def dequantElem (dty : BitVec 4) (q s z : Nat) : Nat × Nat :=
  let d := fmtOf dty
  let x : Int := (q : Int) - z
  match (fmtOf 8).val s with
  | .nan sg => (d.nan, fNfs + flagIf sg fInv)
  | .inf _ => (d.nan, fNfs)
  | .fin n m e => d.roundZ 0 false (decide (x < 0) != n) (x.natAbs * m) e

/-- The elements of a lane that take part in a conversion (R307). -/
def cvtCount (sty dty : BitVec 4) : Nat := 64 / max (Ty.width sty) (Ty.width dty)

/-- A conversion of a lane under the part rule of R307. -/
def onParts (sty dty : BitVec 4) (part : Nat) (f : Nat → Nat × Nat) (x : Word) : Word × Nat :=
  let ws := Ty.width sty
  let wd := Ty.width dty
  let m := cvtCount sty dty
  let src := if ws < wd then part * m else 0
  let dst := if wd < ws then part * m else 0
  let r := (List.range m).map fun e => f (subEl ws x (src + e))
  (ofSubs wd fun e => if dst ≤ e then (r.getD (e - dst) (0, 0)).1 else 0, r.foldl (fun a y => a ||| y.2) 0)

/-- `vcvt` updates amax when its destination is narrower than its source or not a floating-point type (R239). -/
def cvtUpdates (sty dty : BitVec 4) : Bool := !Ty.float dty || decide (Ty.width dty < Ty.width sty)

/-- `vcvt` (R309). -/
def execVcvt (f : CvtF) (s : State) : Host.Outcome State Fault Refusal :=
  s.asWarp fun c =>
    let us : List SrcUse := [⟨f.a, true⟩]
    match s.vecStart c f.d f.cc f.g us false false true with
    | .error q => .error q
    | .ok dst =>
      let x := srcVal c f.st f.a 0
      let act := c.x.active f.g
      let r := fun t => onParts f.st f.ty f.part.toNat (cvtElem f.st f.ty f.rm.toNat f.sf) (lane x t)
      s.longEnd c f.la us dst act (ofLanes fun t => (r t).1) f.cc fun y =>
        let y := y.addFlags (laneFlags act fun t => (r t).2)
        if cvtUpdates f.st f.ty then { y with amax := amaxOver f.st act x y.amax } else y

/-- An ordinary conversion word of one source that no uninit mark stops (R310, R311). -/
def State.convert (s : State) (sty dty : BitVec 4) (d a : Fld) (cc : BitVec 2) (g : Guard) (part : Nat) (f : Nat → Nat × Nat) :
    Host.Outcome State Fault Refusal :=
  s.asWarp fun c =>
    let us : List SrcUse := [⟨a, false⟩]
    match s.vecStart c d cc g us false false true with
    | .error q => .error q
    | .ok dst =>
      let x := srcVal c sty a 0
      let act := c.x.active g
      let r := fun t => onParts sty dty part f (lane x t)
      s.vecEnd c us dst act (ofLanes fun t => (r t).1) cc (laneFlags act fun t => (r t).2)

/-- `vcvti` (R310). -/
def execVcvti (f : CvtiF) (s : State) : Host.Outcome State Fault Refusal :=
  s.convert f.st f.ty f.d f.a f.cc f.g f.part.toNat (cvtIntElem f.st f.ty f.sat)

/-- `vcvtf` (R311). -/
def execVcvtf (f : CvtfF) (s : State) : Host.Outcome State Fault Refusal :=
  s.convert f.st f.ty f.d f.a f.cc f.g f.part.toNat fun x => intToFloat (fmtOf f.ty) f.rm.toNat (intVal f.st x)

/-- The scale operand of `vqnt` and `vdqnt` (R259, R312): a special reads as its value in f16, `sub` as 0, and a predicate as
R260 has it read (DEDUCED, log entry 131). -/
def scaleVal (c : Ctx) (f : Fld) (pos : Nat) : Image :=
  match opdOf c.w.access f.toNat with
  | .spec n => ofLanes fun t => word (smallFloat 8 (specNum c false n t 0))
  | _ => srcVal c 13 f pos

/-- The scale of a lane of the scale operand (R312). -/
def scaleOf (x : Word) : Nat := fieldOf x 0 16

/-- The zero point of a lane of the scale operand, of the code's width (R312). -/
def zeroOf (ty : BitVec 4) (x : Word) : Nat := fieldOf x 16 (Ty.width ty)

/-- The position of the second of two source fields (R202). -/
def secondPos (c : Ctx) (us : List SrcUse) : Nat := (popPositions c.w.access us []).getD 1 0

/-- `vqnt` (R236, R313). -/
def execVqnt (f : QntF) (s : State) : Host.Outcome State Fault Refusal :=
  s.asWarp fun c =>
    let us : List SrcUse := [⟨f.a, true⟩, ⟨f.b, true⟩]
    match s.vecStart c f.d f.cc f.g us false false true with
    | .error q => .error q
    | .ok dst =>
      let x := srcVal c f.st f.a 0
      let b := scaleVal c f.b (secondPos c us)
      let act := c.x.active f.g
      let r := fun t => onParts f.st f.ty f.part.toNat
        (fun e => quantElem f.st f.ty e (scaleOf (lane b t)) (zeroOf f.ty (lane b t))) (lane x t)
      s.longEnd c f.la us dst act (ofLanes fun t => (r t).1) f.cc fun y =>
        let y := y.addFlags (laneFlags act fun t => (r t).2)
        { y with amax := amaxOver f.st act x y.amax }

/-- `vdqnt` (R237, R314). -/
def execVdqnt (f : DqntF) (s : State) : Host.Outcome State Fault Refusal :=
  s.asWarp fun c =>
    let us : List SrcUse := [⟨f.a, false⟩, ⟨f.b, true⟩]
    match s.vecStart c f.d f.cc f.g us false false true with
    | .error q => .error q
    | .ok dst =>
      let x := srcVal c f.st f.a 0
      let b := scaleVal c f.b (secondPos c us)
      let act := c.x.active f.g
      let r := fun t => onParts f.st f.ty f.part.toNat
        (fun e => dequantElem f.ty e (scaleOf (lane b t)) (zeroOf f.st (lane b t))) (lane x t)
      s.vecEnd c us dst act (ofLanes fun t => (r t).1) f.cc (laneFlags act fun t => (r t).2)

/-- `amaxr` (R315). -/
def execAmaxr (f : AmaxF) (s : State) : Host.Outcome State Fault Refusal :=
  s.asWarp fun c =>
    match s.vecStart c f.d f.cc f.g [] true false true with
    | .error q => .error q
    | .ok dst =>
      match s.needQuiet c.w with
      | .error e => .error e
      | .ok () =>
        if c.x.cond f.g = false then .ok (s.retireWarp c.w c.x)
        else
          match c.writeDst dst (c.x.active f.g) (ofLanes fun _ => c.x.amax) f.cc with
          | .error e => .error e
          | .ok c => .ok (s.retireCtx { c with x := { c.x with amax := if f.clr then 0 else c.x.amax } })

/-- `amaxc` (R315). -/
def execAmaxc (g : Guard) (s : State) : Host.Outcome State Fault Refusal :=
  s.asWarp fun c =>
    match s.needQuiet c.w with
    | .error e => .error e
    | .ok () => .ok (s.retireWarp c.w (if c.x.cond g then { c.x with amax := 0 } else c.x))

end Sys2Proof.Machine
end

