-- ==== Sys2Proof/Machine/Lighter.lean ====
section
/-! DEFINITION. Lighter iterators (14: R392 to R397): loading the program, the micro-instructions, the instruction limit. -/

namespace Sys2Proof.Machine

/-! ## Loading (R393) -/

/-- Words read one after another by an engine. -/
inductive WordsGot where
  | words (ws : List (BitVec 32))
  | fail (c : Cause)
  | fault (page : Page) (kind : Nat)
  | wait (s : State)
  deriving DecidableEq, Repr

/-- `n` program words from an address: each is a plain load of 4 bytes (R393, R399). -/
def State.engWords (s : State) (r : Reader) (sp : Space) : Nat → Nat → WordsGot
  | 0, _ => .words []
  | n + 1, va =>
    match s.engRead r sp va 4 with
    | .fail c => .fail c
    | .fault p k => .fault p k
    | .wait s => .wait s
    | .bytes bs =>
      if bs.any (·.2) then .fail .uncorrectable
      else
        match s.engWords r sp n (va + 4) with
        | .words ws => .words (BitVec.ofNat 32 (leNat (bs.map (·.1))) :: ws)
        | e => e

/-- A displacement of words from word `i` leads to a word of the program. -/
def inProgram (len i : Nat) (d : Int) : Bool := 0 ≤ (i : Int) + d && (i : Int) + d < len

/-- A Lighter program's words are defined and its targets lie inside it (R393). -/
def lighterProgOk (ws : List (BitVec 32)) : Bool :=
  ws.zipIdx.all fun x =>
    match decodeX x.1 with
    | none => false
    | some (.xbr _ _ _ i) => inProgram ws.length x.2 i.toInt
    | some (.xblk i) => inProgram ws.length x.2 i.toInt
    | some _ => true

/-- The command goes on with its progress replaced. -/
def State.progress (s : State) (t : Team) (c : Cmd) (p : Progress) : State :=
  s.modCmd t.num c.e c.seq fun x => { x with failed := false, st := .running p }

/-- LIGHTER_RUN (R393): the whole program is read and checked; it then runs word by word. -/
def execLighterRun (team : Nat) (s : State) : Host.Outcome State Fault Refusal :=
  .next <|
    match s.running? team 1 with
    | some (t, c, .lighter m) =>
      if m.prog.isEmpty = false then s
      else if c.failed then s.finish t c 1 Cause.faultFailed.code 0
      else
        match s.engWords (.cmd t.num c.e c.seq) (s.spaceOf t.num) (c.fld 2 52 12 + 1) (c.fld 2 0 52) with
        | .words ws =>
          let s := s.engServedRun (s.spaceOf t.num) (c.fld 2 0 52) (4 * (c.fld 2 52 12 + 1))
          if lighterProgOk ws then (s.progress t c (.lighter { m with prog := ws })).doneReading (.cmd t.num c.e c.seq) else s.finish t c 1 0 0
        | .fail k => s.finish t c 1 k.code 0
        | .wait s => s
        | .fault p k =>
          (match s.cmdFault t c p k .load with
          | .error w => s.finish t c 1 w.code 0
          | .ok s => s)
    | _ => s

/-! ## The machine -/

/-- The Lighter program that runs on a core: its team, command and machine. -/
def State.lighterOn (s : State) (core : Nat) : Option (Team × Cmd × Lighter) :=
  match (s.core core).lightCmd with
  | none => none
  | some x =>
    match s.running? x.1 1 with
    | some (t, c, .lighter m) => if m.prog.isEmpty then none else some (t, c, m)
    | _ => none

/-- The program that is current. -/
def State.lighter? (s : State) : Option (Team × Cmd × Lighter) :=
  match s.cur with
  | some (.lighter core) => s.lighterOn core
  | _ => none

/-- A register of the Lighter. -/
def Lighter.reg (m : Lighter) (n : BitVec 4) : Word := vget m.s n.toNat 0

/-- The machine with a register written and the pc at the next word. -/
def Lighter.write (m : Lighter) (d : BitVec 4) (v : Word) : Lighter := { m with s := vset m.s d.toNat v, pc := m.pc + 1 }

/-- The command ends: status 5 with errors, else 0 (R397). -/
def State.lightEnd (s : State) (t : Team) (c : Cmd) (m : Lighter) : State := s.finish t c (if m.errors = 0 then 0 else 5) 0 m.errors

/-- A word has executed; past the last word the command ends (R393). -/
def State.lightNext (s : State) (t : Team) (c : Cmd) (m : Lighter) : State :=
  let s := s.doneReading (.cmd t.num c.e c.seq)
  if m.pc < 0 ∨ m.prog.length ≤ m.pc then s.lightEnd t c m else s.progress t c (.lighter { m with run := m.run + 1 })

/-- The machine with its tile discarded (R396, R397). -/
def Lighter.discard (m : Lighter) : Lighter :=
  { m with tile := List.replicate m.tile.length 0, tpois := List.replicate m.tile.length none, mask := 0 }

/-- An error record (Table 14.9). -/
def lightRecordBytes (m : Lighter) (cause code : Nat) : List (Byte × Bool) :=
  (leBytes 4 m.tileNo.toNat ++ leBytes 1 cause ++ leBytes 1 code ++ leBytes 2 0 ++ leBytes 4 (m.pc % 2 ^ 32).toNat ++ leBytes 4 0).map fun b => (b, false)

/-- The record of the error in hand, when the area holds it, then the recovery target (R396). -/
def State.lightRecord (s : State) (t : Team) (c : Cmd) (m : Lighter) : State :=
  match m.err with
  | none => s
  | some (cause, code) =>
    let done (s : State) : State := s.lightNext t c { m with err := none, errors := m.errors + 1, pc := m.recov }
    let area := c.fld 7 4 48 * 16
    if area = 0 ∨ c.fld 3 48 16 ≤ m.errors ∨ c.failed = true then done s
    else
      match s.checkTlb (s.spaceOf t.num) .store (area + 16 * m.errors) 16 with
      | .ok pas => done (s.engWrite (c.owner t) pas (lightRecordBytes m cause code))
      | .error (.cause _ _) => done s
      | .error (.fault p k) =>
        match s.cmdFault t c p k .store with
        | .error _ => done s
        | .ok s => s.modCmd t.num c.e c.seq fun x => { x with failed := false, st := .running (.lighter m) }

/-- An error: the tile is discarded, the record written, the program goes on at the recovery target (R396). -/
def State.lightError (s : State) (t : Team) (c : Cmd) (m : Lighter) (cause code : Nat) : State :=
  s.lightRecord t { c with failed := false } { m.discard with err := some (cause, code) }

/-- The instruction limit of a command. -/
def Cmd.ilim (c : Cmd) : Nat := if c.fld 3 16 32 = 0 then 2 ^ 32 else c.fld 3 16 32

/-- Runs a Lighter word's meaning; an error whose record is held is finished first, and no word is executed beyond the limit (R397). -/
def State.asLighter (s : State) (f : Team → Cmd → Lighter → State) : Host.Outcome State Fault Refusal :=
  match s.lighter? with
  | none => .fault .noAgent
  | some (t, c, m) => .next (if m.err.isSome then s.lightRecord t c m else if c.ilim ≤ m.run then s.finish t c 4 0 m.errors else f t c m)

/-- A read of a Lighter word has been served (R129). -/
def State.lightServed (s : State) (t : Team) (va n : Nat) : State := s.engServed (s.spaceOf t.num) va n

/-- A load of a Lighter word: after outcome 1 it fails (R395, R396). -/
def State.lightRead (s : State) (t : Team) (c : Cmd) (va n : Nat) : EngGot :=
  if c.failed then .fail .faultFailed else s.engRead (.cmd t.num c.e c.seq) (s.spaceOf t.num) va n

/-- A word that only computes. -/
def State.lightWord (s : State) (f : Lighter → Lighter) : Host.Outcome State Fault Refusal :=
  s.asLighter fun t c m => s.lightNext t c (f m)

/-! ## Words without memory (Table 14.7) -/

/-- `xend`. -/
def execXend (s : State) : Host.Outcome State Fault Refusal := s.asLighter fun t c m => s.lightEnd t c m

/-- `xli`. -/
def execXli (d : BitVec 4) (i : BitVec 15) (s : State) : Host.Outcome State Fault Refusal := s.lightWord fun m => m.write d (i.signExtend 64)

/-- `xlsh`. -/
def execXlsh (d : BitVec 4) (i : BitVec 15) (s : State) : Host.Outcome State Fault Refusal :=
  s.lightWord fun m => m.write d (m.reg d * 32768 + i.setWidth 64)

/-- `xadd`. -/
def execXadd (d a b : BitVec 4) (i : BitVec 15) (s : State) : Host.Outcome State Fault Refusal :=
  s.lightWord fun m => m.write d (m.reg a + m.reg b + i.signExtend 64)

/-- `xsub`. -/
def execXsub (d a b : BitVec 4) (s : State) : Host.Outcome State Fault Refusal := s.lightWord fun m => m.write d (m.reg a - m.reg b)

/-- `xmul`. -/
def execXmul (d a b : BitVec 4) (s : State) : Host.Outcome State Fault Refusal := s.lightWord fun m => m.write d (m.reg a * m.reg b)

/-- `xand`. -/
def execXand (d a b : BitVec 4) (s : State) : Host.Outcome State Fault Refusal := s.lightWord fun m => m.write d (m.reg a &&& m.reg b)

/-- `xshl`. -/
def execXshl (d a : BitVec 4) (n : BitVec 6) (s : State) : Host.Outcome State Fault Refusal := s.lightWord fun m => m.write d (m.reg a <<< n.toNat)

/-- `xshr`. -/
def execXshr (d a : BitVec 4) (n : BitVec 6) (s : State) : Host.Outcome State Fault Refusal := s.lightWord fun m => m.write d (m.reg a >>> n.toNat)

/-- The number of one bits. -/
def onesOf (x : Word) : Nat := (List.range 64).countP x.getLsbD

/-- `xpopc`. -/
def execXpopc (d a : BitVec 4) (s : State) : Host.Outcome State Fault Refusal := s.lightWord fun m => m.write d (word (onesOf (m.reg a)))

/-- The conditions of `xbr` and `pbr`: equal, not equal, lower, not lower, unsigned. -/
def microCond (c : BitVec 2) (x y : Word) : Bool :=
  match c.toNat with
  | 0 => x == y
  | 1 => x != y
  | 2 => x.toNat < y.toNat
  | _ => y.toNat ≤ x.toNat

/-- `xbr`. -/
def execXbr (k : BitVec 2) (a b : BitVec 4) (i : BitVec 15) (s : State) : Host.Outcome State Fault Refusal :=
  s.lightWord fun m => { m with pc := if microCond k (m.reg a) (m.reg b) then m.pc + i.toInt else m.pc + 1 }

/-- `xblk`. -/
def execXblk (i : BitVec 15) (s : State) : Host.Outcome State Fault Refusal :=
  s.lightWord fun m => { m with recov := m.pc + i.toInt, pc := m.pc + 1 }

/-- `xmask`. -/
def execXmask (a : BitVec 4) (s : State) : Host.Outcome State Fault Refusal :=
  s.lightWord fun m => { m with mask := m.mask ||| (1#32 <<< ((m.reg a).toNat % 32)), pc := m.pc + 1 }

/-- `xchk` (R396). -/
def execXchk (a b : BitVec 4) (s : State) : Host.Outcome State Fault Refusal :=
  s.asLighter fun t c m => if m.reg a = m.reg b then s.lightNext t c { m with pc := m.pc + 1 } else s.lightError t c m 1 0

/-! ## Loads and emission (R395) -/

/-- `xld`: a poisoned sector is error 2, a failed access error 3; a demand fault holds the program. -/
def execXld (d a : BitVec 4) (z : BitVec 2) (i : BitVec 15) (s : State) : Host.Outcome State Fault Refusal :=
  s.asLighter fun t c m =>
    let va := (m.reg a + i.signExtend 64).toNat
    match s.lightRead t c va (2 ^ z.toNat) with
    | .bytes bs =>
      let s := s.lightServed t va (2 ^ z.toNat)
      if bs.any (·.2) then s.lightError t c m 2 0 else s.lightNext t c (m.write d (word (leNat (bs.map (·.1)))))
    | .fail k => s.lightError t c m 3 k.code
    | .wait s => s
    | .fault p k =>
      match s.cmdFault t c p k .load with
      | .error w => s.lightError t c m 3 w.code
      | .ok s => s

/-- A data unit is Poisoned with the cause that reached it first. -/
def Lighter.spoil (m : Lighter) (u : Nat) (w : Cause) : Lighter := { m with tpois := m.tpois.modify u fun p => some (p.getD w) }

/-- A byte placed in a row of the tile (R395). -/
def Lighter.place (m : Lighter) (row col : Nat) (b : Byte) : Lighter :=
  { m with tile := m.tile.modify (col / 8) fun x => setImgByte x (8 * row + col % 8) b }

/-- The bytes of a value placed in a row from a column, poisoned ones spoiling their units. -/
def Lighter.fill (m : Lighter) (row col : Nat) (bs : List (Byte × Bool)) : Lighter :=
  bs.zipIdx.foldl (fun m x => if x.1.2 then m.spoil ((col + x.2) / 8) .uncorrectable else m.place row (col + x.2) x.1.1) m

/-- A failed value load spoils every unit it would have written (R395). -/
def Lighter.fillBad (m : Lighter) (col n : Nat) (w : Cause) : Lighter :=
  (List.range n).foldl (fun m i => m.spoil ((col + i) / 8) w) m

/-- `xput`. -/
def execXput (d a b : BitVec 4) (i : BitVec 15) (s : State) : Host.Outcome State Fault Refusal :=
  s.asLighter fun t c m =>
    let row := (m.reg a).toNat
    let col := (m.reg b).toNat
    let n := i.toNat
    let done (s : State) (m : Lighter) : State := s.lightNext t c { m with pc := m.pc + 1 }
    if 32 ≤ row ∨ 8 * m.tile.length < col + n then s.lightError t c m 4 0
    else
      match s.lightRead t c (m.reg d).toNat n with
      | .bytes bs => done (s.lightServed t (m.reg d).toNat n) (m.fill row col bs)
      | .fail w => done s (m.fillBad col n w)
      | .wait s => s
      | .fault p k =>
        match s.cmdFault t c p k .load with
        | .error w => done s (m.fillBad col n w)
        | .ok s => s

/-- The header entry of a tile (Table 14.8). -/
def lightHeader (m : Lighter) (tag : Word) : Entry :=
  Entry.ready (ofBytes (leBytes 2 0x0b01 ++ leBytes 1 m.tile.length ++ leBytes 1 0 ++ leBytes 4 tag.toNat ++ leBytes 4 m.tileNo.toNat ++ leBytes 4 0 ++
    leBytes 4 m.mask.toNat ++ leBytes 1 (m.tpois.countP Option.isSome)))

/-- The data entries of a tile. -/
def lightUnits (m : Lighter) : List Entry :=
  m.tile.zipIdx.map fun x =>
    match m.tpois[x.2]?.getD none with
    | some w => { st := .poisoned w, data := 0, psec := 0 }
    | none => Entry.ready x.1

/-- `xemit`: all entries at once, or it stalls. -/
def execXemit (a : BitVec 4) (s : State) : Host.Outcome State Fault Refusal :=
  s.asLighter fun t c m =>
    match s.engPush t (c.fld 3 0 6) (lightHeader m (m.reg a) :: lightUnits m) with
    | none => s
    | some s => s.lightNext t c { m.discard with tileNo := m.tileNo + 1, pc := m.pc + 1 }

/-! ## The limit (R397) -/

/-- LIGHTER_LIMIT: after ilim instructions the tile is discarded and the command ends with status 4. -/
def execLighterLimit (core : Nat) (s : State) : Host.Outcome State Fault Refusal :=
  .next <|
    match s.lighterOn core with
    | none => s
    | some (t, c, m) => if c.ilim ≤ m.run ∧ m.err = none then s.finish t c 4 0 m.errors else s

end Sys2Proof.Machine
end

