-- ==== Sys2Proof/Machine/Pilot.lean ====
section
/-! DEFINITION. Pilot walks (14: R399 to R403, R421): loading the rule program, starting walks, the micro-instructions, delivering results. -/

namespace Sys2Proof.Machine

/-! ## Walks of a command -/

/-- The node size, the step limit, the number of keys of a command (Table 14.10). -/
def Cmd.nsz (c : Cmd) : Nat := 16 * 2 ^ c.fld 4 32 2
/-- The step limit. -/
def Cmd.maxs (c : Cmd) : Nat := c.fld 4 16 16
/-- The number of keys. -/
def Cmd.nk (c : Cmd) : Nat := c.fld 4 8 8 + 1
/-- The fault policy is WAIT. -/
def Cmd.waits (c : Cmd) : Bool := c.fld 4 34 1 == 1

/-- A rule program's words are defined and its targets lie inside it (R399). -/
def pilotProgOk (ws : List (BitVec 32)) : Bool :=
  ws.zipIdx.all fun x =>
    match decodeP x.1 with
    | none => false
    | some (.pbr _ _ _ i) => inProgram ws.length x.2 i.toInt
    | some _ => true

/-- A walk at its start (R400). -/
def Walk.init (c : Cmd) (key : Nat) : Walk :=
  { key := key, w := #v[0, c.qw 5, c.qw 6, c.qw 7, 0, 0, 0, 0], started := false, steps := 0, node := 0, buf := none, pc := 0, count := 0, out := none,
    failed := false }

/-- The reader of a walk. -/
def walkReader (t : Team) (c : Cmd) (key : Nat) : Reader := .walk t.num c.seq key

/-- What a walk has joined. -/
def Joined.ofWalk (team : Nat) (seq : BitVec 32) (key : Nat) : Joined → Bool
  | .walk t q k _ => t == team && q == seq && k == key
  | _ => false

/-- A walk waits on a demand fault: of the core of its team, or of the one on which the team was when it was saved (R388). -/
def State.walkHeld (s : State) (t : Team) (c : Cmd) (key : Nat) : Bool :=
  s.cores.any fun k => k.faults.any fun f => match f with | some f => f.joined.any (Joined.ofWalk t.num c.seq key) | none => false

/-- Changes the command's run. -/
def State.modPilot (s : State) (t : Team) (c : Cmd) (f : PilotRun → PilotRun) : State :=
  s.modCmd t.num c.e c.seq fun x => match x.st with | .running (.pilot r) => { x with st := .running (.pilot (f r)) } | _ => x

/-- Replaces a walk, whose access is over. -/
def State.putWalk (s : State) (t : Team) (c : Cmd) (w : Walk) : State :=
  (s.modPilot t c fun r => { r with walks := r.walks.map fun x => if x.key = w.key then { w with failed := false } else x }).doneReading
    (walkReader t c w.key)

/-- A walk ends with an outcome and a cause's code (R400 to R402). -/
def State.endWalk (s : State) (t : Team) (c : Cmd) (w : Walk) (outcome cause : Nat) : State := s.putWalk t c { w with out := some (outcome, cause) }

/-- A demand fault of a walk under the command's policy (R402). -/
def State.walkFault (s : State) (t : Team) (c : Cmd) (w : Walk) (page : Page) (kind : Nat) (a : Acc) : State :=
  if c.waits = false ∨ s.noRing = true then s.endWalk t c w 3 Cause.faultFailed.code
  else
    match s.raiseFault (s.spaceOf t.num) t.num page kind (.walk t.num c.seq w.key a) with
    | none => s
    | some (_, s) => s

/-- A read of a walk: its bytes go on, a failure or a poisoned sector ends the walk, a fault follows the policy (R402). `lost` is the walk as a failed read
leaves it. -/
def State.walkRead (s : State) (t : Team) (c : Cmd) (w lost : Walk) (va n : Nat) (f : State → List Byte → State) : State :=
  if w.failed then s.endWalk t c lost 3 Cause.faultFailed.code
  else
  match s.engRead (walkReader t c w.key) (s.spaceOf t.num) va n with
  | .bytes bs =>
    let s := s.engServed (s.spaceOf t.num) va n
    if bs.any (·.2) then s.endWalk t c lost 3 Cause.uncorrectable.code else f s (bs.map (·.1))
  | .fail k => s.endWalk t c lost 3 k.code
  | .wait s => s
  | .fault p k => s.walkFault t c (if c.waits = false ∨ s.noRing = true then lost else w) p k .load

/-- The key of a walk (R400). -/
def State.readKey (s : State) (t : Team) (c : Cmd) (w : Walk) : State :=
  s.walkRead t c w w (c.fld 3 0 52 + 8 * w.key) 8 fun s bs => s.putWalk t c { w with w := vset w.w 0 (word (leNat bs)), started := true }

/-- A host read of a reader is on its way. -/
def State.readingHost (s : State) (r : Reader) : Bool := s.links.apReads.any (·.dst == .buf r) || s.links.apQueue.any (·.dst == .buf r)

/-- PILOT_WALK (R399, R400): the rule program is read and checked; then a walk whose key has still to be read goes on, or the next walk starts, up to 32 at once. -/
def execPilotWalk (team : Nat) (s : State) : Host.Outcome State Fault Refusal :=
  .next <|
    match s.running? team 2 with
    | some (t, c, .pilot r) =>
      if r.prog.isEmpty then
        if c.failed then s.finish t c 1 Cause.faultFailed.code 0
        else
        match s.engWords (.cmd t.num c.e c.seq) (s.spaceOf t.num) (c.fld 2 52 5 + 1) (c.fld 2 0 52) with
        | .words ws =>
          let s := s.engServedRun (s.spaceOf t.num) (c.fld 2 0 52) (4 * (c.fld 2 52 5 + 1))
          if pilotProgOk ws then (s.progress t c (.pilot { r with prog := ws })).doneReading (.cmd t.num c.e c.seq) else s.finish t c 1 0 0
        | .fail k => s.finish t c 1 k.code 0
        | .wait s => s
        | .fault p k =>
          (match s.cmdFault t c p k .load with
          | .error w => s.finish t c 1 w.code 0
          | .ok s => s)
      else
        match r.walks.find? (fun w => !w.started && w.out.isNone && !s.walkHeld t c w.key && !s.readingHost (walkReader t c w.key)) with
        | some w => s.readKey t c w
        | none =>
          if r.next < c.nk ∧ (r.walks.filter fun w => w.out.isNone).length < 32 then
            let w := Walk.init c r.next
            (s.modPilot t c fun r => { r with next := r.next + 1, walks := r.walks ++ [w] }).readKey t c w
          else s
    | _ => s

/-! ## The machine -/

/-- A running walk: its team, command, program and itself, when it is started, not ended and not held. -/
def State.walkOf (s : State) (team : Nat) (seq : BitVec 32) (key : Nat) : Option (Team × Cmd × PilotRun × Walk) :=
  match s.team? team with
  | none => none
  | some t =>
    if t.runsEngines = false then none
    else
      match (t.runningOn 2).find? (·.1.seq == seq) with
      | some (c, .pilot r) =>
        (match r.walks.find? (·.key == key) with
        | none => none
        | some w => if w.started && w.out.isNone && !s.walkHeld t c key then some (t, c, r, w) else none)
      | _ => none

/-- The walk that is current. -/
def State.pilot? (s : State) : Option (Team × Cmd × PilotRun × Walk) :=
  match s.cur with
  | some (.pilot team seq key) => s.walkOf team seq key
  | _ => none

/-- A register of a walk. -/
def Walk.reg (w : Walk) (n : BitVec 3) : Word := vget w.w n.toNat 0

/-- The walk with a register written and the pc at the next word. -/
def Walk.write (w : Walk) (d : BitVec 3) (v : Word) : Walk := { w with w := vset w.w d.toNat v, pc := w.pc + 1 }

/-- A word has executed; past the last word the walk ends as not found (R400). -/
def State.walkNext (s : State) (t : Team) (c : Cmd) (r : PilotRun) (w : Walk) : State :=
  if w.pc < 0 ∨ r.prog.length ≤ w.pc then s.endWalk t c w 1 0 else s.putWalk t c w

/-- Runs a Pilot word's meaning; while the count stands at 256 no word is executed and the walk ends with outcome 2 (R400). -/
def State.asPilot (s : State) (f : Team → Cmd → PilotRun → Walk → State) : Host.Outcome State Fault Refusal :=
  match s.pilot? with
  | none => .fault .noAgent
  | some (t, c, r, w) => .next (if 256 ≤ w.count then s.endWalk t c w 2 0 else f t c r w)

/-- A word that only computes. -/
def State.walkWord (s : State) (f : Walk → Walk) : Host.Outcome State Fault Refusal :=
  s.asPilot fun t c r w => s.walkNext t c r { f w with count := w.count + 1 }

/-! ## Words (Table 14.11) -/

/-- `pend`. -/
def execPend (n : BitVec 1) (s : State) : Host.Outcome State Fault Refusal := s.asPilot fun t c _ w => s.endWalk t c w n.toNat 0

/-- `pli`. -/
def execPli (d : BitVec 3) (i : BitVec 19) (s : State) : Host.Outcome State Fault Refusal := s.walkWord fun w => w.write d (i.signExtend 64)

/-- `padd`. -/
def execPadd (d a b : BitVec 3) (i : BitVec 19) (s : State) : Host.Outcome State Fault Refusal :=
  s.walkWord fun w => w.write d (w.reg a + w.reg b + i.signExtend 64)

/-- `psub`. -/
def execPsub (d a b : BitVec 3) (s : State) : Host.Outcome State Fault Refusal := s.walkWord fun w => w.write d (w.reg a - w.reg b)

/-- `pmul`. -/
def execPmul (d a b : BitVec 3) (s : State) : Host.Outcome State Fault Refusal := s.walkWord fun w => w.write d (w.reg a * w.reg b)

/-- `pand`. -/
def execPand (d a b : BitVec 3) (s : State) : Host.Outcome State Fault Refusal := s.walkWord fun w => w.write d (w.reg a &&& w.reg b)

/-- `pxor`. -/
def execPxor (d a b : BitVec 3) (s : State) : Host.Outcome State Fault Refusal := s.walkWord fun w => w.write d (w.reg a ^^^ w.reg b)

/-- `pshr`. -/
def execPshr (d a : BitVec 3) (n : BitVec 6) (s : State) : Host.Outcome State Fault Refusal := s.walkWord fun w => w.write d (w.reg a >>> n.toNat)

/-- `pshl`. -/
def execPshl (d a : BitVec 3) (n : BitVec 6) (s : State) : Host.Outcome State Fault Refusal := s.walkWord fun w => w.write d (w.reg a <<< n.toNat)

/-- The bytes of the node buffer from an offset; before the first step they read as zeros (R401). -/
def Walk.nodeNum (w : Walk) (off z : Nat) : Nat :=
  match w.buf with
  | none => 0
  | some bs => leNat ((bs.drop off).take z)

/-- A load from the node buffer: an offset whose bytes pass the node's size ends the walk with cause "range" (R401). -/
def State.nodeLoad (s : State) (d : BitVec 3) (z : BitVec 2) (off : Walk → Nat) : Host.Outcome State Fault Refusal :=
  s.asPilot fun t c r w =>
    let n := 2 ^ z.toNat
    if c.nsz < off w + n then s.endWalk t c w 3 Cause.range.code
    else s.walkNext t c r { w.write d (word (w.nodeNum (off w) n)) with count := w.count + 1 }

/-- `pld`. -/
def execPld (d : BitVec 3) (z : BitVec 2) (o : BitVec 8) (s : State) : Host.Outcome State Fault Refusal := s.nodeLoad d z fun _ => o.toNat

/-- `pldx`. -/
def execPldx (d a : BitVec 3) (z : BitVec 2) (o : BitVec 8) (s : State) : Host.Outcome State Fault Refusal :=
  s.nodeLoad d z fun w => (w.reg a + o.setWidth 64).toNat

/-- `pbr`. -/
def execPbr (k : BitVec 2) (a b : BitVec 3) (i : BitVec 19) (s : State) : Host.Outcome State Fault Refusal :=
  s.walkWord fun w => { w with pc := if microCond k (w.reg a) (w.reg b) then w.pc + i.toInt else w.pc + 1 }

/-- `pnext` (R400, R401, R421): null, the step limit, alignment, then the step; a step that fails is counted, its node is not read (DEDUCED, log entry 26). -/
def execPnext (a : BitVec 3) (s : State) : Host.Outcome State Fault Refusal :=
  s.asPilot fun t c r w =>
    let va := (w.reg a).toNat
    if va = 0 then s.endWalk t c w 1 0
    else if w.steps = c.maxs then s.endWalk t c w 2 0
    else if va % c.nsz ≠ 0 then s.endWalk t c w 3 Cause.misaligned.code
    else
      s.walkRead t c w { w with steps := w.steps + 1 } va c.nsz fun s bs =>
        s.walkNext t c r { w with steps := w.steps + 1, node := va, buf := some bs, count := 0, pc := w.pc + 1 }

/-- `pwr` (R401, R402): a plain store at the home slice, and the same bytes of the buffer. -/
def execPwr (a : BitVec 3) (z : BitVec 2) (o : BitVec 8) (s : State) : Host.Outcome State Fault Refusal :=
  s.asPilot fun t c r w =>
    let n := 2 ^ z.toNat
    match w.buf with
    | none => s.endWalk t c w 3 Cause.range.code
    | some bs =>
      if c.nsz < o.toNat + n then s.endWalk t c w 3 Cause.range.code
      else if w.failed then s.endWalk t c w 3 Cause.faultFailed.code
      else
        let data := leBytes n (w.reg a).toNat
        match s.checkTlb (s.spaceOf t.num) .store (w.node + o.toNat) n with
        | .ok pas =>
          (s.engWrite (c.owner t) pas (data.map fun b => (b, false))).walkNext t c r
            { w with buf := some (bs.take o.toNat ++ data ++ bs.drop (o.toNat + n)), count := w.count + 1, pc := w.pc + 1 }
        | .error (.cause k _) => s.endWalk t c w 3 k.code
        | .error (.fault p k) => s.walkFault t c w p k .store

/-! ## Results (R403) -/

/-- The entry of an ended walk (Table 14.12). -/
def Walk.entry (w : Walk) (outcome cause : Nat) : Entry :=
  Entry.ready (ofBytes (leBytes 8 w.node ++ leBytes 4 w.steps ++ leBytes 1 outcome ++ leBytes 1 cause ++ leBytes 2 0 ++
    (w.w.toList.flatMap fun x => leBytes 8 x.toNat) ++ w.buf.getD []))

/-- PILOT_RESULT_DELIVERY (R174, R403): the next walk in key order, once it has ended and the queue has room, with the release flag once its writes have been performed; the
last delivery completes the command. -/
def execPilotResultDelivery (team : Nat) (s : State) : Host.Outcome State Fault Refusal :=
  .next <|
    match s.running? team 2 with
    | some (t, c, .pilot r) =>
      match r.walks with
      | [] => s
      | w :: rest =>
        match w.out with
        | none => s
        | some (outcome, cause) =>
          if c.rel = true ∧ s.writesOut t c = false then s
          else
          match s.engPush t (c.fld 4 0 6) [w.entry outcome cause] with
          | none => s
          | some s =>
            let r := { r with walks := rest, done := r.done + 1, limits := r.limits + b2n (outcome == 2), faults := r.faults + b2n (outcome == 3) }
            if r.done = c.nk then s.finish t c (if r.faults ≠ 0 then 5 else if r.limits ≠ 0 then 4 else 0) 0 (r.limits + r.faults)
            else s.modPilot t c fun _ => r
    | _ => s

end Sys2Proof.Machine
end

