-- ==== Sys2Proof/Machine/Slices.lean ====
section
/-! DEFINITION. The home slices (05: R122, R128 to R141): service of requests, victims and the tide table, fills, merged replies and their codes, the reply at the L1. -/

namespace Sys2Proof.Machine

/-! ## Reads of HBM4E (R46) -/

/-- The stack of an HBM address (R45). -/
def stackOf (pa : Nat) : Nat := bitsOf pa 8 3 ^^^ bitsOf pa 21 3 ^^^ bitsOf pa 30 3

/-- Counts what the code found on a 64-byte word (R46, R154). -/
def State.countEcc (s : State) (pa : Nat) (e : Ecc) : State :=
  match e with
  | .clean => s
  | .corrected => s.setCtr { s.mem.ctr with hbmCorr := bump s.mem.ctr.hbmCorr (stackOf pa) 1 }
  | .uncorrectable => s.setCtr { s.mem.ctr with hbmUnc := bump s.mem.ctr.hbmUnc (stackOf pa) 1 }

/-- A 64-byte word read from HBM4E: an uncorrectable error poisons its sectors, but for those that the home slice holds (R46, R122). -/
def State.readWord64 (s : State) (pa : Nat) (e : Ecc) : State :=
  let s := s.countEcc pa e
  if e = .uncorrectable then
    let l := (s.slice (sliceOf pa)).line? (lineOf pa)
    let inL2 (sec : Nat) : Bool := match l with | some l => l.valid.getLsbD (sec % 8) | none => false
    let bad := ((List.range 4).map fun i => pa / 64 * 4 + i).filter fun sec => !inL2 sec
    { s with mem := { s.mem with ram := { s.mem.ram with poison := bad.foldl (fun p sec => insertNat sec p) s.mem.ram.poison } } }
  else s

/-- A line read from HBM4E, its two words with what the code found on each. -/
def State.readLine (s : State) (line : Nat) (lo hi : Ecc) : State := (s.readWord64 line lo).readWord64 (line + 64) hi

/-- PATROL_SCRUB (R46): errors are counted; corrected data is written back, which changes nothing a program reads. -/
def execPatrolScrub (pa : Nat) (lo hi : Ecc) (s : State) : Host.Outcome State Fault Refusal :=
  .next (if isHbm pa then s.readLine (lineOf pa) lo hi else s)

/-! ## Read requests and replies (R138 to R141) -/

/-- The request at the head of a slice's queue leaves it. -/
def Slice.dequeue (x : Slice) : Slice := { x with queue := x.queue.drop 1 }

/-- The open window of a line. -/
def Slice.window? (x : Slice) (line : Nat) : Option OpenWindow := x.windows.find? (·.line == line)

/-- Whether a slice holds sectors of a line. -/
def Slice.holds (x : Slice) (line : Nat) (sectors : BitVec 8) : Bool :=
  match x.line? line with | some l => sectors &&& ~~~l.valid == 0 | none => false

/-- A slice after a read request: it joins the open window of its line, or opens one, with a fill when a sector is missing (R139). -/
def Slice.read (x : Slice) (m : MemSys) (mask : BitVec 64) (line : Nat) (sectors : BitVec 8) (tag : Nat) : Slice :=
  match x.window? line with
  | some w =>
    let w := { w with mask := w.mask ||| mask, sectors := w.sectors ||| sectors, toks := w.toks ++ [tag] }
    let w := { w with filling := w.filling || !x.holds line w.sectors }
    { x.allocate m line with windows := x.windows.map fun y => if y.line = line then w else y }
  | none =>
    let x' := x.allocate m line
    { x' with windows := x.windows ++
        [{ line := line, mask := mask, sectors := sectors, tag := tag, toks := [tag], filling := !x.holds line sectors }] }

/-- SLICE_LOAD (R129, R139): the read request at the head. -/
def execSliceLoad (n : Nat) (s : State) : Host.Outcome State Fault Refusal :=
  .next <|
    match (s.slice n).queue with
    | .load mask line sectors tag :: _ =>
      let joined := ((s.slice n).window? line).isSome
      let s := s.modSlice n fun x => x.dequeue.read s.mem mask line sectors tag
      if joined then s.setCtr { s.mem.ctr with merged := bump s.mem.ctr.merged n 1 } else s
    | _ => s

/-- HBM_FILL_DONE (R129): the requested sectors that were missing arrive, with what the code found on the words read for them. -/
def execHbmFillDone (n line : Nat) (lo hi : Ecc) (s : State) : Host.Outcome State Fault Refusal :=
  .next <|
    match (s.slice n).window? line with
    | none => s
    | some w =>
      if w.filling = false ∨ 128 ≤ n then s
      else
        let have' := (((s.slice n).line? line).map (·.valid)).getD 0
        let miss := w.sectors &&& ~~~have'
        let s := if miss &&& 0x0f ≠ 0 then s.readWord64 line lo else s
        let s := if miss &&& 0xf0 ≠ 0 then s.readWord64 (line + 64) hi else s
        s.modSlice n fun x =>
          let x := (x.allocate s.mem line).modLine line fun l => { l with valid := l.valid ||| w.sectors }
          { x with windows := x.windows.map fun y => if y.line = line then { y with filling := false } else y }

/-- REPLY_INJECT (R139 to R141): the window closes; each masked core receives one copy. -/
def execReplyInject (n line : Nat) (s : State) : Host.Outcome State Fault Refusal :=
  .next <|
    match (s.slice n).window? line with
    | none => s
    | some w =>
      if w.filling then s else s.inject n w 0

/-- The sectors that a reply carries, decoded (R141). -/
def Reply.decode (r : Reply) : List (Nat × BitVec 128) :=
  ((List.range 8).foldl (fun (st : List (Nat × BitVec 128) × List (BitVec 128) × BitVec 128) i =>
    match r.code i with
    | 0 => (st.1 ++ [(i, st.2.1.headD 0)], st.2.1.drop 1, st.2.1.headD 0)
    | 1 => (st.1 ++ [(i, 0)], st.2.1, 0)
    | 2 => (st.1 ++ [(i, st.2.2)], st.2.1, st.2.2)
    | _ => st) ([], r.literals, 0)).1

/-- Writes a sector into a line's bytes. -/
def setSector (d : BitVec 1024) (i : Nat) (v : BitVec 128) : BitVec 1024 :=
  (d &&& ~~~((BitVec.allOnes 128).setWidth 1024 <<< (128 * i))) ||| (v.setWidth 1024 <<< (128 * i))

/-- An L1 line with the sectors of a reply installed, but for those that hold written bytes (R138) and those that the core has newer (R165), each under the bytes that the core has
stored since. -/
def L1Line.install (l : L1Line) (a : Arrival) : L1Line :=
  a.r.decode.foldl (fun l x =>
    if l.dirtyIn x.1 = 0 ∧ a.skip.getLsbD x.1 = false then
      let bit : BitVec 8 := 1#8 <<< x.1
      let mine := a.stored.filter fun b => b.1.1 / 16 == a.r.line / 16 + x.1
      { l with
        valid := l.valid ||| bit
        data := mine.foldl (fun d b => setLineByte d (b.1.1 % 128) b.1.2) (setSector l.data x.1 x.2)
        poison := if a.r.poison.getLsbD x.1 || mine.any (·.2) then l.poison ||| bit else l.poison &&& ~~~bit }
    else l) l

/-- A byte that a reply carries, with its poison as a cause. -/
def Reply.byteAt (r : Reply) (pa : Nat) : Option (Byte × Option Cause) :=
  if lineOf pa ≠ r.line then none
  else
    let i := pa % 128 / 16
    (r.decode.find? (·.1 == i)).map fun x =>
      (x.2.extractLsb' (8 * (pa % 16)) 8, if r.poison.getLsbD i then some .uncorrectable else none)

/-- Whether a core's memory island is in S0 or S1 (R138). -/
def State.memAwake (s : State) (core : Nat) : Bool := (s.island (6 * core + 5)).st == .s0 || (s.island (6 * core + 5)).st == .s1

/-- REPLY_RECEIVE (R138, R141): the loads that the reply serves take their bytes; the L1 installs the sectors that it carries, and none of them from a copy sent before this one that
arrives later (log entry 28); a copy that the core did not ask for is discarded while its memory island sleeps. -/
def execReplyReceive (core n : Nat) (s : State) : Host.Outcome State Fault Refusal :=
  .next <|
    match (s.core core).arriving[n]? with
    | none => s
    | some a =>
      let asked := (s.core core).loads.any fun l => l.dst != .caches && a.r.toks.contains l.tok
      let carried := sectorMask fun i => a.r.code i != 3
      let s := s.modCore core fun k => { k with
        arriving := ((k.arriving.take n).map fun b => if b.r.line = a.r.line then { b with skip := b.skip ||| carried } else b) ++ k.arriving.drop (n + 1)
        loads := k.loads.map fun l => if l.dst != .caches && a.r.toks.contains l.tok then l.take a.r.byteAt else l }
      if asked = false ∧ s.memAwake core = false then s else s.putL1 core (((s.core core).line a.r.line).install a)

/-! ## Stores, atomics, reductions -/

/-- A store of a core has been performed at its home slice: its acknowledgement may return. -/
def State.performed (s : State) (core tok : Nat) : State :=
  s.modCore core fun k => { k with unacked := k.unacked.map fun u => if u.tok = tok then { u with done := true } else u }

/-- Home memory after a part of a store: poisoned data sets its sector's mark; the last part of a sector that the store writes whole clears it (R122, R123). -/
def Ram.storePart (r : Ram) (part : List Host.Cell) (rest : List (List Host.Cell)) (poison whole : BitVec 8) : Ram :=
  let sec := (part.headD (0, 0)).1 / 16
  let m := r.store part fun i => poison.getLsbD (i % 8)
  if whole.getLsbD (sec % 8) && !poison.getLsbD (sec % 8) && rest.all fun p => (p.headD (0, 0)).1 / 16 != sec then { m with poison := m.poison.erase sec } else m

/-- SLICE_STORE (R129, R158): a part of the store at the head, which one nothing constrains, and with the last one its acknowledgement; or the write-back of a line to HBM4E that
`cflush.l2` asks for. -/
def execSliceStore (n : Nat) (s : State) : Host.Outcome State Fault Refusal :=
  .next <|
    match (s.slice n).queue with
    | .store core tok parts poison whole :: q =>
      let (k, s) := if parts.length ≤ 1 then (0, s) else s.takeFree
      let i := k % parts.length
      let part := parts.getD i []
      let rest := parts.eraseIdx i
      let line := lineOf (part.headD (0, 0)).1
      let s := { s with mem := { s.mem with ram := s.mem.ram.storePart part rest poison whole } }
      let s := s.touchLine n line (sectorsOf (part.map Prod.fst) line)
      if rest.isEmpty then (s.modSlice n Slice.dequeue).performed core tok
      else s.modSlice n fun x => { x with queue := .store core tok rest poison whole :: q }
    | .clean core tok line :: _ =>
      (s.modSlice n fun x => x.dequeue.modLine line fun l => { l with dirty := 0 }).performed core tok
    | _ => s

/-- Adds poisoned operations of a slice (R123). -/
def State.countPoisoned (s : State) (n k : Nat) : State := s.setCtr { s.mem.ctr with slicePois := bump s.mem.ctr.slicePois n k }

/-- The atomics of elements in home memory, in the order given: the state, the old values by lane, the lanes that touched poison (R134). -/
def State.homeAtomics (s : State) : List AtomElem → Image × List (Nat × Cause) → State × Image × List (Nat × Cause)
  | [], r => (s, r)
  | e :: es, r =>
    match s.mem.ram.rmw e with
    | none => s.homeAtomics es (r.1, r.2 ++ [(e.lane, .uncorrectable)])
    | some (m, old) =>
      State.homeAtomics { s with mem := { s.mem with ram := m } } es
        (r.1 ||| BitVec.ofNat 2048 ((extWord e.ty (word old)).toNat <<< (64 * e.lane)), r.2)

/-- The lanes of elements. -/
def lanesIn (es : List AtomElem) : Mask := maskOf fun t => es.any (·.lane == t)

/-- The results of lanes reach the atomic of a token that a warp has begun (R354). -/
def State.atomicResult (s : State) (w : WarpId) (tok : Nat) (lanes : Mask) (img : Image) (bad : List (Nat × Cause)) : State :=
  s.modWarp w fun x =>
    match x.begun with
    | some (.atomic t left res b ent) => if t = tok then { x with begun := some (.atomic t (left &&& ~~~lanes) (res ||| img) (b ++ bad) ent) } else x
    | _ => x

/-- A packet of the `atom` into a register of a token. -/
def SliceReq.ofAtom (tok : Nat) : SliceReq → Bool
  | .atomic _ (.reg _ t) _ => t == tok
  | _ => false

/-- The elements of the `atom` of a token in a queue. -/
def atomElems (tok : Nat) (q : List SliceReq) : List AtomElem :=
  q.flatMap fun r => match r with | .atomic _ (.reg _ t) es => if t = tok then es else [] | _ => []

/-- No packet of the `atom` of a token in a queue is behind a request that it follows. -/
def atomFirst (tok : Nat) (q : List SliceReq) : Bool := q.zipIdx.all fun x => !x.1.ofAtom tok || (q.take x.2).all fun e => !x.1.follows e

/-- A queue split into requests that are held back, and those that go on before them: each keeps its place behind those that it follows. -/
def splitHeld (held : List SliceReq) : List SliceReq → List SliceReq × List SliceReq
  | [] => (held, [])
  | r :: rest => if held.any r.follows then splitHeld (held ++ [r]) rest else let x := splitHeld held rest; (x.1, r :: x.2)

/-- The head of a queue waits: what does not follow it goes first (R167). -/
def holdBack : List SliceReq → List SliceReq
  | [] => []
  | r :: rest => let x := splitHeld [r] rest; x.2 ++ x.1

/-- The elements of an `atom` into a register, in an order that nothing constrains: all of them, or, when one touches poison, none (R134, R214). -/
def State.atomAll (s : State) (es : List AtomElem) : State × Image × List (Nat × Cause) :=
  match (es.filter fun e => s.mem.ram.poisonedAt e.pa).map fun e => (e.lane, Cause.uncorrectable) with
  | [] => let (es, s) := s.freeOrder es; s.homeAtomics es (0, [])
  | bad => (s, 0, bad)

/-- Lines of home memory that elements touch are present and dirty in their slices. -/
def State.touchAll (s : State) (es : List AtomElem) : State :=
  (linesOf (es.map (·.pa))).foldl (fun s ln => s.touchLine (sliceOf ln) ln (sectorsOf (es.map (·.pa)) ln)) s

/-- An `atom` into a register is performed at all its slices at once, when every packet can be served: a lane that meets poison traps, and then no lane has been performed
(R214; log entry 46). Until then its packet waits. -/
def State.sliceAtom (s : State) (n : Nat) (w : WarpId) (tok : Nat) : State :=
  if s.slices.all (fun (x : Slice) => atomFirst tok x.queue) then
    let es := s.slices.toList.flatMap fun (x : Slice) => atomElems tok x.queue
    let s := { s with slices := s.slices.map fun (x : Slice) => { x with queue := x.queue.filter fun r => !r.ofAtom tok } }
    let (s, img, bad) := s.atomAll es
    (s.touchAll es).atomicResult w tok (lanesIn es) img bad
  else s.modSlice n fun x => { x with queue := holdBack x.queue }

/-- SLICE_ATOMIC (R134, R158, R354): the lanes in an order that nothing constrains; a lane that touches poison leaves memory unchanged, and where nothing is returned it is
counted. -/
def execSliceAtomic (n : Nat) (s : State) : Host.Outcome State Fault Refusal :=
  .next <|
    match (s.slice n).queue with
    | .atomic _ (.reg w tok) _ :: _ => s.sliceAtom n w tok
    | .atomic _ dst es :: _ =>
      let s := s.modSlice n Slice.dequeue
      let line := lineOf ((es.head?.map (·.pa)).getD 0)
      let (es', s) := s.freeOrder es
      let (s, img, bad) := s.homeAtomics es' (0, [])
      let s := s.touchLine n line (sectorsOf (es.map (·.pa)) line)
      (match dst with
      | .warp w tok | .reg w tok => s.atomicResult w tok (lanesIn es) img bad
      | .discard w tok => (s.countPoisoned n bad.length).atomicResult w tok (lanesIn es) 0 [])
    | _ => s

/-- SLICE_REDUCE (R135, R355). -/
def execSliceReduce (n : Nat) (s : State) : Host.Outcome State Fault Refusal :=
  .next <|
    match (s.slice n).queue with
    | .reduce core tok es :: _ =>
      let s := s.modSlice n Slice.dequeue
      let line := lineOf ((es.head?.map (·.pa)).getD 0)
      let (es', s) := s.freeOrder es
      let (s, _, bad) := s.homeAtomics es' (0, [])
      ((s.touchLine n line (sectorsOf (es.map (·.pa)) line)).countPoisoned n bad.length).performed core tok
    | _ => s

/-! ## Gathers (R136) -/

/-- What an index of a gather asks for: nothing (zero), bytes at addresses, or a failure. -/
structure GatherElem where
  pos : Nat
  va  : Nat
  res : Except AccFail (List Nat)

/-- The elements of a gather, given the indices; an index at or above the table's length reads as zero and asks for nothing. -/
def State.gatherElems (s : State) (sp : Space) (g : GatherReq) (index : Nat → Nat) : List GatherElem :=
  (lanesOf g.lanes).filterMap fun i =>
    if g.len.toNat ≤ index i then none
    else some { pos := g.esz * i, va := g.win.va + g.esz * index i, res := s.checkWin sp g.win .load (g.esz * index i) g.esz }

/-- An entry that a load fills is Pending while one of its accesses waits on a fault. -/
def State.markPending (s : State) (l : PendLoad) : State :=
  match l.dst with
  | .entry q slot gen =>
    s.modTeam l.w.team fun t =>
      match t.queues[q]? with
      | none => t
      | some x =>
        match x.find slot gen with
        | none => t
        | some i => t.setQueue q (x.modify i fun e => if e.st = .issued then { e with st := .pending } else e)
  | _ => s

/-- Sectors of lines that a slice reads of its own are present in it. -/
def State.filled (s : State) (pas : List Nat) : State :=
  (linesOf (pas.filter isHbm)).foldl (fun s ln =>
    s.modSlice (sliceOf ln) fun x => (x.allocate s.mem ln).modLine ln fun l => { l with valid := l.valid ||| sectorsOf pas ln }) s

/-- A byte of home memory that a slice reads for a load, with its poison as a cause. -/
def Ram.readByte (r : Ram) (pa : Nat) : Byte × Option Cause := (readCell r.cells pa, if r.poisonedAt pa then some .uncorrectable else none)

/-- Changes a load. -/
def State.modLoad (s : State) (core tok : Nat) (f : PendLoad → PendLoad) : State :=
  s.modCore core fun k => { k with loads := k.loads.map fun l => if l.tok = tok then f l else l }

/-- Bytes of a load in progress are asked for: those homed at slice `home`, which makes the load, are read there, the others from the L1, at their slices, or over the link (R126, R136). -/
def State.readMore (s : State) (core : Nat) (l : PendLoad) (home : Option Nat) (need : List NeedByte) : State :=
  let here (pa : Nat) : Bool := isHbm pa && home == some (sliceOf pa)
  let pas := (need.filter fun n => here n.pa).map (·.pa)
  let s := (s.filled pas).dropClean core pas
  let got := { l with need := need }.take fun pa => if here pa then some (s.mem.ram.readByte pa) else s.ready? core l pa
  let s := s.modLoad core l.tok fun x => { x with need := x.need ++ got.need, data := x.data ||| got.data, bad := got.bad }
  s.askMissing core l got.need

/-- The reads of a gather's elements begin: each is a load of its own at chip scope; a failing one poisons the entry, a demand fault is raised for the core, and while one is
outstanding the others are still to be made (R136, R171). -/
def State.gatherRun (s : State) (g : GatherReq) (l : PendLoad) (home : Option Nat) (index : Nat → Nat) (bad : Bool) : State :=
  let sp := s.spaceOf l.w.team
  let es := if bad then [] else s.gatherElems sp g index
  let need := es.flatMap fun e => match e.res with | .ok pas => pas.zipIdx.map fun y => ({ pos := e.pos + y.2, pa := y.1 } : NeedByte) | _ => []
  let fails := es.filterMap fun e => match e.res with | .error (.cause c _) => some (e.pos, c) | _ => none
  let faults := es.filterMap fun e => match e.res with | .error (.fault p k) => some (p, k, e) | _ => none
  let fsp := if g.win.dom then s.domSpace sp else sp
  let noRing := s.noRing
  let acc (e : GatherElem) : LaneAcc := { pos := e.pos, va := e.va, size := g.esz, dom := g.win.dom }
  let held := if noRing then [] else faults.map fun f => acc f.2.2
  let l' : PendLoad := { l with
    gather := none
    accs := es.map acc
    need := []
    data := 0
    bad := l.bad ++ fails ++ (if bad then [(0, .uncorrectable)] else []) ++ (if noRing then faults.map fun f => (f.2.2.pos, Cause.faultFailed) else [])
    faulted := held
    later := if held.isEmpty then [] else (es.filter fun e => match e.res with | .ok _ => true | _ => false).map acc }
  let s := s.modCore g.core fun k => { k.dropLoad l.tok with loads := (k.dropLoad l.tok).loads ++ [l'] }
  if held.isEmpty then s.readMore g.core l' home need
  else (faults.foldl (fun s f => match s.raiseFault fsp l.w.team f.1 f.2.1 (.load l.tok) with | some (_, s) => s | none => s) s).markPending l'

/-- The pages that a gather's elements would fault on find slots on their core: with none free the gather waits (R150). -/
def State.gatherFits (s : State) (g : GatherReq) (l : PendLoad) (index : Nat → Nat) : Bool :=
  let sp := s.spaceOf l.w.team
  let fsp := if g.win.dom then { sp with asid := s.mem.domAsid } else sp
  let pages := ((s.gatherElems sp g index).filterMap fun e => match e.res with | .error (.fault p _) => some p | _ => none).eraseDups
  let new := pages.filter fun p => ((s.core g.core).faultOn fsp.asid p).isNone
  s.noRing || new.length ≤ ((List.range 32).filter fun i => (vget (s.core g.core).faults i none).isNone).length

/-- A gather whose index line no one slice holds goes on once the line has arrived (R136); while its faults find no slot, its slice tries again (R150). -/
def State.gatherArrived (s : State) (core tok : Nat) : State :=
  match (s.core core).load? tok with
  | none => s
  | some l =>
    match l.gather with
    | none => s
    | some g =>
      let index (i : Nat) : Nat := bitsOf l.data.toNat (32 * i) 32
      if l.need.isEmpty = false ∨ l.faulted.isEmpty = false then s
      else if l.bad.isEmpty then (if s.gatherFits g l index then s.gatherRun g l none index false
        else s.modSlice (sliceOf (g.idx.headD 0)) fun x => { x with queue := x.queue ++ [.elem core tok []] })
      else s.modLoad core tok fun x => { x with gather := none }

/-- SLICE_GATHER (R136): the gather at the head reads its index line, a poisoned sector of which poisons the entry, and its elements are asked for; or the slice reads what another has
forwarded. -/
def execSliceGather (n : Nat) (s : State) : Host.Outcome State Fault Refusal :=
  .next <|
    match (s.slice n).queue with
    | .gather g :: _ =>
      let index (i : Nat) : Nat := leNat (((g.idx.drop (4 * i)).take 4).map (readCell s.mem.ram.cells))
      let bad := g.idx.any s.mem.ram.poisonedAt
      (match (s.core g.core).load? g.tok with
      | none => s.modSlice n Slice.dequeue
      | some l => if bad || s.gatherFits g l index then ((s.modSlice n Slice.dequeue).filled g.idx).gatherRun g l (some n) index bad else s)
    | .elem core tok need :: _ =>
      let pas := need.map (·.pa)
      let s := ((linesOf pas).foldl (fun s ln => s.readNow ln (sectorsOf pas ln) (coreBit core)) (s.modSlice n Slice.dequeue)).dropClean core pas
      (s.modLoad core tok fun l => l.take fun pa => if pas.contains pa then some (s.mem.ram.readByte pa) else none).gatherArrived core tok
    | _ => s

/-! ## Evictions and storage errors -/

/-- A line of a core's L1 is evicted: its dirty sectors are written back (R126). Which line is a turn's choice. -/
def State.evict (s : State) (core pa : Nat) : State := s.flushLine core (lineOf pa) fun _ => true

/-- An uncorrectable error in L1 or L2 storage (R122): a dirty sector is poisoned; a clean one is invalidated, to be fetched again, and counted. -/
def State.upset (s : State) (core : Option Nat) (pa : Nat) : State :=
  let i := pa % 128 / 16
  let count (s : State) : State := s.setCtr { s.mem.ctr with sramCorr := s.mem.ctr.sramCorr + 1 }
  match core with
  | some c =>
    let l := (s.core c).line (lineOf pa)
    if l.valid.getLsbD i = false then s
    else if l.dirtyIn i ≠ 0 then s.modCore c fun k => k.putLine { l with poison := l.poison ||| (1#8 <<< i) }
    else count (s.modCore c fun k => k.dropSectors (· == i) l)
  | none =>
    match (s.slice (sliceOf pa)).line? (lineOf pa) with
    | none => s
    | some l =>
      if l.valid.getLsbD i = false then s
      else if l.dirty.getLsbD i then { s with mem := { s.mem with ram := { s.mem.ram with poison := insertNat (pa / 16) s.mem.ram.poison } } }
      else count (s.modSlice (sliceOf pa) fun x => x.modLine (lineOf pa) fun y => { y with valid := y.valid &&& ~~~(1#8 <<< i) })

/-! ## Write-backs, phases, dead lines -/

/-- The lines of a core that became dirty 64 µs ago or earlier are written back (R168). -/
def State.writeBackOld (s : State) (core : Nat) : State :=
  ((s.core core).l1.filter fun l => l.dirty != 0 && 64000 ≤ (s.memCount core - l.dirtyAt).toNat).foldl (fun s l => s.writeBackLine core (fun _ => true) l) s

/-- DIRTY_WRITEBACK_TIMER (R168): the line that became dirty first is written back; no later than 64 µs after that one goes by itself as time passes. -/
def execDirtyWritebackTimer (core : Nat) (s : State) : Host.Outcome State Fault Refusal :=
  .next <|
    match (s.core core).l1.filter fun l => l.dirty != 0 with
    | [] => s
    | l :: r => s.writeBackLine core (fun _ => true) (r.foldl (fun m x => if x.dirtyAt < m.dirtyAt then x else m) l)

/-- The acknowledgement of a store arrives: the releases that waited for it do so no longer. -/
def State.ackStore (s : State) (core tok : Nat) : State :=
  let s := s.modCore core fun k => { k with unacked := k.unacked.filter fun v => v.tok != tok }
  s.setTeams (s.hm.teams.map fun t => { t with warps := t.warps.map fun x => { x with holdSt := x.holdSt.filter (· != tok) } })

/-- STORE_ACKNOWLEDGED (R126, R166): the acknowledgement of a store that has been performed arrives. -/
def execStoreAcknowledged (core : Nat) (s : State) : Host.Outcome State Fault Refusal :=
  .next <|
    match (s.core core).unacked.find? (·.done) with
    | none => s
    | some u => s.ackStore core u.tok

/-- PHASE_APPLY (R133). -/
def execPhaseApply (n : Nat) (s : State) : Host.Outcome State Fault Refusal :=
  .next (s.modSlice n fun x => { x with phase := s.mem.tidePhase.toNat })

/-- DEAD_LINE_INVALIDATE (R131): a line whose class has rank 0 in the slice's phase leaves it. -/
def execDeadLineInvalidate (n : Nat) (s : State) : Host.Outcome State Fault Refusal :=
  .next <| s.modSlice n fun x =>
    match x.lines.find? fun l => s.mem.rankOf x.phase l.cls == 0 && (x.window? l.pa).isNone with
    | none => x
    | some l => { x with lines := x.lines.filter fun y => y.pa != l.pa }

/-! ## Tide registers (R130 to R133) -/

/-- TIDE_LOAD (R132): a load begins from the base as it stands; one in progress is abandoned. -/
def execTideLoad (s : State) : Host.Outcome State Fault Refusal := .next { s with mem := { s.mem with tideLoading := true, tideFrom := s.mem.tideBase } }

/-- The image at an address: the table, or none when it is rejected (R132, Table 5.3). -/
def Ram.tideImage (r : Ram) (base : Nat) : Option TideTable :=
  let nmap := r.num (base + 1) 1
  let nphase := r.num (base + 2) 1
  let map := tab nmap fun m => (r.num (base + 64 + 16 * m) 8, r.num (base + 64 + 16 * m + 8) 8)
  if r.num base 1 ≠ 1 ∨ nmap > 32 ∨ nphase = 0 ∨ nphase > 64 ∨ r.num (base + 3) 61 ≠ 0 ∨ map.any (fun e => e.2 < e.1) then none
  else some { map := map, ranks := tab nphase fun f => word (r.num (base + 576 + 8 * f) 8) }

/-- TIDE_LOAD_DONE (R131, R132): the image is applied, every rotation pointer 0; or it is rejected, which leaves the basic level and is counted. -/
def execTideLoadDone (s : State) : Host.Outcome State Fault Refusal :=
  .next <|
    if s.mem.tideLoading = false then s
    else
      let s := s.servedRun (s.mem.tideFrom.toNat * 4096) 1088
      match s.mem.ram.tideImage (s.mem.tideFrom.toNat * 4096) with
      | some t =>
        { s with
          mem := { s.mem with tide := some t, tideLevel := true, tideLoading := false }
          slices := s.slices.map fun (x : Slice) => { x with ptr := [] } }
      | none =>
        let s := { s with mem := { s.mem with tide := none, tideLevel := false, tideLoading := false } }
        s.setCtr { s.mem.ctr with tideErr := s.mem.ctr.tideErr + 1 }

/-- TIDE_BASIC (R130). -/
def execTideBasic (s : State) : Host.Outcome State Fault Refusal :=
  .next { s with mem := { s.mem with tide := none, tideLevel := false, tideLoading := false } }

/-- TIDE_PHASE_WRITE (R133): the new phase; each slice applies it later. -/
def execTidePhaseWrite (v : Word) (s : State) : Host.Outcome State Fault Refusal :=
  .next { s with mem := { s.mem with tidePhase := BitVec.ofNat 6 (fieldOf v 0 6) } }

end Sys2Proof.Machine
end

