-- ==== Sys2Proof/Machine/Faults.lean ====
section
/-! DEFINITION. The TLB and its invalidation (05: R144, R145), demand faults and their resolution (R150 to R153), the counters (R154). -/

namespace Sys2Proof.Machine

/-! ## The TLB -/

/-- The TLB set of an entry: 8 ways make the 2,048 and the 256 entries of R144; the index is the model's (log entry 24). -/
def TlbEntry.set (e : TlbEntry) : Nat := e.va / 2 ^ pageBits e.big % (if e.big then 32 else 256)

/-- A core's TLB with an entry added; the oldest of a full set leaves (R144: which one leaves affects timing only). -/
def Core.addTlb (c : Core) (e : TlbEntry) : Core :=
  let rest := c.tlb.filter fun x => !(x.asid == e.asid && x.va == e.va && x.big == e.big)
  let same := rest.filter fun x => x.big == e.big && x.set == e.set
  let rest := if same.length < 8 then rest else match same.head? with | some o => rest.erase o | none => rest
  { c with tlb := rest ++ [e] }

/-- A core's walk cache with an entry added; the oldest leaves when 64 are held (R144). -/
def Core.addWalk (c : Core) (e : WalkEntry) : Core :=
  let rest := c.walks.filter fun x => !(x.asid == e.asid && x.level == e.level && x.va == e.va)
  { c with walks := (if rest.length < 64 then rest else rest.drop 1) ++ [e] }

/-- The addresses of the table entries that a core's walk reads: from the lowest level that its walk cache holds, else from the address-space table. -/
def State.walkReads (s : State) (c : Nat) (asid : BitVec 12) (va : Nat) : List Nat :=
  match [3, 2, 1].findSome? fun l => ((s.core c).cached asid l va).map fun t => (l, t) with
  | some x => entriesRead va (x :: (s.coreWalk c asid va).tabs)
  | none => s.rootReads asid va

/-- TRANSLATION_WALK_DONE (R143, R144): a walk, whose reads go through the L2, enters the leaf that it finds in the core's TLB, and the tables that it came to in its walk cache; with no
leaf it caches nothing. -/
def execTranslationWalkDone (core asid va : Nat) (s : State) : Host.Outcome State Fault Refusal :=
  .next <|
    if 2 ^ 52 ≤ va then s
    else
      let asid := BitVec.ofNat 12 asid
      let x := s.coreWalk core asid va
      let s := s.servedFor (coreBit core) (s.walkReads core asid va)
      match x.res with
      | .leaf f big w r =>
        let e : TlbEntry := { asid := asid, va := va / 2 ^ pageBits big * 2 ^ pageBits big, pa := f, big := big, write := w, replica := r }
        s.modCore core fun k =>
          x.tabs.foldl (fun k y => k.addWalk { asid := asid, level := y.1, va := va / 2 ^ levelShift y.1, table := y.2 }) (k.addTlb e)
      | _ => s

/-- Whether an invalidation covers some of `[a, a + n)` in an address space (Table 5.7). -/
def invCovers (v : Word) (asid : BitVec 12) (a n : Nat) : Bool :=
  let scope := fieldOf v 14 2
  let page := fieldOf v 16 36 * 65536
  let lo := if scope = 0 then page else page / 2 ^ 21 * 2 ^ 21
  let len := if scope = 0 then 65536 else 2 ^ 21
  if scope = 3 then true
  else if fieldOf v 52 12 ≠ asid.toNat then false
  else scope == 2 || (lo < a + n && a < lo + len)

/-- A warp with the windows that an invalidation covers set to limit 0 (R145, R147). -/
def Warp.dropWindows (x : Warp) (v : Word) (asid dom : BitVec 12) : Warp :=
  { x with tw := x.tw.map fun (w : Window) =>
      if w.remote = none ∧ invCovers v (if w.dom then dom else asid) w.va (max w.limit 1) = true then { w with limit := 0 } else w }

/-- Every TLB, walk cache and window drops the entries that an invalidation covers (R145). -/
def State.dropEntries (s : State) (v : Word) : State :=
  let cores := s.cores.map fun (c : Core) => { c with
    tlb := c.tlb.filter fun e => !invCovers v e.asid e.va (2 ^ pageBits e.big)
    walks := c.walks.filter fun e => !invCovers v e.asid (e.va * 2 ^ levelShift e.level) (2 ^ levelShift e.level) }
  let teams := s.hm.teams.map fun t =>
    match t.warps with
    | [] => t
    | x :: r => { t with warps := x.dropWindows v (s.spaceOf t.num).asid s.mem.domAsid :: r }
  ({ s with cores := cores }).setTeams teams

/-- TLB_INVALIDATE (R145): the request joins the queue, in which the first 16 are taken and further ones wait at the interface, and its entries are dropped. -/
def execTlbInvalidate (v : Word) (s : State) : Host.Outcome State Fault Refusal :=
  .next <|
    let r : TlbReq := { v := v, tok := s.mem.nextTok }
    ({ s with mem := { s.mem with tlbReqs := s.mem.tlbReqs ++ [r] } }).dropEntries v

/-- Whether no access begun before a token is still in progress: loads that wait on no fault, until their entries have their data or their poison; stores, atomics, reads of the host, held stores
to it (R145). -/
def State.settledBefore (s : State) (tok : Nat) : Bool :=
  s.links.apReads.all (fun r => tok ≤ r.tag) && s.links.apQueue.all (fun r => tok ≤ r.tag) &&
  s.cores.all (fun c => c.loads.all (fun l => tok ≤ l.tok || !l.faulted.isEmpty) && c.unacked.all fun u => tok ≤ u.tok) && s.links.apWrites.isEmpty &&
    s.hm.teams.all fun t => t.warps.all fun x => match x.begun with | some (.atomic k _ _ _ _) => tok ≤ k | _ => true

/-- TLB_INVALIDATE_DONE (R145): the oldest request completes once every access that used an entry in its scope has. -/
def execTlbInvalidateDone (s : State) : Host.Outcome State Fault Refusal :=
  .next <|
    match s.mem.tlbReqs with
    | [] => s
    | r :: rest =>
      if s.settledBefore r.tok then ({ s with mem := { s.mem with tlbReqs := rest, tlbDone := s.mem.tlbDone + 1 } }).dropEntries r.v else s

/-! ## Park conditions of faults (R107) -/

/-- The fault a condition names still holds an access of the team. -/
def State.faultHolds (s : State) (t : Team) (fid : Nat) : Bool :=
  match vget (s.core (fid / 32)).faults (fid % 32) none with
  | some f => fid / 32 == t.core && f.joined.any (Joined.ofTeam (s.core t.core) t.num)
  | none => false

/-- A team without the conditions `keep` refuses; with none left it returns to Resident, and its timer restarts (R107). -/
def Team.clearParks (t : Team) (keep : ParkCond → Bool) : Team :=
  let ps := t.parks.filter keep
  if t.st = .parked ∧ ps.isEmpty = true then { t with parks := [], st := .resident, parkNs := 0 } else { t with parks := ps }

/-- The ns that a parked team has been parked (R107). -/
def State.parkedNs (s : State) (t : Team) : Nat := if t.st = .parked then t.parkNs + (s.mgmt.count - t.parkAt).toNat else t.parkNs

/-- The park timeout of a team is due. -/
def State.parkDue (s : State) (t : Team) : Bool := t.st == .parked && s.hm.parkTo != 0 && s.hm.parkTo.toNat * 1000000 ≤ s.parkedNs t

/-- The conditions whose faults have resolved or been cancelled clear (R107); a resolution that meets the timeout restarts the timer of a team that stays parked (R117). -/
def State.settleParks (s : State) : State :=
  s.setTeams (s.hm.teams.map fun t =>
    if t.st = .parked ∨ t.st = .saving then
      let u := t.clearParks fun p => p.reason == 3 || s.faultHolds t p.fid
      if s.parkDue t = true ∧ u.st = .parked ∧ u.parks.length < t.parks.length then { u with parkNs := 0, parkAt := s.mgmt.count } else u
    else t)

/-! ## Resolving a fault (R151) -/

/-- An access touches a page. -/
def LaneAcc.touches (a : LaneAcc) (page : Page) : Bool := page.meets a.va a.size

/-- The space of an access of a load. -/
def State.accSpace (s : State) (l : PendLoad) (a : LaneAcc) : Space :=
  if a.dom then s.domSpace (s.spaceOf l.w.team) else s.spaceOf l.w.team

/-- An access of a load that waits on a fault is checked again (R149, R151): the state, and the kind of the fault when it stays with that of `page`, which it also does while another page's
finds no slot. One that passes is made once no access of its load waits (R171). -/
def State.retryAcc (s : State) (core tok : Nat) (page : Page) (a : LaneAcc) : State × Option Nat :=
  match (s.core core).load? tok with
  | none => (s, none)
  | some l =>
    let sp := s.accSpace l a
    match s.checkTlb sp .load a.va a.size with
    | .error (.fault p k) =>
      if p = page then (s, some k)
      else
        match s.raiseFault sp l.w.team p k (.load tok) with
        | some (_, s) => (s, none)
        | none => (s, some k)
    | .error (.cause c _) =>
      (s.modLoad core tok fun l => { l with faulted := l.faulted.erase a, bad := l.bad ++ [(a.pos, c)], gather := none }, none)
    | .ok pas =>
      match l.gather with
      | some g => ((s.modCore core fun k => k.dropLoad tok).sendGather core { l with faulted := [] } g pas, none)
      | none => (s.modLoad core tok fun l => { l with faulted := l.faulted.erase a, later := l.later ++ [a] }, none)

/-- The kinds of the faults that stay: the largest. -/
def maxKind (a b : Option Nat) : Option Nat :=
  match a, b with
  | some x, some y => some (max x y)
  | some x, none => some x
  | none, y => y

/-- Before the load of an entry that was Pending reads: the core's own copies of the sectors that an acquire load at a wide scope reads go home (R168), and so do those for which
another load of the warp still waits, behind which this one then stands (R165; log entry 28). -/
def State.letGo (s : State) (core : Nat) (l : PendLoad) (need : List NeedByte) : State :=
  let others := ((s.core core).loads.filter fun x => x.w == l.w && x.tok != l.tok).flatMap (·.need)
  s.flushPas core ((need.filter fun n => isHbm n.pa && (l.home || others.any fun m => m.pa / 16 == n.pa / 16)).map (·.pa))

/-- The load of a Pending entry whose last fault has resolved is performed: every access is checked as it is made (R149, R171); a fault that one meets is raised, or, on the page
in hand or finding no slot, stays with the fault in hand, whose kind is answered. -/
def State.performLater (s : State) (core tok : Nat) (page : Page) : State × Option Nat :=
  match (s.core core).load? tok with
  | none => (s, none)
  | some l =>
    if l.faulted.isEmpty = false ∨ l.later.isEmpty = true ∨ l.bad.isEmpty = false then (s, none)
    else
      let rs := l.later.map fun a => (a, s.checkTlb (s.accSpace l a) .load a.va a.size)
      let fails := rs.filterMap fun r => match r.2 with | .error (.cause c _) => some (r.1.pos, c) | _ => none
      let faults := rs.filterMap fun r => match r.2 with | .error (.fault p k) => some (r.1, p, k) | _ => none
      let need := rs.flatMap fun r => match r.2 with | .ok pas => pas.zipIdx.map fun y => ({ pos := r.1.pos + y.2, pa := y.1 } : NeedByte) | _ => []
      let held := faults.map (·.1)
      let s := s.modLoad core tok fun x =>
        { x with bad := x.bad ++ fails, faulted := held, later := if held.isEmpty then [] else x.later.filter fun a => !held.contains a }
      if held.isEmpty then ((s.letGo core l need).readMore core { l with later := [], bad := l.bad ++ fails } none need, none)
      else
        faults.foldl (fun (x : State × Option Nat) f =>
          if f.2.1 = page then (x.1, maxKind x.2 (some f.2.2))
          else
            match x.1.raiseFault (x.1.accSpace l f.1) l.w.team f.2.1 f.2.2 (.load tok) with
            | some (_, s) => (s, x.2)
            | none => (x.1, maxKind x.2 (some f.2.2))) (s, none)

/-- An access of a load waits on no outstanding fault of its core. -/
def Core.adrift (c : Core) (tok : Nat) (a : LaneAcc) : Bool :=
  c.faults.all fun f => match f with | some f => !(f.joined.contains (.load tok) && a.touches f.page) | none => true

/-- The accesses of a load that touch a page, or that found no slot, are checked again; the kind of what stays. -/
def State.retryLoad (s : State) (core tok : Nat) (page : Page) : State × Option Nat :=
  match (s.core core).load? tok with
  | none => (s, none)
  | some l =>
    let x := (l.faulted.filter fun a => a.touches page || (s.core core).adrift tok a).foldl (fun (x : State × Option Nat) a =>
      let y := x.1.retryAcc core tok page a
      (y.1, maxKind x.2 y.2)) (s, none)
    let y := x.1.performLater core tok page
    (y.1, maxKind x.2 y.2)

/-- Changes a walk of a Pilot command. -/
def State.modWalk (s : State) (team : Nat) (seq : BitVec 32) (key : Nat) (f : Walk → Walk) : State :=
  s.modCmd team 2 seq fun x =>
    match x.st with
    | .running (.pilot r) => { x with st := .running (.pilot { r with walks := r.walks.map fun w => if w.key = key then f w else w }) }
    | _ => x

/-- The kind of the fault that an access of a team still meets on a page, if it does (rows 4 to 6 of Table 5.10). -/
def State.stillFaults (s : State) (core : Nat) (f : FaultSlot) (team : Nat) (a : Acc) : Option Nat :=
  if inRanges (s.spaceOf team).leased f.page.va 1 then none
  else
    match s.xlat core f.asid f.page.va with
    | .absent => some (if a = .load then 0 else 1)
    | .leaf _ _ _ r => if a ≠ .load ∧ r = true then some 2 else none
    | .bad => none

/-- Something that has joined a fault is checked again under R149 (R151): the state, and the kind of its fault when it stays. A warp, a command or a walk then makes its access again itself: a warp's
goes through the TLB (R147). -/
def State.retryJoined (s : State) (core : Nat) (f : FaultSlot) (j : Joined) : State × Option Nat :=
  match j with
  | .load tok => s.retryLoad core tok f.page
  | .warp w a =>
    match s.stillFaults core f w.team a with
    | some k => (s, some k)
    | none => (s.modWarp w fun x => { x with stall := none, recheck := true }, none)
  | .fetch w =>
    match s.stillFaults core f w.team .load with
    | some k => (s, some k)
    | none => (s.modWarp w fun x => { x with stall := none }, none)
  | .cmd t e q a =>
    match s.stillFaults core f t a with
    | some k => (s, some k)
    | none => (s.modCmd t e q fun x => { x with holding := false }, none)
  | .walk t _ _ a => (s, s.stillFaults core f t a)

/-- The fault in a slot. -/
def State.faultAt (s : State) (core slot : Nat) : Option FaultSlot := vget (s.core core).faults slot none

/-- Outcome 0 (R151): every joined access is checked again; what faults on the page still stays, as a fault with the same identifier, of the kind that it now has, and a record of its own. -/
def State.retryFault (s : State) (core slot : Nat) (f : FaultSlot) : State :=
  let (s, stay) := f.joined.foldl (fun (x : State × List (Joined × Nat)) j =>
    match x.1.retryJoined core f j with
    | (s, some k) => (s, x.2 ++ [(j, k)])
    | (s, none) => (s, x.2)) (s, [])
  s.modCore core fun k => k.setFault slot
    (if stay.isEmpty then none else some { f with joined := stay.map (·.1), kind := stay.foldl (fun m x => max m x.2) 0, recorded := false })

/-- Outcome 1 for one joined access (R151): a load is poisoned, any other access will end with "fault failed". -/
def State.failJoined (s : State) (core : Nat) (page : Page) (j : Joined) : State :=
  match j with
  | .load tok => s.modLoad core tok fun l =>
      let hit := l.faulted.filter (·.touches page)
      { l with
        faulted := l.faulted.filter fun a => !a.touches page
        bad := l.bad ++ hit.map fun a => (a.pos, Cause.faultFailed)
        gather := if hit.isEmpty then l.gather else none }
  | .warp w _ | .fetch w => s.modWarp w fun x => { x with failed := page :: x.failed, stall := none }
  | .cmd t e q _ => s.modCmd t e q fun x => { x with failed := true, holding := false }
  | .walk t q key _ => s.modWalk t q key fun w => { w with failed := true }

/-- Outcome 1 for the accesses that a test picks (R107, R151); the fault keeps the others. -/
def State.failFault (s : State) (core slot : Nat) (f : FaultSlot) (pick : Joined → Bool) : State :=
  let s := (f.joined.filter pick).foldl (fun s j => s.failJoined core f.page j) s
  let rest := f.joined.filter fun j => !pick j
  s.modCore core fun k => k.setFault slot (if rest.isEmpty then none else some { f with joined := rest })

/-- FAULT_RESOLVE (R151): a write to flt_resolve. -/
def execFaultResolve (v : Word) (s : State) : Host.Outcome State Fault Refusal :=
  .next <|
    let id := fieldOf v 0 16
    match s.faultAt (id / 32) (id % 32) with
    | none => s
    | some f =>
      match fieldOf v 16 2 with
      | 0 => (s.retryFault (id / 32) (id % 32) f).settleParks
      | 1 => (s.failFault (id / 32) (id % 32) f fun _ => true).settleParks
      | _ => s

/-! ## Fault records -/

/-- A fault record (Table 5.12). -/
def State.faultRecord (s : State) (core slot : Nat) (f : FaultSlot) (n : Nat) : List Byte :=
  leBytes 8 f.page.va ++ leBytes 2 f.asid.toNat ++ leBytes 2 (32 * core + slot) ++ leBytes 1 f.kind ++ leBytes 1 core ++
    leBytes 1 (phaseBit s.mem.fltTail.toNat n) ++ leBytes 1 0 ++ leBytes 4 f.team ++ leBytes 4 0 ++ leBytes 8 (s.memCount core).toNat

/-- The lowest outstanding fault without a record. -/
def State.unrecorded (s : State) : Option (Nat × Nat × FaultSlot) :=
  (List.range 2048).findSome? fun id =>
    match s.faultAt (id / 32) (id % 32) with
    | some f => if f.recorded then none else some (id / 32, id % 32, f)
    | none => none

/-- FAULT_RECORD_WRITE (R150, Table 5.12): the record, then flt_tail, then the message; with a full ring the record waits in its slot; with no ring the fault resolves with
outcome 1. -/
def execFaultRecordWrite (s : State) : Host.Outcome State Fault Refusal :=
  .next <|
    match s.unrecorded with
    | none => s
    | some (core, slot, f) =>
      if s.noRing then (s.failFault core slot f fun _ => true).settleParks
      else
        let n := ringSize s.mem.fltSize.toNat
        if n ≤ (s.mem.fltTail - s.mem.fltHead).toNat then s
        else
          let a := s.mem.fltBase.toNat * 4096 + 32 * (s.mem.fltTail.toNat % n)
          let s := (s.homeWrite (cellsAt a (s.faultRecord core slot f n))).modCore core fun k => k.setFault slot (some { f with recorded := true })
          { s with mem := { s.mem with fltTail := s.mem.fltTail + 1, fltMsg := true } }

/-! ## Counters (R154) -/

/-- COUNTER_CLEAR (R154): a write of any value clears the counter at a register offset (Table 5.13). -/
def execCounterClear (off : Nat) (s : State) : Host.Outcome State Fault Refusal :=
  .next <|
    let c := s.mem.ctr
    let o := off - 0x70000
    if off < 0x70000 ∨ o % 8 ≠ 0 then s
    else if o < 0x40 then s.setCtr { c with hbmCorr := vset c.hbmCorr (o / 8) 0 }
    else if o < 0x80 then s.setCtr { c with hbmUnc := vset c.hbmUnc ((o - 0x40) / 8) 0 }
    else if o = 0x80 then s.setCtr { c with sramCorr := 0 }
    else if o = 0x88 then s.setCtr { c with hostErr := 0 }
    else if o = 0x90 then s.setCtr { c with domDrop := 0 }
    else if o = 0x98 then s.setCtr { c with tideErr := 0 }
    else if o = 0xa0 then s.setCtr { c with joinErr := 0 }
    else if o = 0xa8 then s.setCtr { c with recDrop := 0 }
    else if 0x100 ≤ o ∧ o < 0x180 then s.setCtr { c with ethDrop := vset c.ethDrop ((o - 0x100) / 8) 0 }
    else if 0x200 ≤ o ∧ o < 0x600 then s.setCtr { c with slicePois := vset c.slicePois ((o - 0x200) / 8) 0 }
    else if 0x600 ≤ o ∧ o < 0x1600 then
      let i := (o - 0x600) / 32
      match (o - 0x600) % 32 with
      | 0 => s.setCtr { c with reqFlits := vset c.reqFlits i 0 }
      | 8 => s.setCtr { c with repFlits := vset c.repFlits i 0 }
      | 16 => s.setCtr { c with merged := vset c.merged i 0 }
      | _ => s.setCtr { c with elided := vset c.elided i 0 }
    else s

end Sys2Proof.Machine
end

