-- ==== Sys2Proof/Machine/Tile.lean ====
section
/-! DEFINITION. Block-floating accumulation (08: R241 to R247) on a whole tile, and the operands of a grid step (12: R330, R333). -/

namespace Sys2Proof.Machine

/-- An accumulator element (R241). -/
inductive Acc48 where
  | fin (m : Int)
  | nan
  | inf (neg : Bool)
  deriving DecidableEq, Repr

/-- The element that bits [47:0] of a lane hold (R241). -/
def acc48 (x : Word) : Acc48 :=
  let b := fieldOf x 0 48
  if b = 0x800000000000 then .nan
  else if b = 0x7fffffffffff then .inf false
  else if b = 0x800000000001 then .inf true
  else .fin (sextN 48 b)

/-- The lane the grid writes: the mantissa in [47:0], bit 47 copied above it (R335). -/
def Acc48.word (a : Acc48) : Word :=
  match a with
  | .fin m => BitVec.ofInt 64 m
  | .nan => 0xffff800000000000#64
  | .inf false => 0x00007fffffffffff#64
  | .inf true => 0xffff800000000001#64

/-- A term: x × 2^k, a NaN with its own flags, or an infinity (R242). -/
inductive Term where
  | fin (x k : Int)
  | nan (flags : Nat)
  | inf (neg : Bool)
  deriving DecidableEq, Repr

/-- The term of `mxsub`: a NaN stays, the rest changes sign (R335). -/
def Term.negate : Term → Term
  | .fin x k => .fin (-x) k
  | .nan f => .nan f
  | .inf n => .inf (!n)

/-- The flags a term carries of its own. -/
def Term.flags : Term → Nat
  | .nan f => f
  | _ => 0

/-- A tile: its exponent, its 2,048 elements in the order of registers and then lanes, the flags raised. -/
structure Tile where
  e  : Int
  ms : List Acc48
  fl : Nat
  deriving DecidableEq, Repr

/-- x × 2^k rounded to an integer, a tie going to the even one. -/
def rneScale (x k : Int) : Int := if 0 ≤ k then x * (2 ^ k.toNat : Nat) else rneDiv x (2 ^ (-k).toNat)

/-- M + t / 2^E with one rounding, and whether the rounding changed the sum (R244, R245). -/
def addTerm (m : Int) (x k e : Int) : Int × Bool :=
  let d := k - e
  if 0 ≤ d then (m + x * (2 ^ d.toNat : Nat), false)
  else
    let p : Int := (2 ^ (-d).toNat : Nat)
    let n := rneDiv (m * p + x) (2 ^ (-d).toNat)
    (n, n * p != m * p + x)

/-- The special sums of Table 8.7, when the element or the term is special. -/
def specialSum (m : Acc48) (t : Term) : Option (Acc48 × Nat) :=
  match m, t with
  | .fin _, .fin _ _ => none
  | .nan, t => some (.nan, t.flags)
  | _, .nan f => some (.nan, f)
  | .inf n, .fin _ _ => some (.inf n, 0)
  | .inf n, .inf n' => some (if n = n' then (.inf n, 0) else (.nan, fInv))
  | .fin _, .inf n => some (.inf n, 0)

/-- |n| < 2^46. -/
def headroom (n : Int) : Bool := n.natAbs < 2 ^ 46

/-- An element beyond the headroom as an infinity. -/
def clipAcc (n : Int) : Acc48 := if headroom n then .fin n else .inf (decide (n < 0))

/-- `shift` of R244 on the elements, without the exponent; the flag says whether a mantissa changed. -/
def shiftAcc (ms : List Acc48) : List Acc48 × Bool :=
  (ms.map fun a => match a with | .fin m => .fin (rneDiv m 256) | x => x,
   ms.any fun a => match a with | .fin m => decide (m % 256 ≠ 0) | _ => false)

/-- The loop of R244 over the finite sums: `fuel` bounds the shifts, each of which raises E by 8. -/
def addLoop (ts : List Term) : Nat → Tile → Tile
  | 0, t => t
  | n + 1, t =>
    let r := (t.ms.zip ts).map fun p =>
      match specialSum p.1 p.2, p.1, p.2 with
      | some (a, f), _, _ => (a, f, false)
      | none, .fin m, .fin x k => let y := addTerm m x k t.e; (.fin y.1, 0, y.2)
      | none, a, _ => (a, 0, false)
    let fits := r.all fun y => match y.1 with | .fin m => headroom m | _ => true
    let fl := r.foldl (fun a y => a ||| y.2.1 ||| flagIf y.2.2 fInx) t.fl
    if fits then { t with ms := r.map (·.1), fl := fl }
    else if t.e + 8 > 2047 then
      { t with ms := r.map (fun y => match y.1 with | .fin m => clipAcc m | a => a), fl := fl ||| fOvf }
    else
      let sh := shiftAcc t.ms
      addLoop ts n { e := t.e + 8, ms := sh.1, fl := t.fl ||| flagIf sh.2 fInx }

/-- Adds one term to every element (R244). -/
def Tile.add (t : Tile) (ts : List Term) : Tile := addLoop ts 520 t

/-- `mnorm` (R341). -/
def Tile.norm (t : Tile) : Tile :=
  if t.e + 8 > 2047 then t
  else let sh := shiftAcc t.ms; { e := t.e + 8, ms := sh.1, fl := t.fl ||| flagIf sh.2 fInx }

/-- Changes every finite mantissa, inexact when `changed` says so of any. -/
def Tile.mapFin (t : Tile) (f : Int → Acc48) (changed : Int → Bool) : Tile :=
  { t with
    ms := t.ms.map fun a => match a with | .fin m => f m | x => x
    fl := t.fl ||| flagIf (t.ms.any fun a => match a with | .fin m => changed m | _ => false) fInx }

/-- `mexp` (R342): inexact when the rounding changes a value (log entry 123). -/
def Tile.scale (t : Tile) (n : Int) : Tile :=
  let e2 := t.e + n
  if e2 > 2047 then
    let u := t.mapFin (fun m => if m = 0 then .fin 0 else .inf (decide (m < 0))) (fun _ => false)
    { u with e := 2047, fl := u.fl ||| fOvf }
  else if -2048 ≤ e2 then { t with e := e2 }
  else
    let d := min (-2048 - e2).toNat 64
    { t.mapFin (fun m => .fin (rneDiv m (2 ^ d))) (fun m => rneDiv m (2 ^ d) * (2 ^ d : Nat) != m) with e := -2048 }

/-- `mexp.to` (R342), for an exponent in range; inexact as for `mexp`. -/
def Tile.scaleTo (t : Tile) (n : Int) : Tile :=
  let r (m : Int) := rneScale m (t.e - n)
  let changed (m : Int) : Bool := decide (t.e < n) && r m * (2 ^ (n - t.e).toNat : Nat) != m
  let big := t.ms.any fun a => match a with | .fin m => !headroom (r m) | _ => false
  let u := t.mapFin (fun m => clipAcc (r m)) changed
  { u with e := n, fl := u.fl ||| flagIf big fOvf }

/-- What an element denotes (R241, R247). -/
def Acc48.value (a : Acc48) (e : Int) : FVal :=
  match a with
  | .fin m => .fin (decide (m < 0)) m.natAbs e
  | .nan => .nan false
  | .inf n => .inf n

/-! ## Operands of a step (R330) -/

/-- a[i][k] of an A tile in its registers. -/
def elA (w : Nat) (a : List Image) (i k : Nat) : Nat :=
  let n := 64 / w
  subEl w (lane (a.getD (k / n) 0) i) (k % n)

/-- b[k][j] of a B tile in its registers. -/
def elB (w : Nat) (b : List Image) (k j : Nat) : Nat :=
  let r := 32 / w
  let n := 64 / w
  subEl w (lane (b.getD (k / r) 0) (w * (k % r) + j / n)) (j % n)

/-- The value of an f16 or bf16 product as a term (R242, Table 8.4). -/
def fltTerm (x y : FVal) : Term :=
  match nanFlags [x, y] with
  | some g => .nan g
  | none =>
    if infTimesZero x y then .nan fInv
    else
      match x, y with
      | .fin n1 m1 e1, .fin n2 m2 e2 =>
        .fin (if n1 = n2 then (m1 * m2 : Nat) else -((m1 * m2 : Nat) : Int)) (e1 + e2)
      | .inf n1, .inf n2 => .inf (n1 != n2)
      | .inf n1, .fin n2 _ _ => .inf (n1 != n2)
      | .fin n1 _ _, .inf n2 => .inf (n1 != n2)
      | _, _ => .nan 0

/-- The term of one k-step when neither tile is quantised (R242). -/
def plainTerm (aTy bTy : BitVec 4) (x y : Nat) : Term :=
  if Ty.float aTy then fltTerm ((fmtOf aTy).val x) ((fmtOf bTy).val y) else .fin (intVal aTy x * intVal bTy y) 0

/-- A group term (R242): the corrected sum times the two scales, or a NaN for a non-finite scale, which sets nfs and, signalling or not, nothing else (DEDUCED, log
entry 129). -/
def groupTerm (S : Int) (sA sB : Nat) : Term :=
  match (fmtOf 8).val sA, (fmtOf 8).val sB with
  | .fin n1 m1 e1, .fin n2 m2 e2 => .fin ((if n1 = n2 then S else -S) * (m1 * m2 : Nat)) (e1 + e2)
  | _, _ => .nan fNfs

/-- 1.0 as an f16 pattern. -/
def oneF16 : Nat := 0x3c00

/-- The terms of one k-step or group, in the order of registers j and then lanes i. -/
def stepTerms (f : Nat → Nat → Term) : List Term := (List.range 2048).map fun n => f (n % 32) (n / 32)

/-- The corrected sum of group `m` for row i and column j (R242). -/
def groupSum (aTy bTy : BitVec 4) (a b : List Image) (glen m : Nat) (zA zB : Int) (i j : Nat) : Int :=
  (List.range glen).foldl (fun acc r =>
    let k := glen * m + r
    acc + (intVal aTy (elA (Ty.width aTy) a i k) - zA) * (intVal bTy (elB (Ty.width bTy) b k j) - zB)) 0

/-- The terms of a grid instruction in the order in which they are added (R242, R243, R335). -/
def gridTerms (neg : Bool) (k : Nat) (aTy bTy : BitVec 4) (a b : List Image) (q : Option Quant) : List (List Term) :=
  let sgn (t : Term) : Term := if neg then t.negate else t
  match q with
  | none => (List.range k).map fun n => stepTerms fun i j =>
      sgn (plainTerm aTy bTy (elA (Ty.width aTy) a i n) (elB (Ty.width bTy) b n j))
  | some q =>
    let ng := k / q.glen
    (List.range ng).map fun m => stepTerms fun i j =>
      let zA : Int := (((q.zA[i * ng + m]?).map BitVec.toNat).getD 0 : Nat)
      let zB : Int := (((q.zB[j * ng + m]?).map BitVec.toNat).getD 0 : Nat)
      sgn (groupTerm (groupSum aTy bTy a b q.glen m zA zB i j) (((q.sA[i * ng + m]?).map BitVec.toNat).getD oneF16)
        (((q.sB[j * ng + m]?).map BitVec.toNat).getD oneF16))

end Sys2Proof.Machine
end

