-- ==== Sys2Proof/Machine/Matrix.lean ====
section
/-! DEFINITION. Matrix mode (07: R210 to R213; 12: R326 to R345): claiming the grid, tile control, the checks of grid instructions and their
issue; what a grid step does when it is done is `State.gridStep`. -/

namespace Sys2Proof.Machine

/-! ## Claiming and releasing the grid -/

/-- `mmode.on` (R210): a warp that finds the grid taken, or others waiting, waits without its port. -/
def execMmodeOn (s : State) : Host.Outcome State Fault Refusal :=
  s.asWarp fun c =>
    match needLast c with
    | .error e => .error e
    | .ok () =>
      if c.x.matrix then .ok (s.retireWarp c.w c.x)
      else
        match s.needQuiet c.w with
        | .error e => .error e
        | .ok () =>
          let p := s.partOf c
          if p.grid = some c.w ∨ (p.grid = none ∧ p.waiters = []) then
            .ok ((s.modPart c.t.core c.x.partOf fun p => { p with grid := some c.w }).retireWarp c.w { c.x with matrix := true })
          else
            let s := s.modPart c.t.core c.x.partOf fun p =>
              { p with waiters := if p.waiters.contains c.w then p.waiters else p.waiters ++ [c.w] }
            .ok ((s.setWarp c.w { c.x with gridWait := true, resumed := true, stall := some .grid }).releasePort c.w)

/-- `mmode.off` (R210). -/
def execMmodeOff (s : State) : Host.Outcome State Fault Refusal :=
  s.asWarp fun c =>
    match needLast c with
    | .error e => .error e
    | .ok () =>
      if c.x.matrix = false then .ok (s.retireWarp c.w c.x)
      else
        match s.needQuiet c.w with
        | .error e => .error e
        | .ok () =>
          .ok ((s.modPart c.t.core c.x.partOf fun p => { p with grid := p.grid.filter (· != c.w) }).retireWarp c.w
            { c.x with matrix := false })

/-! ## Tile control -/

/-- The reserved bits of a tile-control register, as a mask of the others (Table 12.2). -/
def tcMask : Word := 0xfff7ffff000007ff#64

/-- The tile-control register of a number. -/
def Warp.tcReg (x : Warp) (n : Nat) : Word := vget x.tc n 0

/-- Every earlier grid instruction of the warp has completed (R329). -/
def State.needGridQuiet (s : State) (c : Ctx) : Except Stop Unit :=
  need (!((s.partOf c).ops.any (·.w = c.w))) (.stall .grid)

/-- `tcset` (R329). -/
def execTcset (f : TcsetF) (s : State) : Host.Outcome State Fault Refusal :=
  s.asWarp fun c =>
    if (Fld.isK f.a || f.a == 1736#11) = false then .error (trapOf .illegalOperand f.a.toNat)
    else
      match s.needGridQuiet c with
      | .error e => .error e
      | .ok () =>
        let v := uniVal c 7 f.a
        .ok (s.retireWarp c.w (if c.x.cond f.g then { c.x with tc := vset c.x.tc f.n.toNat (v &&& tcMask) } else c.x))

/-- `tcget` (R329). -/
def execTcget (f : TcgetF) (s : State) : Host.Outcome State Fault Refusal :=
  s.asWarp fun c =>
    if (Fld.isK f.d || f.d == 1736#11) = false then .error (trapOf .illegalOperand f.d.toNat)
    else
      match s.needGridQuiet c with
      | .error e => .error e
      | .ok () => .ok (s.retireWarp c.w (if c.x.cond f.g then c.x.writeK f.d (c.x.tcReg f.n.toNat) else c.x))

/-- `mrmask` (R344). -/
def execMrmask (f : MrmaskF) (s : State) : Host.Outcome State Fault Refusal :=
  s.asWarp fun c =>
    let us : List SrcUse := [⟨f.a, false⟩]
    if Fld.isPred f.d = false then .error (trapOf .illegalOperand f.d.toNat)
    else if f.a.toNat ≥ 1664 then .error (trapOf .illegalOperand f.a.toNat)
    else
      match s.vecStart c f.d 0 f.g us false true false with
      | .error e => .error e
      | .ok _ =>
        let x := srcVal c 13 f.a 0
        let bits : Mask := x.extractLsb' (8 * f.off.toNat) 32
        let c := c.afterReads us
        .ok (s.retireCtx (if c.x.cond f.g then { c with x := c.x.writePred (f.d.toNat - 1728) allLanes bits } else c))

/-! ## Checks of grid instructions (Table 12.3) -/

/-- A "tile" trap naming a tile-control register or a format block. -/
def tileTrap (n : Nat) : Stop := .trap { cause := .tile, reg := n }

/-- Checks 1 and 2. The base of the accumulator. -/
def accCheck (c : Ctx) (n : Nat) : Except Stop Nat :=
  let w := c.x.tcReg n
  let b := tcBase w
  if c.x.matrix = false then .error (trapOf .mode)
  else if tcRole w ≠ 3 ∨ b % 64 ≠ 0 ∨ b + 64 > c.x.v.length then .error (tileTrap n)
  else .ok b

/-- Checks 12 and 13 over a list of registers: the first released one, else the first with uninit set. -/
def regsCheck (c : Ctx) (rs : List Nat) : Except Stop Unit :=
  match rs.find? fun n => ((c.x.v[n]?).map (·.released)).getD false with
  | some n => .error (.trap { cause := .releasedRegister, reg := n })
  | none =>
    match rs.find? fun n => ((c.x.v[n]?).map (·.uninit)).getD 0 != 0 with
    | some n =>
      let lanes : Mask := ((c.x.v[n]?).map (·.uninit)).getD 0
      .error (.trap { cause := .uninitialised, reg := n, lanes := lanes })
    | none => .ok ()

/-- The registers from `b`. -/
def regRun (b n : Nat) : List Nat := (List.range n).map (b + ·)

/-- The registers `rs` wait for no grid step still in flight (R213, R331, R338). -/
def State.needFree (s : State) (c : Ctx) (rs : List Nat) : Except Stop Unit := need (!(rs.any (s.vBusy c))) (.stall (.regs rs))

/-- Checks 12 and 13 of an accumulator, once its pending steps have written. -/
def State.accReads (s : State) (c : Ctx) (b : Nat) : Except Stop Unit :=
  match s.needFree c (regRun b 64) with
  | .error e => .error e
  | .ok () => regsCheck c (regRun b 64)

/-- The registers that an action writes, given its accumulator's first. -/
def gridWrites (base : Nat) : GridAct → List Nat
  | .nothing => []
  | .cvt (.regs d _) ty _ _ _ => tab (Ty.width ty) (d + ·)
  | .cvt _ _ _ _ _ => []
  | _ => tab 64 (base + ·)

/-- Hands an action to the grid (R339); a long-latency one enters the window with its lookahead (R250, R257). -/
def State.postGrid (s : State) (c : Ctx) (tcn base : Nat) (act : GridAct) (la : Option (BitVec 4)) : State :=
  let (tok, s) := s.takeTok
  let op : GridOp := { w := c.w, tcn := tcn, base := base, act := act, tok := tok }
  let s := s.modPart c.t.core c.x.partOf fun p => { p with ops := p.ops ++ [op] }
  let c := { c with x := c.x.note (gridWrites base act) }
  match la with
  | none => s.retireCtx c
  | some la =>
    let l : LongLat := { tok := tok, done := false, left := some (la.toNat + 1), load := false, grid := true }
    s.retireCtx { c with x := c.x.issueLong l }

/-- The warp after counted reads of registers (R195). -/
def Ctx.countRegs (c : Ctx) (rs : List Nat) : Ctx := { c with x := { c.x with v := rs.foldl countRead c.x.v } }

/-- `mzero` (R340). -/
def execMzero (f : TileF) (s : State) : Host.Outcome State Fault Refusal :=
  s.asWarp fun c =>
    match accCheck c f.n.toNat with
    | .error e => .error e
    | .ok b => if c.x.cond f.g then .ok (s.postGrid c f.n.toNat b .zero none) else .ok (s.retireWarp c.w c.x)

/-- A tile instruction that reads and writes its tile (R341, R342). -/
def State.tileOp (s : State) (c : Ctx) (n : Nat) (g : Guard) (act : GridAct) (ok : Bool) : Except Stop State :=
  match accCheck c n with
  | .error e => .error e
  | .ok b =>
    match s.accReads c b with
    | .error e => .error e
    | .ok () =>
      if ok = false then .error (tileTrap n)
      else
        let d := c.countRegs (regRun b 64)
        if c.x.cond g then .ok (s.postGrid d n b act none) else .ok (s.retireCtx d)

/-- `mnorm` (R341). -/
def execMnorm (f : TileF) (s : State) : Host.Outcome State Fault Refusal :=
  s.asWarp fun c => s.tileOp c f.n.toNat f.g .norm true

/-- `mexp` (R342). -/
def execMexp (f : MexpF) (s : State) : Host.Outcome State Fault Refusal :=
  s.asWarp fun c =>
    match kField c f.b with
    | .error e => .error e
    | .ok k => s.tileOp c f.n.toNat f.g (.exp k.toInt) true

/-- `mexp.to` (R342): an exponent out of range is a check of the instruction, made whatever its condition (R326; DEDUCED, log entry 19). -/
def execMexpTo (f : MexpF) (s : State) : Host.Outcome State Fault Refusal :=
  s.asWarp fun c =>
    match kField c f.b with
    | .error e => .error e
    | .ok k => s.tileOp c f.n.toNat f.g (.expTo k.toInt) (decide (-2048 ≤ k.toInt) && decide (k.toInt ≤ 2047))

/-! ## mxacc and mxsub -/

/-- A format of the A and B roles. -/
def gridFmt (f : Nat) : Bool := f == 0 || f == 4 || f == 8 || f == 9 || f == 11 || f == 12

/-- The element type of a tile-control register. -/
def tcFmt (w : Word) : BitVec 4 := w.extractLsb' 34 4

/-- K of a tile-control register. -/
def tcK (w : Word) : Nat := fieldOf w 38 10 + 1

/-- The registers of an A tile (R330). -/
def nA (w : Word) : Nat := (tcK w + 64 / Ty.width (tcFmt w) - 1) / (64 / Ty.width (tcFmt w))

/-- The registers or entries of a B tile (R330). -/
def nB (w : Word) : Nat := (tcK w + 32 / Ty.width (tcFmt w) - 1) / (32 / Ty.width (tcFmt w))

/-- Two runs of registers overlap. -/
def overlap (a n b m : Nat) : Bool := a < b + m && b < a + n

/-- The pairings of Table 12.5. -/
def pairOk (a b : BitVec 4) : Bool :=
  if Ty.float a || Ty.float b then Ty.float a && Ty.float b && a != 10 && b != 10 else true

/-- A pairing is quantised when either tile is (R336). -/
def pairQuant (a b : BitVec 4) : Bool := Ty.quant a || Ty.quant b

/-- Byte `n` of a format block (Table 12.4). -/
def fbByte (x : BitVec 512) (n : Nat) : Nat := (x.extractLsb' (8 * n) 8).toNat

/-- A four-byte field of a format block. -/
def fbNum (x : BitVec 512) (n : Nat) : Nat := (x.extractLsb' (8 * n) 32).toNat

/-- Check 6 for an enabled format block; the address fields of an operand that is not quantised are ignored (R333). -/
def fbOk (x : BitVec 512) (a b : BitVec 4) (k : Nat) : Bool :=
  let g := fbByte x 2
  fbByte x 0 == a.toNat && fbByte x 1 == b.toNat && (g == 32 || g == 64 || g == 128) &&
    (List.range 5).all (fun i => fbByte x (3 + i) == 0) && (List.range 32).all (fun i => fbByte x (32 + i) == 0) &&
    k % g == 0 && (!Ty.quant a || fbNum x 8 % 2 == 0) && (!Ty.quant b || fbNum x 20 % 2 == 0)

/-- The scale and zero-point addresses that an operand of `rows` rows or columns reads, in order (R333). -/
def quantAddrs (sc zp str rows ng o : Nat) : List (Nat × Nat) :=
  (List.range rows).flatMap fun i => (List.range ng).flatMap fun m =>
    [(sc + 2 * (i * str + o + m), 2), (zp + i * str + o + m, 1)]

/-- The scales and zero points of an operand, in the order of its rows and groups; none for one that is not quantised. -/
def quantRead (b : Block) (ty : BitVec 4) (as : List (Nat × Nat)) : List (BitVec 16) × List (BitVec 8) :=
  (as.filterMap fun a => if a.2 = 2 then some (BitVec.ofNat 16 (b.sharedNum a.1 2)) else none,
   as.filterMap fun a => if a.2 = 1 then some (BitVec.ofNat 8 (b.sharedNum a.1 1 % 2 ^ Ty.width ty)) else none)

/-- Checks 10 and 11 and the reads they guard (R333, R334): of several bytes that fail, the first in the order of the reads is reported (DEDUCED, log entry 134). -/
def quantOf (blk : Block) (x : BitVec 512) (fb : Nat) (aTy bTy : BitVec 4) (k o : Nat) : Except Stop Quant :=
  let g := fbByte x 2
  let ng := k / g
  let asA := if Ty.quant aTy then quantAddrs (fbNum x 8) (fbNum x 12) (fbNum x 16) 32 ng o else []
  let asB := if Ty.quant bTy then quantAddrs (fbNum x 20) (fbNum x 24) (fbNum x 28) 64 ng o else []
  match (asA ++ asB).find? fun a => !(decide (a.1 + a.2 ≤ 2 ^ 32) && blk.inShared a.1 a.2) with
  | some a => .error (.trap { cause := .sharedRange, reg := 16 + fb, va := blk.firstOut a.1 })
  | none =>
    match (asA ++ asB).find? fun a => blk.sharedPoison a.1 a.2 with
    | some a => .error (.trap { cause := .uncorrectable, reg := 16 + fb, va := a.1 })
    | none =>
      let qa := quantRead blk aTy asA
      let qb := quantRead blk bTy asB
      .ok { glen := g, sA := qa.1, zA := qa.2, sB := qb.1, zB := qb.2 }

/-- The checks of the entries of a queue-fed B tile, in queue order. -/
def bEntries (c : Ctx) (w : Word) : List FieldCheck :=
  (List.range (nB w)).map fun i => entryCheck c.t (tcBase w) (tcBase w - 1536) i

/-- Checks 7 to 9 for a queue-fed B tile; then the instruction waits until every entry is Ready or Poisoned (R337). -/
def bQueueCheck (c : Ctx) (w : Word) (n : Nat) : Except Stop Unit :=
  match popCheck c (tcBase w) (tcBase w - 1536) with
  | some q => .error (.trap q)
  | none =>
    if ((c.t.queues[tcBase w - 1536]?).map (·.depth)).getD 0 < nB w then .error (tileTrap n)
    else
      match firstWait (bEntries c w) with
      | some y => .error (.stall y)
      | none => .ok ()

/-- Check 14: no entry is poisoned, and no queue is exhausted before all of them are there (DEDUCED, log entry 135). -/
def bEntriesCheck (c : Ctx) (w : Word) : Except Stop Unit := verdict (bEntries c w)

/-- Checks 3 to 9 of Table 12.3 for tiles A and B. -/
def abCheck (c : Ctx) (f : MxF) (base : Nat) : Except Stop Unit :=
  let a := c.x.tcReg f.tca.toNat
  let b := c.x.tcReg f.tcb.toNat
  let aN := f.tca.toNat
  let bN := f.tcb.toNat
  let u := c.x.v.length
  let queued := 1536 ≤ tcBase b
  if tcRole a ≠ 1 ∨ gridFmt (tcFmt a).toNat = false ∨ tcBase a + nA a > u ∨ overlap (tcBase a) (nA a) base 64 = true then
    .error (tileTrap aN)
  else if tcRole b ≠ 2 ∨ gridFmt (tcFmt b).toNat = false ∨ tcK b ≠ tcK a ∨ tcBase b ≥ 1600 ∨
      (queued = false ∧ (tcBase b + nB b > u ∨ overlap (tcBase b) (nB b) base 64 = true)) then .error (tileTrap bN)
  else if pairOk (tcFmt a) (tcFmt b) = false then .error (tileTrap bN)
  else
    let x := vget c.t.fb f.fb.toNat 0
    if f.fe ≠ pairQuant (tcFmt a) (tcFmt b) ∨ (f.fe = true ∧ fbOk x (tcFmt a) (tcFmt b) (tcK a) = false) then
      .error (tileTrap (16 + f.fb.toNat))
    else if queued then bQueueCheck c b bN
    else .ok ()

/-- `mxacc` and `mxsub` (R335). -/
def State.outer (s : State) (neg : Bool) (f : MxF) : Host.Outcome State Fault Refusal :=
  s.asWarp fun c =>
    match accCheck c f.tcd.toNat with
    | .error e => .error e
    | .ok base =>
      match abCheck c f base with
      | .error e => .error e
      | .ok () =>
        let a := c.x.tcReg f.tca.toNat
        let b := c.x.tcReg f.tcb.toNat
        let o := if f.oe then (c.x.kreg f.ko.toNat).toNat else 0
        let q : Except Stop (Option Quant) :=
          if f.fe then (quantOf (s.blockOf c) (vget c.t.fb f.fb.toNat 0) f.fb.toNat (tcFmt a) (tcFmt b) (tcK a) o).map some
          else .ok none
        match q with
        | .error e => .error e
        | .ok q =>
          let queued := decide (1536 ≤ tcBase b)
          let aRegs := regRun (tcBase a) (nA a)
          let bRegs := if queued then [] else regRun (tcBase b) (nB b)
          let regs := aRegs ++ bRegs ++ regRun base 64
          match s.needFree c regs with
          | .error e => .error e
          | .ok () =>
            match regsCheck c regs with
            | .error e => .error e
            | .ok () =>
              match if queued then bEntriesCheck c b else .ok () with
              | .error e => .error e
              | .ok () =>
                let img (n : Nat) : Image := ((c.x.v[n]?).map (·.data)).getD 0
                let qn := tcBase b - 1536
                let bImgs := if queued then (List.range (nB b)).map fun i =>
                    (((c.t.queues[qn]?).bind (·.entries[i]?)).map (·.data)).getD 0
                  else bRegs.map img
                let d := c.countRegs regs
                let d := if queued then { d with t := popAll d.t (List.replicate (nB b) qn) } else d
                let act : GridAct := if c.x.cond f.g then
                    .acc neg (tcK a) (tcFmt a) (tcFmt b) (aRegs.map img) bImgs q
                  else .nothing
                .ok (s.postGrid d f.tcd.toNat base act (some f.la))

/-- `mxacc` (R335). -/
def execMxacc (f : MxF) (s : State) : Host.Outcome State Fault Refusal := s.outer false f

/-- `mxsub` (R335). -/
def execMxsub (f : MxF) (s : State) : Host.Outcome State Fault Refusal := s.outer true f

/-! ## mcvt -/

/-- The destination checks of R343 for a tile at `base`, with the run of registers or the queue. -/
def mcvtDst (c : Ctx) (f : McvtF) (base : Nat) (dst : Dst) : Except Stop Unit :=
  let nr := Ty.width f.ty
  match dst with
  | .v d =>
    if d + nr > c.x.v.length then .error (trapOf .illegalOperand (max d c.x.v.length))
    else need (!overlap d nr base 64) (tileTrap f.n.toNat)
  | .push q => need (nr ≤ ((c.t.queues[q]?).map (·.depth)).getD 0) (tileTrap f.n.toNat)
  | _ => .ok ()

/-- Allocates the entries of an `mcvt` push at its issue; what a queue without a consumer would get is discarded (R204, R343). -/
def mcvtAlloc (t : Team) (q nr : Nat) : Except Stop (Team × CvtDst) :=
  match t.queues[q]? with
  | none => .ok (t, .none)
  | some x =>
    if t.noConsumer x then .ok (t, .none)
    else if x.hasRoom nr = false then .error (.stall (.room q nr))
    else
      let slots := (List.range nr).map fun i => let k := x.slotOf (x.entries.length + i); (k, x.gen k)
      let e : Entry := { st := .issued, data := 0, psec := 0 }
      .ok (t.setQueue q { x with entries := x.entries ++ List.replicate nr e }, .queue q slots)

/-- `mcvt` (R343). -/
def execMcvt (f : McvtF) (s : State) : Host.Outcome State Fault Refusal :=
  s.asWarp fun c =>
    match s.vecStart c f.d f.cc f.g [] false false true with
    | .error e => .error e
    | .ok dst =>
      match accCheck c f.n.toNat with
      | .error e => .error e
      | .ok base =>
        match mcvtDst c f base dst with
        | .error e => .error e
        | .ok () =>
          let nr := Ty.width f.ty
          let dregs := match dst with | .v d => regRun d nr | _ => []
          match s.needFree c dregs, s.accReads c base with
          | .error e, _ => .error e
          | _, .error e => .error e
          | .ok (), .ok () =>
            let rmp := fieldOf (c.x.tcReg f.n.toNat) 48 3
            let rows := c.x.active f.g &&& c.x.pred rmp
            let d := c.countRegs (regRun base 64)
            let post (d : Ctx) (y : CvtDst) : State :=
              s.postGrid d f.n.toNat base (.cvt y f.ty f.rm f.sf rows) (some f.la)
            match dst with
            | .v n => .ok (post d (.regs n f.cc))
            | .push q =>
              match mcvtAlloc d.t q nr with
              | .error e => .error e
              | .ok (t, y) => .ok (post { d with t := t } y)
            | _ => .ok (post d .none)

/-! ## The end of a grid step -/

/-- The tile at a base with its exponent. -/
def Warp.tile (x : Warp) (tcn base : Nat) : Tile :=
  { e := sextN 12 (fieldOf (x.tcReg tcn) 52 12)
    ms := (List.range 2048).map fun n => acc48 (lane (((x.v[base + n / 32]?).map (·.data)).getD 0) (n % 32))
    fl := 0 }

/-- Writes a whole tile (R335): every element, count 0, live, uninit clear; the exponent and the flags. -/
def Warp.writeTile (x : Warp) (tcn base : Nat) (t : Tile) : Warp :=
  let a := t.ms.toArray
  let v := (List.range 64).foldl (fun v j => v.modify (base + j) fun r =>
    { r with data := ofLanes (fun i => (a.getD (32 * j + i) (.fin 0)).word), uninit := 0, count := 0, released := false }) x.v
  let tc := x.tcReg tcn
  { x with v := v, tc := vset x.tc tcn ((tc &&& 0x000fffffffffffff#64) ||| (BitVec.ofInt 64 t.e <<< 52)) }.addFlags t.fl

/-- Element r·e + s of row t converted (R247, R343). -/
def cvtAcc (ty : BitVec 4) (rm : Nat) (sf : Bool) (e : Int) (a : Acc48) : Nat × Nat :=
  if Ty.float ty then cvtToFloat (fmtOf ty) rm sf (a.value e) else cvtToInt ty rm (a.value e)

/-- Destination image `r` of an `mcvt`, with its flags over the rows converted. -/
def cvtImage (t : Tile) (ty : BitVec 4) (rm : Nat) (sf : Bool) (rows : Mask) (r : Nat) : Image × Nat :=
  let a := t.ms.toArray
  let w := Ty.width ty
  let n := 64 / w
  let el (i s : Nat) : Nat × Nat := cvtAcc ty rm sf t.e (a.getD (32 * (r * n + s) + i) (.fin 0))
  (ofLanes fun i => if mbit rows i then ofSubs w fun s => (el i s).1 else 0,
   laneFlags rows fun i => subFlags w fun s => (el i s).2)

/-- What a grid instruction does to its team when its step is done. An `mnorm` that does not shift writes its 64 registers all the same (DEDUCED, log entry 130). -/
def gridEffect (t : Team) (x : Warp) (o : GridOp) : Team × Warp :=
  let tile := x.tile o.tcn o.base
  match o.act with
  | .nothing => (t, x)
  | .zero => (t, x.writeTile o.tcn o.base { tile with ms := List.replicate 2048 (.fin 0) })
  | .norm => (t, x.writeTile o.tcn o.base tile.norm)
  | .exp n => (t, x.writeTile o.tcn o.base (tile.scale n))
  | .expTo n => (t, x.writeTile o.tcn o.base (tile.scaleTo n))
  | .acc neg k aTy bTy a b q =>
    (t, x.writeTile o.tcn o.base ((gridTerms neg k aTy bTy a b q).foldl Tile.add tile))
  | .cvt dst ty rm sf rows =>
    let ims := (List.range (Ty.width ty)).map (cvtImage tile ty rm.toNat sf rows)
    let x := x.addFlags (ims.foldl (fun a y => a ||| y.2) 0)
    match dst with
    | .none => (t, x)
    | .regs d cc =>
      (t, { x with v := ims.zipIdx.foldl (fun v y => v.modify (d + y.2) fun r => r.write rows y.1.1 cc) x.v })
    | .queue q slots =>
      (match t.queues[q]? with
        | none => t
        | some y => t.setQueue q ((ims.zip slots).foldl (fun y z => y.fill z.2.1 z.2.2 (Entry.ready z.1.1)) y), x)

/-- Marks a long-latency instruction completed (R250). -/
def Warp.complete (x : Warp) (tok : Nat) : Warp :=
  { x with window := x.window.map fun l => if l.tok = tok then { l with done := true, left := none } else l }

/-- The oldest grid instruction of a partition writes its results and completes (R339). -/
def State.gridStep (s : State) (core part : Nat) : State :=
  match ((s.core core).part part).ops with
  | [] => s
  | o :: r =>
    let s := s.modPart core part fun p => { p with ops := r }
    match s.team? o.w.team with
    | none => s
    | some t =>
      match t.warps[o.w.idx]? with
      | none => s
      | some x =>
        let (t, x) := gridEffect t x o
        s.setTeam (t.setWarp o.w.idx (x.complete o.tok))

end Sys2Proof.Machine
end

