-- ==== Sys2Proof/Machine/CoreEvents.lean ====
section
/-! DEFINITION. The events of a core (07, 09): when a clause is eligible and which one a port picks (R185 to R188, R248 to R254), suspension,
`spin` (R287), decoupling (R206, R207), the delivery of a trap (R216), the grid's turn (R210), the end of grid steps (R339), of long-latency
instructions (R250), and of loads into queues (R200). -/

namespace Sys2Proof.Machine

/-- The state of a queue's head. -/
def Queue.headSt (q : Queue) : Option EntryState := (q.entries.head?).map Entry.st

/-- The head of a queue is Ready or Poisoned. -/
def Queue.headHere (q : Queue) : Bool :=
  match q.headSt with
  | some .ready | some (.poisoned _) => true
  | _ => false

/-! ## Ports -/

/-- A port of a core exists. -/
def portValid : Port → Bool
  | .part n => n < 32
  | .tender n => n < 2

/-- The warp that holds a port. -/
def Core.holder (c : Core) : Port → Option WarpId
  | .part n => (c.part n).holder
  | .tender n => vget c.tender n none

/-- Gives a port to a warp. -/
def State.holdPort (s : State) (core : Nat) (p : Port) (w : WarpId) : State :=
  match p with
  | .part n => s.modPart core n fun x => { x with holder := some w }
  | .tender n => s.modCore core fun x => { x with tender := vset x.tender n (some w) }

/-- Whether a port issues for a warp: a partition for the execute warps of its slots, the Tender's two ports for every access warp (R183, R187). -/
def portServes (p : Port) (idx : Nat) (x : Warp) : Bool :=
  match p with
  | .part n => idx != 0 && x.partOf == n
  | .tender _ => idx == 0

/-- A warp holds a port of its core. -/
def Core.holds (c : Core) (w : WarpId) : Bool := c.parts.toList.any (fun p => p.holder == some w) || c.tender.toList.any (· == some w)

/-! ## Headers (R249 to R253) -/

/-- The queue that a queue-ready wait names: its enable bit and number (Table 9.1). -/
def hdrWait (h : Word) (i : Nat) : Bool × Nat := (h.getLsbD (46 - 7 * i), fieldOf h (40 - 7 * i) 6)

/-- The warp's relation to a queue (R251): consumer, producer, or neither. -/
def Team.consumes (w : WarpId) (q : Queue) : Bool := if w.access then q.dir == .ret else q.dir != .ret && q.owner + 1 == w.idx

/-- The warp produces what the queue holds. -/
def Team.produces (w : WarpId) (q : Queue) : Bool := if w.access then q.dir == .forward else q.dir == .ret && q.owner + 1 == w.idx

/-- What is wrong with a queue-ready wait: the number to report (R253). -/
def hdrWaitFault (t : Team) (w : WarpId) (h : Word) (i : Nat) : Option Nat :=
  match hdrWait h i with
  | (false, n) => if n = 0 then none else some n
  | (true, n) =>
    match t.queues[n]? with
    | none => some n
    | some q => if Team.consumes w q || Team.produces w q then none else some n

/-- A class that the warp may issue (Table 7.1). -/
def classFits (access : Bool) (cls : Nat) : Bool := cls ≤ 4 && (if access then cls != 1 else cls ≤ 2)

/-- The check of a header: the tinfo0.reg of "illegal clause" when it fails (R248, R253). -/
def hdrFault (t : Team) (w : WarpId) (h : Word) : Option Nat :=
  if fieldOf h 60 4 ≠ 15 ∨ classFits w.access (fieldOf h 57 3) = false ∨ fieldOf h 0 32 ≠ 0 then some 0
  else
    match hdrWaitFault t w h 0 with
    | some n => some n
    | none => hdrWaitFault t w h 1

/-- A queue-ready wait is met (R251). -/
def hdrWaitMet (t : Team) (w : WarpId) (h : Word) (i : Nat) : Bool :=
  match hdrWait h i with
  | (false, _) => true
  | (true, n) =>
    match t.queues[n]? with
    | none => true
    | some q =>
      if Team.consumes w q then
        t.exhausted n q || q.headHere
      else q.hasRoom 1

/-- The waits of a header: the long-latency instructions at the window positions of its mask, and its two queues at the same moment (R250, R251). -/
def hdrMet (t : Team) (w : WarpId) (x : Warp) (h : Word) : Bool :=
  (List.range 6).all (fun p => !h.getLsbD (47 + p) || ((x.window[p]?).map (·.done)).getD true) && hdrWaitMet t w h 0 && hdrWaitMet t w h 1

/-! ## Eligibility (R185) -/

/-- What is known of a warp's next header before it is issued: the word; that it has not been fetched yet; or that its fetch will fail or is still to be tried. -/
inductive Peek where
  | word (h : Word)
  | wait
  | attempt
  deriving DecidableEq, Repr

/-- A fetch of the warp waits on an outstanding demand fault of its core. -/
def Core.fetchWaits (c : Core) (w : WarpId) : Bool :=
  c.faults.any fun f => match f with | some f => f.joined.contains (.fetch w) | none => false

/-- The header that a warp would fetch (R248, R433), nothing changed. -/
def State.peekHeader (s : State) (t : Team) (w : WarpId) (x : Warp) : Peek :=
  match s.task? t.task with
  | none => .attempt
  | some k =>
    if x.hdr < 0 ∨ x.hdr ≥ k.launch.csize ∨ x.hdr % 8 ≠ 0 then .attempt
    else
      let va := k.code + x.hdr.toNat
      let line := va / 128 * 128
      let held := match x.code with | some l => if l.va = line then some l else none | none => none
      match held with
      | some l => (match l.wordAt va with | .ok h => .word h | .error _ => .attempt)
      | none =>
        if va ≥ 2 ^ 52 then .attempt
        else
          match s.xlat t.core k.asid va with
          | .leaf f big _ _ =>
            if x.failed.any (fun p => p.meets va 8) then .attempt
            else
            let pa := leafPa f big va
            if isHbm pa then (match (s.codeLine line (pa / 128 * 128)).wordAt va with | .ok h => .word h | .error _ => .attempt)
            else if s.links.apReads.any (fun r => r.dst == .code w line) || s.links.apQueue.any (fun r => r.dst == .code w line) then .wait
            else .attempt
          | _ => if x.failed = [] ∧ (s.core t.core).fetchWaits w = true then .wait else .attempt

/-- The fault on which a warp waits has gone: its own access has failed or is to be tried again, or the Pending entry's (R105, R150). -/
def State.faultOver (s : State) (t : Team) (w : WarpId) (x : Warp) (core slot reason : Nat) : Bool :=
  !x.failed.isEmpty ||
    (match s.faultAt core slot with
    | none => true
    | some f => !(f.joined.any fun j => if reason = 1 then Joined.ofWarp w j || j == .fetch w else Joined.ofTeam (s.core core) t.num j))

/-- A pop that waits for the entry at a position of a queue can go on (R186, R202, R204). -/
def Team.popOver (t : Team) (n pos : Nat) : Bool :=
  match t.queues[n]? with
  | none => true
  | some q => match q.entries[pos]? with
    | none => t.exhausted n q
    | some e => e.st != .issued && e.st != .pending

/-- A push of `k` entries can go on. -/
def Team.pushOver (t : Team) (n k : Nat) : Bool :=
  match t.queues[n]? with
  | none => true
  | some q => t.noConsumer q || q.hasRoom k

/-- What a warp is stalled on has gone (R186): the instruction can be tried again. -/
def State.stallOver (s : State) (t : Team) (w : WarpId) (x : Warp) : Bool :=
  let c : Ctx := { w := w, t := t, x := x }
  let core := t.core
  match x.stall with
  | none => true
  | some (.popQ n) => t.popOver n 0
  | some (.popAt n pos) => t.popOver n pos
  | some (.pushQ n) => t.pushOver n 1
  | some (.room n k) => t.pushOver n k
  | some (.fault fc slot reason) => s.faultOver t w x fc slot reason
  | some (.barrier n) =>
    (match (s.blockOf c).groups.find? (·.gnum == n), x.lastAt n with
      | some g, some i => i < g.results.length
      | _, _ => true)
  | some (.load tok) => ((s.core core).load? tok).all (·.performed)
  | some .atomic => (match x.begun with | some (.atomic _ left _ _ _) => left == 0 | _ => true)
  | some (.acks host) => x.holdSt.isEmpty && (!host || s.links.apWrites.isEmpty)
  | some .held => !s.heldBy core x
  | some .loads => !s.loadsOut core w x
  | some .gathers => !s.gathering core w x
  | some .slots => !x.failed.isEmpty || (s.core core).freeFault.isSome
  | some (.line va) => !(s.links.apReads.any (fun r => r.dst == .code w va) || s.links.apQueue.any (fun r => r.dst == .code w va))
  | some (.fields fs) => fs.all fun f => !s.fieldBusy c (BitVec.ofNat 11 f)
  | some (.regs rs) => !(rs.any (s.vBusy c))
  | some (.quiet idx) => s.quiet { team := t.num, idx := idx }
  | some .grid => !((s.partOf c).ops.any (·.w == w))
  | some .look => !x.lookaheadOut
  | some (.command e v) => (vget t.edone e 0 - v).toNat < 2 ^ 31
  | some (.queue q) => (match t.queues[q]? with | none => true | some y => y.countSt 1 + y.countSt 2 == 0 || ((s.core core).queueFault t.num q).isSome)
  | some (.bytes pas) => (s.loadsFirst c pas).isOk

/-- Nothing but its clause's waits keeps a warp from being picked: it runs, is not waiting for the grid, and has no trap to take (R185, R216, R287). -/
def Warp.awake (x : Warp) : Bool := !x.ended && x.trap.isNone && !x.gridWait && !x.spinning

/-- A warp's next clause, or the rest of a suspended one, is eligible (R185, R186, R254). -/
def State.eligible (s : State) (t : Team) (w : WarpId) (x : Warp) : Bool :=
  t.st == .resident && x.awake && !(s.core t.core).holds w &&
    (if x.resumed then s.stallOver t w x
      else match s.peekHeader t w x with
        | .wait => false
        | .attempt => s.stallOver t w x
        | .word h => (hdrFault t w h).isSome || hdrMet t w x h)

/-- A queue-ready wait of a header that is not met, as a stall: on the head of a queue that the warp consumes, or on room in one that it produces. -/
def hdrStall (t : Team) (w : WarpId) (h : Word) (i : Nat) : Option Stall :=
  if hdrWaitMet t w h i then none
  else
    let n := (hdrWait h i).2
    (t.queues[n]?).map fun q => if Team.consumes w q then .popQ n else .pushQ n

/-- What keeps a warp from its next clause: a warp whose header waits for a queue is stalled on it (R206, R424; log entry 30). -/
def State.headerStall (s : State) (t : Team) (w : WarpId) (x : Warp) : Option Stall :=
  if x.clause.isSome || x.resumed || !x.awake then x.stall
  else
    match s.peekHeader t w x with
    | .word h => if (hdrFault t w h).isSome then none else match hdrStall t w h 0 with | some y => some y | none => hdrStall t w h 1
    | _ => match x.stall with | some (.popQ _) | some (.pushQ _) => none | y => y

/-- The warps of a team with the moment at which their clauses became eligible, and with what their headers wait for (R185). -/
def State.stampTeam (s : State) (t : Team) : Team :=
  { t with warps := t.warps.zipIdx.map fun y =>
      let w : WarpId := { team := t.num, idx := y.2 }
      let x := { y.1 with stall := s.headerStall t w y.1 }
      if x.elig.isNone && s.eligible t w x then { x with elig := some s.tick } else x }

/-- Every warp whose clause has become eligible, with its moment. -/
def State.stamp (s : State) : State := s.setTeams (s.hm.teams.map s.stampTeam)

/-- A warp that a port may pick, with its order: the moment of its eligibility, then its slot. -/
def State.portChoices (s : State) (core : Nat) (p : Port) : List (Nat × Nat × WarpId) :=
  s.hm.teams.flatMap fun t =>
    if t.core = core ∧ t.st = .resident then
      t.warps.zipIdx.filterMap fun y =>
        let w : WarpId := { team := t.num, idx := y.2 }
        match y.1.elig with
        | some e =>
          if portServes p y.2 y.1 && s.eligible t w y.1 then some (e, y.1.wslot, w) else none
        | none => none
    else []

/-- The earliest moment first, and on a tie the lowest slot (R186, R187). -/
def firstChoice : List (Nat × Nat × WarpId) → Option (Nat × Nat × WarpId)
  | [] => none
  | x :: r =>
    match firstChoice r with
    | none => some x
    | some y => if y.1 < x.1 ∨ (y.1 = x.1 ∧ y.2.1 < x.2.1) then some y else some x

/-! ## Issuing a clause -/

/-- A clause has issued on a port: the other warps that spin there may issue again (R287). -/
def State.endSpins (s : State) (core : Nat) (p : Port) (w : WarpId) : State :=
  s.setTeams (s.hm.teams.map fun t =>
    if t.core = core then
      { t with warps := t.warps.zipIdx.map fun y =>
          if portServes p y.2 y.1 && !(t.num == w.team && y.2 == w.idx) then { y.1 with spinning := false } else y.1 }
    else t)

/-- The warp's clause is open and the port is its own (R186). -/
def State.beginClause (s : State) (core : Nat) (p : Port) (w : WarpId) (x : Warp) (c : Clause) : State :=
  ((s.setWarp w { x with clause := some c, resumed := false, stall := none }).holdPort core p w).endSpins core p w

/-- A trap at a header reports slot 0 (R253, R433). -/
def State.hdrTrap (s : State) (w : WarpId) (x : Warp) (q : TrapReq) : State :=
  s.raiseInfo w { x.trapInfo q with slot := 0, rep := 0 }

/-- The header is in hand: checked, reconverged under its flag, and its clause opened (R252 to R254, R285). -/
def State.openHeader (s : State) (core : Nat) (p : Port) (t : Team) (w : WarpId) (x : Warp) (h : Word) : State :=
  let c : Clause := { cls := fieldOf h 57 3, count := fieldOf h 53 4 + 1 }
  match hdrFault t w h with
  | some n => s.hdrTrap w x { cause := .illegalClause, reg := n }
  | none =>
    if x.resumed then
      if x.slot ≥ c.count then s.hdrTrap w x { cause := .illegalClause } else s.beginClause core p w x c
    else if h.getLsbD 32 then
      match x.reconverge x.hdr s.mem.nextTok with
      | (x, some pc) => s.setWarp w (x.goto pc)
      | (x, none) => s.beginClause core p w x c
    else s.beginClause core p w x c

/-- The picked warp issues its clause, or goes on with a suspended one; a header that the fetch finds, and whose waits are not met, is kept until they are (R185). -/
def State.issueClause (s : State) (core : Nat) (p : Port) (w : WarpId) : State :=
  match s.team? w.team with
  | none => s
  | some t =>
    match t.warps[w.idx]? with
    | none => s
    | some x =>
      match x.clause with
      | some c => s.beginClause core p w x c
      | none =>
        match s.fetch { w := w, t := t, x := x } x.hdr with
        | (s, .ok h) =>
          if !x.resumed && (hdrFault t w h).isNone && !hdrMet t w x h then s.modWarp w fun x => { x with elig := none }
          else s.openHeader core p t w ((s.warp? w).getD x) h
        | (s, .error (.trap q)) => s.hdrTrap w x q
        | (s, .error (.stall y)) => s.modWarp w fun x => { x with stall := some y, elig := none }

/-- CLAUSE_ISSUE (R186, R187): a free port takes the eligible warp with the earliest eligibility time. -/
def execClauseIssue (core : Nat) (port : Port) (s : State) : Host.Outcome State Fault Refusal :=
  .next <|
    let s := s.stamp
    if 64 ≤ core ∨ portValid port = false ∨ ((s.core core).holder port).isSome = true then s
    else
      match firstChoice (s.portChoices core port) with
      | none => s
      | some (_, _, w) => s.issueClause core port w

/-- CLAUSE_SUSPEND (R186): the holder, which stalls or belongs to a team that has stopped, releases the port and keeps its place and its
eligibility time. -/
def execClauseSuspend (core : Nat) (port : Port) (s : State) : Host.Outcome State Fault Refusal :=
  .next <|
    match (s.core core).holder port with
    | none => s
    | some w =>
      match s.team? w.team, s.warp? w with
      | some t, some x =>
        if x.stall.isSome ∨ t.st ≠ .resident then (s.releasePort w).setWarp w { x with resumed := true } else s
      | _, _ => s

/-- SPIN_TIMEOUT (R287): the warp need wait no longer. -/
def execSpinTimeout (team warp : Nat) (s : State) : Host.Outcome State Fault Refusal :=
  .next (s.modWarp { team := team, idx := warp } fun x => { x with spinning := false })

/-! ## Loss of decoupling (R206, R207) -/

/-- The access warp waits for the head of a return queue (R206). -/
def Team.inLoss (t : Team) : Bool :=
  match t.warps.head? with
  | some x =>
    (match x.stall with
      | some (.popQ n) => (match t.queues[n]? with | some q => q.dir == .ret && !q.headHere | none => false)
      | _ => false)
  | none => false

/-- The access warp waits for room in a forward queue (R206). -/
def Team.inFull (t : Team) : Bool :=
  match t.warps.head? with
  | some x =>
    (match x.stall with
      | some (.pushQ n) => (match t.queues[n]? with | some q => q.dir == .forward && !q.hasRoom 1 | none => false)
      | _ => false)
  | none => false

/-- The execute warps that wait for a Pending head. -/
def Team.onPending (t : Team) : Nat :=
  (t.warps.drop 1).countP fun x =>
    match x.stall.bind Stall.pop? with
    | some (n, pos) => (match t.queues[n]? with | some q => q.stAt pos == some EntryState.pending | none => false)
    | none => false

/-- The counters of Table 7.6 after `ns` of the memory island's counter; a parked team's first two stop (R105). -/
def Team.spend (t : Team) (ns : Nat) : Team :=
  match t.st with
  | .resident | .parked =>
    let run := t.st == .resident
    { t with lod := { t.lod with
        ns := if run && t.inLoss then t.lod.ns + BitVec.ofNat 48 ns else t.lod.ns
        qfull := if run && t.inFull then t.lod.qfull + BitVec.ofNat 48 ns else t.lod.qfull
        pend := t.lod.pend + BitVec.ofNat 48 (ns * t.onPending) } }
  | _ => t

/-- The queue that a warp is stalled on under R207: it pops one whose head, or the later entry that the pop waits for, is neither Ready nor Poisoned, or pushes
to one without room (DEDUCED, log entry 30). -/
def Team.deadOn (t : Team) (x : Warp) : Option (Nat × Queue) :=
  match x.stall.bind Stall.pop?, x.stall.bind Stall.push? with
  | some (n, pos), _ => (t.queues[n]?).bind fun q => if q.hereAt pos then none else some (n, q)
  | none, some (n, k) => (t.queues[n]?).bind fun q => if q.hasRoom k then none else some (n, q)
  | none, none => none

/-- Decoupling deadlock (R207). The queue that a warp stalls on has that warp itself as its consumer or producer (DEDUCED, log entry 30). -/
def Team.deadlocked (t : Team) : Bool :=
  t.st == .resident && !t.accessEnded &&
    t.warps.all (fun x => x.ended || (t.deadOn x).isSome) &&
    t.queues.all (fun q => q.entries.all fun e => e.st != .issued && e.st != .pending) && t.cmds.isEmpty

/-- What a team notes after every step: losses of decoupling begun, and since when it has been deadlocked. -/
def Team.notes (now : BitVec 64) (t : Team) : Team :=
  { t with
    lod := { t.lod with
      inLoss := t.inLoss
      events := if t.st = .resident ∧ t.inLoss = true ∧ t.lod.inLoss = false then t.lod.events + 1 else t.lod.events }
    deadAt := if t.deadlocked then some (t.deadAt.getD now) else none }

/-- DECOUPLING_DEADLOCK (R207): once the condition has held for 4,096 ns, the access warp traps. -/
def execDecouplingDeadlock (team : Nat) (s : State) : Host.Outcome State Fault Refusal :=
  .next <|
    match s.team? team with
    | none => s
    | some t =>
      match t.deadAt, t.warps.head?.bind t.deadOn with
      | some at_, some (n, _) =>
        if t.deadlocked = false ∨ (s.memCount t.core - at_).toNat < 4096 then s
        else s.raise { team := team, idx := 0 } { cause := .decouplingDeadlock, reg := 1536 + n }
      | _, _ => s

/-! ## Traps, the grid, long-latency instructions, entries -/

/-- TRAP_DELIVERY (R216): every earlier instruction has completed. -/
def execTrapDelivery (team warp : Nat) (s : State) : Host.Outcome State Fault Refusal :=
  .next <|
    let w : WarpId := { team := team, idx := warp }
    match (s.warp? w).bind (·.trap) with
    | none => s
    | some i => if s.quiet w then s.deliverTrap w i else s

/-- GRID_GRANT (R210): the free grid goes to the warp that has waited longest. -/
def execGridGrant (core part : Nat) (s : State) : Host.Outcome State Fault Refusal :=
  .next <|
    let p := (s.core core).part part
    match p.grid, p.waiters with
    | none, w :: r =>
      (s.modPart core part fun p => { p with grid := some w, waiters := r }).modWarp w fun x => { x with gridWait := false }
    | _, _ => s

/-- GRID_STEP_DONE (R339). -/
def execGridStepDone (core part : Nat) (s : State) : Host.Outcome State Fault Refusal := .next (s.gridStep core part)

/-- LONG_LATENCY_COMPLETE (R250, R257): the instruction at a window position completes. A grid instruction completes with its step. -/
def execLongLatencyComplete (team warp pos : Nat) (s : State) : Host.Outcome State Fault Refusal :=
  .next <|
    s.modWarp { team := team, idx := warp } fun x =>
      match x.window[pos]? with
      | some l => if l.done ∨ l.grid then x else x.complete l.tok
      | none => x

/-- Marks a Pending or Issued entry of a team's queue with what a load leaves in it; an older generation's data is discarded (R199). -/
def State.fillEntry (s : State) (team q slot : Nat) (g : BitVec 2) (e : Entry) : State :=
  s.modTeam team fun t =>
    match t.queues[q]? with
    | none => t
    | some y => t.setQueue q (y.fill slot g e)

/-- Whether the entry of a load may change state: its data is all there, or one of its faults has failed (Table 7.5). -/
def State.entryDue (s : State) (l : PendLoad) : Bool :=
  match l.dst with
  | .entry q slot g =>
    l.performed || (!l.bad.isEmpty && !l.faulted.isEmpty &&
      (match (s.team? l.w.team).bind (·.queues[q]?) with
        | none => false
        | some y => match y.find slot g with
          | none => false
          | some i => (y.entries[i]?).map (·.st) == some EntryState.pending))
  | _ => false

/-- QUEUE_ENTRY_READY (R200): the entry of the n-th such load of a core becomes Ready or Poisoned. -/
def execQueueEntryReady (core n : Nat) (s : State) : Host.Outcome State Fault Refusal :=
  .next <|
    match ((s.core core).loads.filter s.entryDue)[n]? with
    | none => s
    | some l =>
      match l.dst with
      | .entry q slot g =>
        let s := s.fillEntry l.w.team q slot g l.entry
        if l.performed then s.modCore core fun c => c.dropLoad l.tok else s
      | _ => s

end Sys2Proof.Machine
end

