-- ==== Sys2Proof/Machine/CrossLane.lean ====
section
/-! DEFINITION. Cross-lane instructions (11: R316 to R325). -/

namespace Sys2Proof.Machine

/-- The element at a position of a register (R316). -/
def posEl (w : Nat) (x : Image) (pos : Nat) : Nat := subEl w (lane x (pos / (64 / w))) (pos % (64 / w))

/-- The image whose element at each position is `f`. -/
def ofPos (w : Nat) (f : Nat → Nat) : Image := ofLanes fun t => ofSubs w fun e => f (64 / w * t + e)

/-- The number of positions of a register (R316). -/
def posCount (w : Nat) : Nat := 32 * (64 / w)

/-- The first position of the sub-group of a position (R316). -/
def groupBase (g d : Nat) : Nat := d - d % g

/-- The checks of an instruction whose D must be a register or a push: `zero` raises "illegal operand", before the traps of the sources (R196, R323, R325). -/
def refuseZero (d : Fld) (r : Except Stop Dst) : Except Stop Dst :=
  if d = 1736#11 then
    match r with
    | .error (.stall y) => .error (.stall y)
    | .error (.trap q) => .error (if q.cause = .reservedOpcode then .trap q else trapOf .illegalOperand d.toNat)
    | .ok _ => .error (trapOf .illegalOperand d.toNat)
  else r

/-- A cross-lane instruction of the general form: reads `us`, computes an image, writes `act`; `reg` says that D is not `zero`. -/
def State.crossLane (s : State) (ty : BitVec 4) (d : Fld) (us : List SrcUse) (cc : BitVec 2) (g : Guard)
    (f : Mask → List Image → Mask × Image × Nat) (reg : Bool := false) : Host.Outcome State Fault Refusal :=
  s.asWarp fun c =>
    match if reg then refuseZero d (s.vecStart c d cc g us false false true) else s.vecStart c d cc g us false false true with
    | .error q => .error q
    | .ok dst =>
      let (act, x, flags) := f (c.x.active g) (srcVals c ty us)
      s.vecEnd c us dst act x cc flags

/-- The result of `vshfl` (R318). -/
def shflImage (w g : Nat) (a b : Image) : Image :=
  ofPos w fun d => let i := posEl w b d; posEl w a (if i < g then groupBase g d + i else d)

/-- The lanes of `vshfl` with an index outside the sub-group (R318). -/
def shflOut (w g : Nat) (b : Image) : Mask := maskOf fun t => (List.range (64 / w)).any fun e => decide (g ≤ subEl w (lane b t) e)

/-- `vshfl` (R318). -/
def execVshfl (f : ShflF) (s : State) : Host.Outcome State Fault Refusal :=
  s.asWarp fun c =>
    let us : List SrcUse := [⟨f.a, false⟩, ⟨f.b, false⟩]
    match s.vecStart c f.d f.cc f.g us false false true with
    | .error q => .error q
    | .ok dst =>
      let w := Ty.width f.ty
      let g := 2 ^ f.gs.toNat
      let xs := srcVals c f.ty us
      let act := c.x.active f.g
      match (c.afterReads us).writeDst dst act (shflImage w g (xs.getD 0 0) (xs.getD 1 0)) f.cc with
      | .error e => .error e
      | .ok c => .ok (s.retireCtx (if f.pe then { c with x := c.x.writePred f.pn.toNat act (shflOut w g (xs.getD 1 0)) } else c))

/-- `vbcast` (R319). -/
def execVbcast (f : BcastF) (s : State) : Host.Outcome State Fault Refusal :=
  s.crossLane f.ty f.d [⟨f.a, false⟩] f.cc f.g fun act xs =>
    let w := Ty.width f.ty
    (act, ofPos w fun d => posEl w (xs.getD 0 0) (groupBase (2 ^ f.gs.toNat) d + f.pos.toNat), 0)

/-- `vperm` (R320). -/
def execVperm (f : Alu3) (s : State) : Host.Outcome State Fault Refusal :=
  s.crossLane f.ty f.d [⟨f.a, false⟩, ⟨f.b, false⟩, ⟨f.c, false⟩] f.cc f.g fun act xs =>
    (act, ofLanes fun t =>
      let i := fieldOf (lane (xs.getD 2 0) t) 0 6
      if i < 32 then lane (xs.getD 0 0) i else lane (xs.getD 1 0) (i - 32), 0)

/-- The positions of the active lanes, ascending (R321). -/
def activePos (w : Nat) (act : Mask) : List Nat := (List.range (posCount w)).filter fun d => mbit act (d / (64 / w))

/-- `vpack` (R321): it writes every lane. -/
def execVpack (f : Alu1) (s : State) : Host.Outcome State Fault Refusal :=
  s.crossLane f.ty f.d [⟨f.a, false⟩] f.cc f.g fun act xs =>
    let w := Ty.width f.ty
    let dense := (activePos w act).map (posEl w (xs.getD 0 0))
    (allLanes, ofPos w fun d => dense.getD d 0, 0)

/-- `vunpk` (R321). -/
def execVunpk (f : Alu1) (s : State) : Host.Outcome State Fault Refusal :=
  s.crossLane f.ty f.d [⟨f.a, false⟩] f.cc f.g fun act xs =>
    let w := Ty.width f.ty
    let e := activePos w act
    (act, ofPos w fun d => posEl w (xs.getD 0 0) (e.idxOf d), 0)

/-- One combine of `vred` and `vscan` (R322). -/
def combine (ty : BitVec 4) (op : Nat) (a b : Nat) : Nat × Nat :=
  if Ty.float ty then
    let m := fmtOf ty
    if op = 0 then m.add 0 a b else m.minMax (op == 2) a b
  else
    (match op with
      | 0 => iAdd ty a b
      | 1 => iMin ty a b
      | 2 => iMax ty a b
      | 3 => a &&& b
      | 4 => a ||| b
      | _ => a ^^^ b, 0)

/-- The identity of an operation (R322). -/
def identOf (ty : BitVec 4) (op : Nat) : Nat :=
  let w := Ty.width ty
  let m := fmtOf ty
  if Ty.float ty then (if op = 0 then m.sign true else if op = 1 then m.inf else m.sign true + m.inf)
  else
    match op with
    | 1 => if Ty.signed ty then 2 ^ (w - 1) - 1 else 2 ^ w - 1
    | 2 => if Ty.signed ty then 2 ^ (w - 1) else 0
    | 3 => 2 ^ w - 1
    | _ => 0

/-- One level of the tree of R322. -/
def redLevel (op : Nat → Nat → Nat × Nat) : List Nat → List Nat × Nat
  | a :: b :: r =>
    let x := op a b
    let y := redLevel op r
    (x.1 :: y.1, x.2 ||| y.2)
  | l => (l, 0)

/-- The tree of R322; ten levels reduce 512 elements. -/
def redTree (op : Nat → Nat → Nat × Nat) : Nat → List Nat → Nat → List Nat × Nat
  | 0, l, fl => (l, fl)
  | n + 1, l, fl => let r := redLevel op l; redTree op n r.1 (fl ||| r.2)

/-- The elements of the active positions of a sub-group, ascending. -/
def groupEls (w g : Nat) (act : Mask) (x : Image) (base : Nat) : List Nat :=
  ((List.range g).filter fun i => mbit act ((base + i) / (64 / w))).map fun i => posEl w x (base + i)

/-- The reduction of each sub-group, and the flags of every combine. -/
def redGroups (ty : BitVec 4) (op g : Nat) (act : Mask) (x : Image) : List (Nat × Nat) :=
  let w := Ty.width ty
  (List.range (posCount w / g)).map fun k =>
    let r := redTree (combine ty op) 10 (groupEls w g act x (g * k)) 0
    (r.1.headD (identOf ty op), r.2)

/-- `vred` (R322): to a register or queue, or as one packed lane to a k register. -/
def execVred (f : RedF) (s : State) : Host.Outcome State Fault Refusal :=
  s.asWarp fun c =>
    let us : List SrcUse := [⟨f.a, false⟩]
    match s.vecStart c f.d f.cc f.g us true false true with
    | .error q => .error q
    | .ok dst =>
      let w := Ty.width f.ty
      let g := 2 ^ f.gs.toNat
      let act := c.x.active f.g
      let rs := redGroups f.ty f.op.toNat g act (srcVal c f.ty f.a 0)
      s.vecEnd c us dst act (ofPos w fun d => (rs.getD (d / g) (0, 0)).1) f.cc (rs.foldl (fun a r => a ||| r.2) 0)

/-- The folds of R323 over a list: the inclusive results with the flags of each combine, in order. -/
def foldsFrom (op : Nat → Nat → Nat × Nat) (acc : Nat) : List Nat → List (Nat × Nat)
  | [] => []
  | x :: r => let y := op acc x; y :: foldsFrom op y.1 r

/-- The scan of a list (R323): the results, and the flags of the combines made. -/
def scanList (op : Nat → Nat → Nat × Nat) (ident : Nat) (ex : Bool) (l : List Nat) : List Nat × Nat :=
  match (if ex then l.dropLast else l) with
  | [] => (if l = [] then [] else [ident], 0)
  | x :: r =>
    let fs := foldsFrom op x r
    ((if ex then [ident] else []) ++ x :: fs.map Prod.fst, fs.foldl (fun a y => a ||| y.2) 0)

/-- `vscan` (R323). -/
def execVscan (f : RedF) (s : State) : Host.Outcome State Fault Refusal :=
  s.crossLane (reg := true) f.ty f.d [⟨f.a, false⟩] f.cc f.g fun act xs =>
    let w := Ty.width f.ty
    let g := 2 ^ f.gs.toNat
    let rs := (List.range (posCount w / g)).map fun k =>
      scanList (combine f.ty f.op.toNat) (identOf f.ty f.op.toNat) f.ex (groupEls w g act (xs.getD 0 0) (g * k))
    let rank (d : Nat) : Nat := ((List.range (d % g)).filter fun i => mbit act ((groupBase g d + i) / (64 / w))).length
    (act, ofPos w fun d => (rs.getD (d / g) ([], 0)).1.getD (rank d) 0, rs.foldl (fun a r => a ||| r.2) 0)

/-- Element `x` at position `i` ranks before `y` at `j` (R324): by value, then by position; NaNs after every number. -/
def ranksBefore (ty : BitVec 4) (lo : Bool) (x i y j : Nat) : Bool :=
  if Ty.float ty then
    let a := (fmtOf ty).val x
    let b := (fmtOf ty).val y
    if a.isNan && b.isNan then decide (i < j)
    else if a.isNan then false
    else if b.isNan then true
    else if (if lo then a.less b else b.less a) then true
    else if (if lo then b.less a else a.less b) then false
    else decide (i < j)
  else
    let a := intVal ty x
    let b := intVal ty y
    if a = b then decide (i < j) else if lo then decide (a < b) else decide (b < a)

/-- `vtopk` (R324). -/
def execVtopk (f : TopkF) (s : State) : Host.Outcome State Fault Refusal :=
  s.crossLane f.ty f.d [⟨f.a, false⟩] f.cc f.g fun act xs =>
    let w := Ty.width f.ty
    let g := 2 ^ f.gs.toNat
    let x := xs.getD 0 0
    let sel (d : Nat) : Bool :=
      let b := groupBase g d
      decide (((List.range g).filter fun i =>
        mbit act ((b + i) / (64 / w)) && ranksBefore f.ty f.lo (posEl w x (b + i)) (b + i) (posEl w x d) d).length < f.k.toNat)
    (act, ofPos w fun d => if sel d then 2 ^ w - 1 else 0, 0)

/-- `vballot` (R325): to a k register, to a predicate, or to `zero`. -/
def execVballot (f : Alu1) (s : State) : Host.Outcome State Fault Refusal :=
  s.asWarp fun c =>
    let us : List SrcUse := [⟨f.a, false⟩]
    match s.vecStart c f.d f.cc f.g us true true false with
    | .error q => .error q
    | .ok dst =>
      let act := c.x.active f.g
      let x := srcVal c f.ty f.a 0
      let b := maskOf fun t => mbit act t && lane x t != 0
      let c := c.afterReads us
      .ok (s.retireCtx (match dst with
        | .k n => { c with x := { c.x with k := vset c.x.k n (word b.toNat) } }
        | .p n => { c with x := c.x.writePred n act b }
        | _ => c))

/-- `vmatch` (R325). -/
def execVmatch (f : Alu1) (s : State) : Host.Outcome State Fault Refusal :=
  s.crossLane (reg := true) f.ty f.d [⟨f.a, false⟩] f.cc f.g fun act xs =>
    let x := xs.getD 0 0
    (act, ofLanes fun t => word (maskOf fun u => mbit act u && lane x u == lane x t).toNat, 0)

end Sys2Proof.Machine
end

