-- ==== Sys2Proof/Machine/Links.lean ====
section
/-! DEFINITION. Events of the links (02: R47 to R61; 06: R176, R177): host accesses through BAR2, ATS, aperture completions, ports, the load-store domain as requester and as
target. -/

namespace Sys2Proof.Machine

/-! ## BAR2 (R47, R48, R177) -/

/-- The end of the HBM range: a BAR2 access that reaches beyond it is an Unsupported Request (R48). -/
def hbmEnd : Nat := 0x6000000000

/-- Whether any of `n` bytes from an address is poisoned. -/
def Ram.poisonedIn (r : Ram) (a n : Nat) : Bool := (List.range n).any fun i => r.poisonedAt (a + i)

/-- An access lies in the BAR2 window; one that does not is not the device's to answer (R48; log entry 112). -/
def State.inBar2 (s : State) (pa len : Nat) : Bool := pa + len ≤ 2 ^ s.links.bar2

/-- The host chooses the size of BAR2, from 256 MiB to 512 GiB, in the Resizable BAR capability (R48, Table 2.2; log entry 112). -/
def State.resizeBar2 (s : State) (n : Nat) : State := if 28 ≤ n ∧ n ≤ 39 then { s with links := { s.links with bar2 := n } } else s

/-- HOST_BAR2_READ (R48, R177): the bytes as the home slices hold them; a poisoned sector sets EP. -/
def execHostBar2Read (pa len : Nat) (s : State) : Host.Outcome State Fault Refusal :=
  .next <|
    if s.inBar2 pa len = false then s
    else if pa + len > hbmEnd then s.send .hostUr
    else (s.servedRun pa len).send (.hostReply (s.mem.ram.bytes pa len) (s.mem.ram.poisonedIn pa len))

/-- HOST_BAR2_WRITE (R48, R177): a posted write, performed at the home slices; one that reaches beyond HBM is an Unsupported Request and writes nothing. -/
def execHostBar2Write (pa : Nat) (data : List Byte) (s : State) : Host.Outcome State Fault Refusal :=
  .next <|
    if s.inBar2 pa data.length = false then s
    else if pa + data.length > hbmEnd then s.send .hostUr else s.homeWrite (cellsAt pa data)

/-- The operation code of a PCIe AtomicOp. -/
def hostOp : HostAtomicOp → BitVec 3
  | .fetchAdd => 0
  | .swap => 6
  | .cas => 7

/-- A 64-bit read-modify-write of an element in home memory. -/
def elem64 (op : BitVec 3) (pa : Nat) (x e : Word) : AtomElem := { lane := 0, pa := pa, ty := 7, op := op, x := x, e := e }

/-- HOST_ATOMIC (R47, R123): a 64-bit AtomicOp; a misaligned one, or one beyond HBM, is an Unsupported Request; one that touches a poisoned sector leaves memory unchanged and
answers with EP. -/
def execHostAtomic (op : HostAtomicOp) (pa : Nat) (x e : Word) (s : State) : Host.Outcome State Fault Refusal :=
  .next <|
    if s.inBar2 pa 8 = false then s
    else if pa + 8 > hbmEnd ∨ pa % 8 ≠ 0 then s.send .hostUr
    else
      match s.mem.ram.rmw (elem64 (hostOp op) pa x e) with
      | none => (s.servedAtomic [pa]).send (.hostReply (s.mem.ram.bytes pa 8) true)
      | some (m, old) => (({ s with mem := { s.mem with ram := m } }).servedAtomic [pa]).send (.hostReply (leBytes 8 old) false)

/-! ## The host aperture (R49 to R53) -/

/-- An aperture read ends: its bytes, which come through the home slices of their lines, or a failed host access, reach what it fills (R53, R129). -/
def State.apDone (s : State) (r : ApRead) (data : Option (List Byte)) : State :=
  let s := match data with | some d => s.passedReply r.pa d | none => s
  match r.dst with
  | .load core tok =>
    let f (pa : Nat) : Option (Byte × Option Cause) :=
      if r.pa ≤ pa ∧ pa < r.pa + r.len then
        some (match data with | some d => (d.getD (pa - r.pa) 0, none) | none => (0, some .hostAccess))
      else none
    (s.modCore core fun k => { k with loads := k.loads.map fun l => if l.tok = tok then l.take f else l }).gatherArrived core tok
  | .code w va =>
    let l : CodeLine := { va := va, pa := r.pa, bytes := BitVec.ofNat 1024 (leNat (data.getD [])), poison := 0, fail := data.isNone }
    s.modWarp w fun x => { x with code := some l, stall := none }
  | .buf rd =>
    let b : ApBuf := { r := rd, pa := r.pa, len := r.len, data := data }
    { s with links := { s.links with apBuf := s.links.apBuf ++ [b] } }

/-- The pages whose invalidation has waited for accesses that are now complete are reported done (R50). -/
def State.settleAts (s : State) : State :=
  let busy (p : Nat) : Bool := s.links.apReads.any fun r => r.ba / 4096 == p
  let done := s.links.atsInv.filter fun p => !busy p
  done.foldl (fun s p => s.send (.atsDone p)) { s with links := { s.links with atsInv := s.links.atsInv.filter busy } }

/-- ATS_INVALIDATION (R50): the translation is dropped; the invalidation completes once no outstanding access uses it. -/
def execAtsInvalidation (page : Nat) (s : State) : Host.Outcome State Fault Refusal :=
  .next ({ s with links := { s.links with
    atsHeld := s.links.atsHeld.filter (· != page), atsInv := s.links.atsInv.filter (· != page) ++ [page] } }).settleAts

/-- A held aperture read is sent. -/
def State.sendApRead (s : State) (r : ApRead) : State :=
  let r := { r with sent := s.mgmt.count }
  ({ s with links := { s.links with apReads := s.links.apReads ++ [r] } }).send (.hostRead r.tag r.ba r.len)

/-- The areas whose completion entry waits for a host page. -/
def State.cplWaiting (s : State) (page : Nat) : List Nat := (List.range 80).filter fun a => s.cplPage a == some page

/-- ATS_TRANSLATION_REPLY (R50, R53, R73): the accesses that waited for the page are sent, or fail, and so are completion entries; at most 1,024 translations are kept. -/
def execAtsTranslationReply (page : Nat) (ok : Bool) (s : State) : Host.Outcome State Fault Refusal :=
  .next <|
    if s.links.atsAsked.contains page = false then s
    else
      let here (ba : Nat) : Bool := ba / 4096 == page
      let areas := s.cplWaiting page
      let reads := s.links.apQueue.filter fun r => here r.ba
      let writes := s.links.apWrites.filter fun w => here w.ba
      let held := if ok then s.links.atsHeld.filter (· != page) ++ [page] else s.links.atsHeld
      let links := { s.links with
        atsAsked := s.links.atsAsked.filter (· != page)
        atsHeld := held.drop (held.length - 1024)
        apQueue := s.links.apQueue.filter fun r => !here r.ba
        apWrites := s.links.apWrites.filter fun w => !here w.ba }
      let s := { s with links := links }
      if ok then
        let s := writes.foldl (fun s w => s.send (.hostWrite w.ba (w.bytes.map (·.2)))) s
        let s := reads.foldl (fun s r => s.sendApRead r) s
        areas.foldl (fun s a => s.cplDrain a (s.area a).kept) s
      else
        let s := s.setCtr { s.mem.ctr with hostErr := s.mem.ctr.hostErr + word writes.length }
        let s := reads.foldl (fun s r => s.apDone r none) s
        areas.foldl (fun s a => s.modArea a fun x => { x with holdCpl := true, halted := true, err := 3 }) s

/-- An outstanding aperture read with a tag ends. -/
def State.apEnd (s : State) (r : ApRead) (data : Option (List Byte)) : State :=
  (({ s with links := { s.links with apReads := s.links.apReads.filter (·.tag != r.tag) } }).apDone r data).settleAts

/-- The bytes that a completion brings. -/
def completionData : Completion → Option (List Byte)
  | .ok d => some d
  | .unsupportedRequest => none
  | .completerAbort => none

/-- APERTURE_COMPLETION (R53): a completion with as many bytes as were asked for, or a failing one. -/
def execApertureCompletion (tag : Nat) (c : Completion) (s : State) : Host.Outcome State Fault Refusal :=
  .next <|
    match s.links.apReads.find? (·.tag == tag) with
    | none => s
    | some r => if ((completionData c).map fun d => d.length == r.len).getD true then s.apEnd r (completionData c) else s

/-- COMPLETION_TIMEOUT (R53): 50 ms after the read was sent. -/
def execCompletionTimeout (tag : Nat) (s : State) : Host.Outcome State Fault Refusal :=
  .next <|
    match s.links.apReads.find? (·.tag == tag) with
    | none => s
    | some r => if (s.mgmt.count - r.sent).toNat < 50000000 then s else s.apEnd r none

/-! ## Ports (R54, R56) -/

/-- Changes a port. -/
def State.setPort (s : State) (n : Nat) (p : EthPort) : State := { s with links := { s.links with ports := vset s.links.ports n p } }

/-- PORT_LINK_UP (R54): link-level retry and credits are used when both ends offer them. The ports negotiate from step 8 of bring-up on, at which the stage is Running (R28). -/
def execPortLinkUp (port : Nat) (llr credit : Bool) (s : State) : Host.Outcome State Fault Refusal :=
  .next (if s.mgmt.stage = .running then s.setPort port { up := true, llr := llr, credit := credit } else s)

/-- PORT_LINK_DOWN (R56): the port leaves the spray set, and its unacknowledged packets go over the others. -/
def execPortLinkDown (port : Nat) (s : State) : Host.Outcome State Fault Refusal :=
  .next <|
    let lost := s.links.remotes.filter fun r => r.sent && r.port == port
    lost.foldl (fun s r => s.transmit r) (s.setPort port EthPort.down)

/-- FRAME_RECEIVE (R54): a frame that carries neither UET nor neighbour discovery is dropped and counted. What the others carry arrives as events of its own. -/
def execFrameReceive (port : Nat) (k : FrameKind) (s : State) : Host.Outcome State Fault Refusal :=
  .next (if k = .other then s.setCtr { s.mem.ctr with ethDrop := bump s.mem.ctr.ethDrop port 1 } else s)

/-! ## The domain, as requester (R56, R59 to R61, R176) -/

/-- How a remote access ends: bytes of a read or the old value of an atomic, poisoned or not; or a failure, counted when the target refused it. -/
inductive RemoteEnd where
  | data (bs : List Byte) (bad : Bool)
  | old (x : Word) (bad : Bool)
  | failed (c : Cause)
  deriving DecidableEq, Repr

/-- The accesses held behind an earlier one to the same sector that has ended are sent (R176), also when the domain has been disabled since they were issued (log entry 118). -/
def State.releaseHeld (s : State) : State :=
  s.links.remotes.zipIdx.foldl (fun s x =>
    if x.1.sent = false ∧ (s.links.remotes.take x.2).any (fun y => y.clash x.1) = false then s.transmit x.1 else s) s

/-- What a remote access's end brings its requester (R53, R60, R61, R354). -/
def State.remoteResult (s : State) (r : Remote) (e : RemoteEnd) : State :=
  match r.op, e with
  | .read tok len, .data bs bad =>
    let f (pa : Nat) : Option (Byte × Option Cause) :=
      if 2 ^ 52 ≤ pa ∧ pa < 2 ^ 52 + len then some (bs.getD (pa - 2 ^ 52) 0, if bad then some .uncorrectable else none) else none
    s.modCore r.core fun k => { k with loads := k.loads.map fun l => if l.tok = tok then l.take f else l }
  | .read tok len, .failed c =>
    let f (pa : Nat) : Option (Byte × Option Cause) := if 2 ^ 52 ≤ pa ∧ pa < 2 ^ 52 + len then some (0, some c) else none
    s.modCore r.core fun k => { k with loads := k.loads.map fun l => if l.tok = tok then l.take f else l }
  | .atomic tok lane _ _ _, .old x bad =>
    let bit : Mask := maskOf (· == lane)
    if bad then s.atomicResult r.w tok bit 0 [(lane, .uncorrectable)] else s.atomicResult r.w tok bit (BitVec.ofNat 2048 (x.toNat <<< (64 * lane))) []
  | .atomic tok lane _ _ _, .failed c => s.atomicResult r.w tok (maskOf (· == lane)) 0 [(lane, c)]
  | _, _ => s

/-- A remote access ends: it is acknowledged, its result arrives, and what it held is sent. -/
def State.remoteEnd (s : State) (r : Remote) (e : RemoteEnd) : State :=
  let s := { s with links := { s.links with remotes := s.links.remotes.filter (·.tag != r.tag) } }
  let s := match r.stok with | some tok => s.ackStore r.core tok | none => s
  (s.remoteResult r e).releaseHeld

/-- A remote access that has been sent. -/
def Links.remote? (l : Links) (tag : Nat) : Option Remote := l.remotes.find? fun r => r.tag == tag && r.sent

/-- RETRANSMIT_TIMER (R56): 20 µs after a packet was sent, on the controller's counter (log entry 11): seven retransmissions, then the operation fails. -/
def execRetransmitTimer (tag : Nat) (s : State) : Host.Outcome State Fault Refusal :=
  .next <|
    match s.links.remote? tag with
    | none => s
    | some r =>
      if (s.mgmt.count - r.last).toNat < 20000 then s
      else if 7 ≤ r.tries then s.remoteEnd r (.failed .remoteUnreachable)
      else
        let r' := { r with tries := r.tries + 1, last := s.mgmt.count }
        let upd (x : Remote) : Remote := if x.tag = tag then r' else x
        ({ s with links := { s.links with remotes := s.links.remotes.map upd } }).transmit r'

/-- DOMAIN_ACK (R176): a remote store, or a remote atomic with the old value, has been performed. -/
def execDomainAck (tag : Nat) (old : Word) (bad : Bool) (s : State) : Host.Outcome State Fault Refusal :=
  .next <|
    match s.links.remote? tag with
    | none => s
    | some r => match r.op with | .read _ _ => s | _ => s.remoteEnd r (.old old bad)

/-- DOMAIN_NACK (R60): the target refuses; a store or an atomic is dropped and counted. -/
def execDomainNack (tag : Nat) (s : State) : Host.Outcome State Fault Refusal :=
  .next <|
    match s.links.remote? tag with
    | none => s
    | some r =>
      let s := match r.op with
        | .read _ _ => s
        | _ => s.setCtr { s.mem.ctr with domDrop := s.mem.ctr.domDrop + 1 }
      s.remoteEnd r (.failed .remoteRange)

/-- RLD_REPLY (R61): the bytes of a remote read; the entry may have gone. -/
def execRldReply (tag : Nat) (data : List Byte) (bad : Bool) (s : State) : Host.Outcome State Fault Refusal :=
  .next <|
    match s.links.remote? tag with
    | none => s
    | some r =>
      match r.op with
      | .read _ len => if data.length = len then s.remoteEnd r (.data data bad) else s
      | _ => s

/-! ## The domain, as target (R60) -/

/-- The bytes a request covers. -/
def domSize : DomOp → Nat
  | .read n => n
  | .write d _ => d.length
  | _ => 8

/-- The kind of access a request makes. -/
def domAcc : DomOp → Acc
  | .read _ => .load
  | .write _ _ => .store
  | _ => .atomic

/-- Whether a lease admits a request to one of its ranges (R60, R84); one that is Held does (log entry 119). -/
def Lease.admits (l : Lease) (op : DomOp) (va : Nat) : Bool :=
  (l.st == .active || l.st == .held) && inRanges l.ranges va (domSize op) &&
    (match domAcc op with | .load => l.rread | .store => l.rwrite | .atomic => l.ratomic)

/-- The physical addresses of a request, if it is accepted: the domain enabled and the domain identifier its own, one active lease's range and permission, the translation in
the domain space, and home memory (R57, R60, R145). -/
def State.domAccept (s : State) (r : DomReq) : Option (List Nat) :=
  let n := domSize r.op
  if s.links.domEn = false ∨ r.domid ≠ s.links.domid ∨ n = 0 ∨ (domAcc r.op = .atomic ∧ r.va % 8 ≠ 0) then none
  else
    match s.hm.leases.find? fun l => l.admits r.op r.va with
    | none => none
    | some l =>
      match s.checkTlb { core := 64, asid := s.mem.domAsid, leased := l.ranges, demand := [] } (domAcc r.op) r.va n with
      | .ok pas => if pas.all isHbm then some pas else none
      | .error _ => none

/-- The operation and operands of an atomic request. -/
def domElem (op : DomOp) (pa : Nat) : AtomElem :=
  match op with
  | .fetchAdd x => elem64 0 pa x 0
  | .swap x => elem64 6 pa x 0
  | .cas x e => elem64 7 pa x e
  | _ => elem64 4 pa 0 0

/-- DOMAIN_REQUEST (R60, R61): refused, or served at the home slices, also when it repeats one already served (log entry 120). -/
def execDomainRequest (r : DomReq) (s : State) : Host.Outcome State Fault Refusal :=
  .next <|
    match s.domAccept r with
    | none => s.send (.domNack r.src r.tag)
    | some pas =>
      match r.op with
      | .read _ =>
        (s.served pas).send (.domReply r.src r.tag (pas.map (readCell s.mem.ram.cells)) (pas.any s.mem.ram.poisonedAt))
      | .write d bad =>
        (({ s with mem := { s.mem with ram := s.mem.ram.store (pas.zip d) fun _ => bad } }).servedWrite pas).send (.domAck r.src r.tag 0 false)
      | op =>
        match s.mem.ram.rmw (domElem op (pas.headD 0)) with
        | none => (s.servedAtomic pas).send (.domAck r.src r.tag 0 true)
        | some (m, old) => (({ s with mem := { s.mem with ram := m } }).servedAtomic pas).send (.domAck r.src r.tag (word old) false)

/-- DOMAIN_CONFIG_WRITE (R58, Table 2.6): writing en to 0 drops the cached entries of the domain table. -/
def execDomainConfigWrite (v : Word) (s : State) : Host.Outcome State Fault Refusal :=
  .next { s with links := { s.links with
    domid := BitVec.ofNat 16 (fieldOf v 48 16), self := BitVec.ofNat 10 (fieldOf v 32 10), domEn := v.getLsbD 0
    domCache := if v.getLsbD 0 then s.links.domCache else [] } }

end Sys2Proof.Machine
end

