-- ==== Sys2Proof/Machine/Crypto.lean ====
section
/-! DEFINITION. SHA-512 (FIPS 180-4) and pure Ed25519 (RFC 8032), which R30 names (01). Numbers are `Nat`, reduced where the standards reduce them. -/

namespace Sys2Proof.Machine

/-! ## SHA-512 -/

/-- The first 80 primes. -/
def shaPrimes : List Nat :=
  [2, 3, 5, 7, 11, 13, 17, 19, 23, 29, 31, 37, 41, 43, 47, 53, 59, 61, 67, 71]
  ++ [73, 79, 83, 89, 97, 101, 103, 107, 109, 113, 127, 131, 137, 139, 149, 151, 157, 163, 167, 173]
  ++ [179, 181, 191, 193, 197, 199, 211, 223, 227, 229, 233, 239, 241, 251, 257, 263, 269, 271, 277, 281]
  ++ [283, 293, 307, 311, 313, 317, 331, 337, 347, 349, 353, 359, 367, 373, 379, 383, 389, 397, 401, 409]

/-- The largest `r` below 2^(b) · 2 with `r ^ k ≤ n`, found bit by bit from bit `b` down. -/
def rootFrom (k n : Nat) : Nat → Nat → Nat
  | 0, r => if (r + 1) ^ k ≤ n then r + 1 else r
  | b + 1, r => rootFrom k n b (if (r + 2 ^ (b + 1)) ^ k ≤ n then r + 2 ^ (b + 1) else r)

/-- The first 64 bits of the fraction of a prime's square root. -/
def shaInit (p : Nat) : Nat := rootFrom 2 (p * 2 ^ 128) 70 0 % 2 ^ 64

/-- The first 64 bits of the fraction of a prime's cube root. -/
def shaConst (p : Nat) : Nat := rootFrom 3 (p * 2 ^ 192) 70 0 % 2 ^ 64

/-- A 64-bit rotation to the right. -/
def ror64 (x n : Nat) : Nat := (x >>> n ||| x <<< (64 - n)) % 2 ^ 64

/-- Big-endian number of bytes. -/
def beNat (bs : List Byte) : Nat := bs.foldl (fun a b => a * 256 + b.toNat) 0

/-- The `n` low bytes of a number, big-endian. -/
def beBytes (n x : Nat) : List Byte := (leBytes n x).reverse

/-- The next word of the message schedule from the sixteen before it, latest first. -/
def shaNext (w : List Nat) : Nat :=
  let at' (i : Nat) : Nat := w.getD (i - 1) 0
  let s0 := ror64 (at' 15) 1 ^^^ ror64 (at' 15) 8 ^^^ (at' 15 >>> 7)
  let s1 := ror64 (at' 2) 19 ^^^ ror64 (at' 2) 61 ^^^ (at' 2 >>> 6)
  (at' 16 + s0 + at' 7 + s1) % 2 ^ 64

/-- The message schedule, latest first, `n` words more. -/
def shaSchedule : Nat → List Nat → List Nat
  | 0, w => w
  | n + 1, w => shaSchedule n (shaNext w :: w)

/-- The eight working variables. -/
structure ShaVars where
  a : Nat
  b : Nat
  c : Nat
  d : Nat
  e : Nat
  f : Nat
  g : Nat
  h : Nat
  deriving DecidableEq, Repr

/-- One round with a constant plus schedule word. -/
def ShaVars.round (v : ShaVars) (kw : Nat) : ShaVars :=
  let s1 := ror64 v.e 14 ^^^ ror64 v.e 18 ^^^ ror64 v.e 41
  let ch := (v.e &&& v.f) ^^^ ((v.e ^^^ (2 ^ 64 - 1)) &&& v.g)
  let t1 := v.h + s1 + ch + kw
  let s0 := ror64 v.a 28 ^^^ ror64 v.a 34 ^^^ ror64 v.a 39
  let maj := (v.a &&& v.b) ^^^ (v.a &&& v.c) ^^^ (v.b &&& v.c)
  { a := (t1 + s0 + maj) % 2 ^ 64, b := v.a, c := v.b, d := v.c, e := (v.d + t1) % 2 ^ 64, f := v.e, g := v.f, h := v.g }

/-- The hash value after a 128-byte block, given the round constants. -/
def ShaVars.block (ks : List Nat) (v : ShaVars) (bs : List Byte) : ShaVars :=
  let w0 := (tab 16 fun i => beNat ((bs.drop (8 * i)).take 8)).reverse
  let ws := (shaSchedule 64 w0).reverse
  let r := (ks.zip ws).foldl (fun (v : ShaVars) (x : Nat × Nat) => v.round (x.1 + x.2)) v
  { a := (v.a + r.a) % 2 ^ 64, b := (v.b + r.b) % 2 ^ 64, c := (v.c + r.c) % 2 ^ 64, d := (v.d + r.d) % 2 ^ 64
    e := (v.e + r.e) % 2 ^ 64, f := (v.f + r.f) % 2 ^ 64, g := (v.g + r.g) % 2 ^ 64, h := (v.h + r.h) % 2 ^ 64 }

/-- The hash value after `n` blocks. -/
def shaBlocks (ks : List Nat) : Nat → ShaVars → List Byte → ShaVars
  | 0, v, _ => v
  | n + 1, v, bs => shaBlocks ks n (v.block ks (bs.take 128)) (bs.drop 128)

/-- The padded message: a one bit, zeros, the length in bits as 128 bits. -/
def shaPad (bs : List Byte) : List Byte :=
  bs ++ [0x80#8] ++ List.replicate ((239 - bs.length % 128) % 128) 0#8 ++ beBytes 16 (8 * bs.length)

/-- SHA-512. -/
def sha512 (bs : List Byte) : List Byte :=
  let i (n : Nat) : Nat := shaInit (shaPrimes.getD n 2)
  let v0 : ShaVars := { a := i 0, b := i 1, c := i 2, d := i 3, e := i 4, f := i 5, g := i 6, h := i 7 }
  let m := shaPad bs
  let v := shaBlocks (shaPrimes.map shaConst) (m.length / 128) v0 m
  [v.a, v.b, v.c, v.d, v.e, v.f, v.g, v.h].flatMap (beBytes 8)

/-! ## Ed25519 -/

/-- The field's prime. -/
def edP : Nat := 2 ^ 255 - 19

/-- The group's order. -/
def edL : Nat := 2 ^ 252 + 27742317777372353535851937790883648493

/-- `x ^ e` modulo `m`, over the low `n` bits of `e`. -/
def powMod (m x e : Nat) : Nat → Nat
  | 0 => 1 % m
  | n + 1 =>
    let r := powMod m x (e / 2) n
    let q := r * r % m
    if e % 2 = 1 then q * x % m else q

/-- The inverse in the field. -/
def edInv (x : Nat) : Nat := powMod edP x (edP - 2) 255

/-- −x in the field. -/
def edNeg (x : Nat) : Nat := (edP - x % edP) % edP

/-- The curve's constant d = −121665 / 121666. -/
def edD : Nat := edNeg 121665 * edInv 121666 % edP

/-- A point in extended coordinates. -/
structure EdPoint where
  x : Nat
  y : Nat
  z : Nat
  t : Nat
  deriving DecidableEq, Repr

/-- The neutral point. -/
def edZero : EdPoint := { x := 0, y := 1, z := 1, t := 0 }

/-- The sum of two points (RFC 8032, 5.1.4). -/
def EdPoint.add (d : Nat) (p q : EdPoint) : EdPoint :=
  let a := (p.y + edNeg p.x) * (q.y + edNeg q.x) % edP
  let b := (p.y + p.x) * (q.y + q.x) % edP
  let c := p.t * 2 * d % edP * q.t % edP
  let w := p.z * 2 * q.z % edP
  let e := (b + edNeg a) % edP
  let f := (w + edNeg c) % edP
  let g := (w + c) % edP
  let h := (b + a) % edP
  { x := e * f % edP, y := g * h % edP, t := e * h % edP, z := f * g % edP }

/-- A multiple of a point, over the low `n` bits of the number. -/
def EdPoint.mul (d : Nat) (p : EdPoint) (k : Nat) : Nat → EdPoint
  | 0 => edZero
  | n + 1 =>
    let r := p.mul d (k / 2) n
    let q := r.add d r
    if k % 2 = 1 then q.add d p else q

/-- Equality of points. -/
def EdPoint.same (p q : EdPoint) : Bool := p.x * q.z % edP == q.x * p.z % edP && p.y * q.z % edP == q.y * p.z % edP

/-- The x coordinate of a y and a sign, when there is one (RFC 8032, 5.1.3). -/
def edRecover (y : Nat) (sign : Bool) : Option Nat :=
  if edP ≤ y then none
  else
    let u := (y * y + edNeg 1) % edP
    let v := (edD * (y * y % edP) + 1) % edP
    let v3 := v * v % edP * v % edP
    let v7 := v3 * v3 % edP * v % edP
    let c := u * v3 % edP * powMod edP (u * v7 % edP) ((edP - 5) / 8) 255 % edP
    let vc := v * (c * c % edP) % edP
    let r : Option Nat :=
      if vc = u then some c
      else if vc = edNeg u then some (c * powMod edP 2 ((edP - 1) / 4) 255 % edP)
      else none
    match r with
    | none => none
    | some x => if x = 0 ∧ sign = true then none else some (if (x % 2 == 1) == sign then x else edNeg x)

/-- The point of 32 bytes. -/
def edDecode (bs : List Byte) : Option EdPoint :=
  let n := leNat bs
  let y := n % 2 ^ 255
  (edRecover y (n.testBit 255)).map fun x => { x := x, y := y, z := 1, t := x * y % edP }

/-- The 32 bytes of a point. -/
def EdPoint.encode (p : EdPoint) : List Byte :=
  let i := edInv p.z
  leBytes 32 (p.y * i % edP + (p.x * i % edP % 2) * 2 ^ 255)

/-- The base point: y = 4/5, x even. -/
def edBase : EdPoint :=
  let y := 4 * edInv 5 % edP
  let x := (edRecover y false).getD 0
  { x := x, y := y, z := 1, t := x * y % edP }

/-- The secret scalar and prefix of a seed. -/
def edExpand (seed : List Byte) : Nat × List Byte :=
  let h := sha512 seed
  let a := leNat (h.take 32)
  (a % 2 ^ 254 / 8 * 8 + 2 ^ 254, h.drop 32)

/-- The public key of a seed. -/
def edPublic (seed : List Byte) : List Byte := (edBase.mul edD (edExpand seed).1 255).encode

/-- The signature of a message under a seed. -/
def edSign (seed msg : List Byte) : List Byte :=
  let (a, pre) := edExpand seed
  let pub := edPublic seed
  let r := leNat (sha512 (pre ++ msg)) % edL
  let rb := (edBase.mul edD r 255).encode
  let k := leNat (sha512 (rb ++ pub ++ msg)) % edL
  rb ++ leBytes 32 ((r + k * a) % edL)

/-- Whether a signature of a message verifies under a public key: [8][S]B = [8]R + [8][k]A (RFC 8032, 5.1.7). -/
def edVerify (pub msg sig : List Byte) : Bool :=
  let s := leNat ((sig.drop 32).take 32)
  match edDecode pub, edDecode (sig.take 32) with
  | some a, some r =>
    let k := leNat (sha512 (sig.take 32 ++ pub ++ msg)) % edL
    s < edL && ((edBase.mul edD s 255).mul edD 8 4).same ((r.mul edD 8 4).add edD ((a.mul edD k 255).mul edD 8 4))
  | _, _ => false

end Sys2Proof.Machine
end

