-- ==== Sys2Proof/Machine/Security.lean ====
section
/-! DEFINITION. Root of trust and the management mailbox (01: R30 to R42): images and their checks, keys, certificates, the report, the mailbox commands. -/

namespace Sys2Proof.Machine

/-! ## Images (R32, R33) -/

/-- The bytes of a fixed-width constant, byte 0 lowest. -/
def constBytes (n : Nat) (x : Nat) : List Byte := leBytes n x

/-- The ASCII bytes of a text. -/
def ascii (t : String) : List Byte := t.toList.map fun c => BitVec.ofNat 8 c.toNat

/-- The bytes of the image that a slot holds; the others are erased. -/
def FlashSlot.size (f : FlashSlot) : Nat := match f.st with | .empty => 0 | .loading n => n | .valid n => n

/-- The bytes of a flash slot. What an erased byte reads as is open (R35; log entry 2). -/
def FlashSlot.run (f : FlashSlot) (a n : Nat) : List Byte :=
  let k := min n (f.size - a)
  readRun f.bytes a k ++ List.replicate (n - k) Config.erasedByte

/-- A little-endian number in a flash slot. -/
def FlashSlot.num (f : FlashSlot) (a n : Nat) : Nat := leNat (f.run a n)

/-- What the ROM finds in an image it accepts: its security version and measurement. -/
structure Measured where
  svn    : BitVec 32
  fwmeas : List Byte
  deriving DecidableEq, Repr

/-- The checks of R33 on the bytes of a slot: what was measured, or the cause. -/
def Mgmt.checkImage (m : Mgmt) (f : FlashSlot) : Except Nat Measured :=
  let len := f.num 12 4
  let flags := f.num 6 2
  let k := flags % 2
  let fwkey := f.run 80 32
  let svn := f.run 8 4
  let body := f.run 256 len
  if f.num 0 4 ≠ 0x46424d4f ∨ f.num 4 2 ≠ 1 ∨ flags / 2 ≠ 0 ∨ f.num 240 16 ≠ 0 then .error 4
  else if len < 4096 ∨ len > 48 * 1048576 then .error 4
  else if k = 0 ∧ m.revoked0 = true then .error 7
  else if edVerify (constBytes 32 (Config.rootKey k).toNat) (fwkey ++ svn) (f.run 112 64) = false then .error 4
  else if edVerify fwkey (f.run 0 176) (f.run 176 64) = false then .error 4
  else if sha512 body ≠ f.run 16 64 then .error 4
  else if leNat svn < m.minSvn.toNat then .error 5
  else .ok { svn := BitVec.ofNat 32 (leNat svn), fwmeas := sha512 (f.run 0 256 ++ body) }

/-- The checks at boot: a slot that is loading or empty fails (R41). -/
def Mgmt.checkSlot (m : Mgmt) (i : Nat) : Except Nat Measured :=
  let f := vget m.slots i FlashSlot.empty
  match f.st with
  | .valid _ => m.checkImage f
  | _ => .error 4

/-- The image that the ROM starts: slot A, else slot B; when both fail, the cause of B (R34). -/
def Mgmt.choose (m : Mgmt) : Except Nat (Nat × Measured) :=
  match m.checkSlot 0 with
  | .ok x => .ok (0, x)
  | .error _ => (m.checkSlot 1).map fun x => (1, x)

/-! ## Keys and certificates (R36 to R38) -/

/-- The identity seed. -/
def idSeed : List Byte := (sha512 (ascii "OMB-ID" ++ constBytes 32 Config.deviceSecret.toNat)).take 32

/-- The alias seed of a measurement. -/
def aliasSeedOf (fwmeas : List Byte) : List Byte := (sha512 (idSeed ++ fwmeas)).take 32

/-- The identity certificate (Table 1.10), signed by the manufacturing key. -/
def identityCert : List Byte :=
  let b := edPublic idSeed ++ constBytes 16 Config.serial.toNat ++ constBytes 4 Config.mkidx.toNat ++ leBytes 4 0
  b ++ edSign (constBytes 32 Config.mfgSeed.toNat) b

/-- The alias certificate (Table 1.11). -/
def aliasCertOf (fwmeas : List Byte) (svn : BitVec 32) : List Byte :=
  let b := edPublic (aliasSeedOf fwmeas) ++ fwmeas ++ leBytes 4 svn.toNat ++ leBytes 4 0
  b ++ edSign idSeed b

/-- The running image with the values that the ROM derives from it. -/
def RunningImage.derive (r : RunningImage) : RunningImage :=
  { r with aliasSeed := aliasSeedOf r.fwmeas, aliasCert := aliasCertOf r.fwmeas r.svn }

/-- The fuse configuration record (Table 1.17). -/
def Mgmt.fuseRecord (m : Mgmt) : List Byte :=
  leBytes 4 m.recSvn.toNat ++ leBytes 1 (b2n m.revoked0) ++ leBytes 3 0 ++ constBytes 16 Config.serial.toNat ++ constBytes 4 Config.mkidx.toNat ++
    List.replicate 36 0

/-- The device configuration table of the OMB-Q9A-384 (Table 1.18). -/
def configTable : List Byte :=
  ascii "OMBC" ++ leBytes 2 1 ++ leBytes 2 256 ++ ascii "OMB-Q9A-384" ++ List.replicate 5 0 ++ constBytes 16 Config.serial.toNat ++
    List.replicate 64 0xff#8 ++ List.replicate 8 48#8 ++ leBytes 4 11720 ++ leBytes 4 0x0000ffff ++ leBytes 4 0x000000ff ++ List.replicate 132 0

/-- The attestation report over a nonce (Table 1.12). -/
def Mgmt.report (m : Mgmt) (r : RunningImage) (nonce : List Byte) : List Byte :=
  let b := ascii "OMBA" ++ leBytes 2 1 ++ leBytes 2 368 ++ nonce ++ constBytes 16 Config.serial.toNat ++ leBytes 4 m.minSvn.toNat ++ leBytes 4 r.svn.toNat ++
    constBytes 64 Config.romMeas.toNat ++ r.fwmeas ++ sha512 (m.fuseRecord ++ configTable) ++ edPublic r.aliasSeed ++ leBytes 8 m.count.toNat ++ leBytes 8 0
  b ++ edSign r.aliasSeed b

/-! ## The mailbox (R40) -/

/-- The fields of the command register. -/
def mbCode (w : Word) : Nat := fieldOf w 0 8
/-- The first argument. -/
def mbArg0 (w : Word) : Nat := fieldOf w 16 16
/-- The second argument. -/
def mbArg1 (w : Word) : Nat := fieldOf w 32 32

/-- The stages of Table 1.16. -/
def inStages (ss : List Stage) (s : State) : Bool := ss.contains s.mgmt.stage

/-- What the mailbox will publish. -/
def State.mbStart (s : State) (error : Nat) (out : List Byte) : State :=
  { s with mgmt := { s.mgmt with mbRun := some { error := error, out := out } } }

/-- A write to the command register whose code is `code`: ignored in stages Rom and Stopped, discarded while a command runs; else the command starts, and ends with error 5
in a stage its row does not list, with error 4 on a set bit that its row does not use (R40). -/
def State.mailbox (s : State) (w : Word) (code : Nat) (ss : List Stage) (unused : Bool) (f : State → State) : Host.Outcome State Fault Refusal :=
  .next <|
    if mbCode w ≠ code ∨ s.mgmt.stage = .rom ∨ s.mgmt.stage = .stopped then s
    else if s.mgmt.mbRun.isSome then { s with mgmt := { s.mgmt with mbError := 2 } }
    else if inStages ss s = false then s.mbStart 5 []
    else if fieldOf w 8 8 ≠ 0 ∨ unused = true then s.mbStart 4 []
    else f s

/-- READ_IDENTITY_CERTIFICATE. -/
def execReadIdentityCertificate (w : Word) (s : State) : Host.Outcome State Fault Refusal :=
  s.mailbox w 0x01 [.firmware, .running, .recovery] (mbArg0 w != 0 || mbArg1 w != 0) fun s => s.mbStart 0 identityCert

/-- READ_ALIAS_CERTIFICATE. -/
def execReadAliasCertificate (w : Word) (s : State) : Host.Outcome State Fault Refusal :=
  s.mailbox w 0x02 [.firmware, .running] (mbArg0 w != 0 || mbArg1 w != 0) fun s => s.mbStart 0 ((s.mgmt.image.map (·.aliasCert)).getD [])

/-- ATTEST: the nonce lies at the start of the buffer. -/
def execAttest (w : Word) (s : State) : Host.Outcome State Fault Refusal :=
  s.mailbox w 0x03 [.firmware, .running] (mbArg0 w != 0 || mbArg1 w != 0) fun s =>
    s.mbStart 0 ((s.mgmt.image.map fun r => s.mgmt.report r (s.mgmt.mbBuf.toList.take 32)).getD [])

/-- RAISE_FUSE_SVN: never lowers the counter. -/
def execRaiseFuseSvn (w : Word) (s : State) : Host.Outcome State Fault Refusal :=
  s.mailbox w 0x04 [.running] (mbArg0 w != 0 || mbArg1 w != 0) fun s =>
    let svn := (s.mgmt.image.map (·.svn)).getD 0
    let new := if s.mgmt.minSvn < svn then svn else s.mgmt.minSvn
    { s with mgmt := { s.mgmt with minSvn := new } }.mbStart 0 []

/-- READ_CONFIGURATION (R42). -/
def execReadConfiguration (w : Word) (s : State) : Host.Outcome State Fault Refusal :=
  s.mailbox w 0x05 [.firmware, .running, .recovery] (mbArg0 w != 0 || mbArg1 w != 0) fun s => s.mbStart 0 (s.mgmt.fuseRecord ++ configTable)

/-! ## The image commands (R41) -/

/-- A slot of the flash. -/
def State.flash (s : State) (i : Nat) : FlashSlot := vget s.mgmt.slots i FlashSlot.empty

/-- Replaces a slot. -/
def State.setFlash (s : State) (i : Nat) (f : FlashSlot) : State := { s with mgmt := { s.mgmt with slots := vset s.mgmt.slots i f } }

/-- A slot is loading. -/
def FlashSlot.loads (f : FlashSlot) : Bool := match f.st with | .loading _ => true | _ => false

/-- A reset of any kind erases a slot that is loading (R41). -/
def FlashSlot.onReset (f : FlashSlot) : FlashSlot := if f.loads then FlashSlot.empty else f

/-- IMAGE_BEGIN. -/
def execImageBegin (w : Word) (s : State) : Host.Outcome State Fault Refusal :=
  s.mailbox w 0x10 [.running, .recovery] (mbArg0 w / 2 != 0) fun s =>
    let slot := mbArg0 w % 2
    let n := mbArg1 w
    if s.mgmt.stage = .running ∧ (s.mgmt.image.map (·.slot)) = some slot then s.mbStart 5 []
    else if n < 256 + 4096 ∨ n > 256 + 48 * 1048576 then s.mbStart 4 []
    else
      let s := if (s.flash (1 - slot)).loads then s.setFlash (1 - slot) FlashSlot.empty else s
      (s.setFlash slot { st := .loading n, bytes := [], written := [] }).mbStart 0 []

/-- Adds a half-open range to rising disjoint ranges, joining those that touch. -/
def addRange (a b : Nat) : List (Nat × Nat) → List (Nat × Nat)
  | [] => [(a, b)]
  | (x, y) :: r => if b < x then (a, b) :: (x, y) :: r else if y < a then (x, y) :: addRange a b r else addRange (min a x) (max b y) r

/-- The slot that is loading. -/
def State.loadingSlot (s : State) : Option Nat := [0, 1].find? fun i => (s.flash i).loads

/-- The total of a slot that is loading. -/
def FlashSlot.total (f : FlashSlot) : Nat := match f.st with | .loading n => n | _ => 0

/-- IMAGE_CHUNK. -/
def execImageChunk (w : Word) (s : State) : Host.Outcome State Fault Refusal :=
  s.mailbox w 0x11 [.running, .recovery] (mbArg0 w / 1024 != 0) fun s =>
    let len := mbArg0 w % 1024 + 1
    let off := mbArg1 w
    match s.loadingSlot with
    | none => s.mbStart 4 []
    | some i =>
      let f := s.flash i
      if off + len > f.total then s.mbStart 4 []
      else
        let f := { f with bytes := writeRun f.bytes off (s.mgmt.mbBuf.toList.take len), written := addRange off (off + len) f.written }
        (s.setFlash i f).mbStart 0 []

/-- IMAGE_COMMIT. -/
def execImageCommit (w : Word) (s : State) : Host.Outcome State Fault Refusal :=
  s.mailbox w 0x12 [.running, .recovery] (mbArg0 w / 2 != 0 || mbArg1 w != 0) fun s =>
    let i := mbArg0 w % 2
    let f := s.flash i
    if f.loads = false ∨ f.written ≠ [(0, f.total)] then s.mbStart 4 []
    else
      match s.mgmt.checkImage f with
      | .ok _ => (s.setFlash i { f with st := .valid f.total }).mbStart 0 []
      | .error c => (s.setFlash i FlashSlot.empty).mbStart 3 (leBytes 1 c)

/-- The codes of Table 1.16. -/
def mbCodes : List Nat := [0x01, 0x02, 0x03, 0x04, 0x05, 0x10, 0x11, 0x12]

/-- MAILBOX_BAD_CODE (R40): error 1 also when bits [15:8] are not zero, which alone would be error 4 (DEDUCED, log entry 126). -/
def execMailboxBadCode (w : Word) (s : State) : Host.Outcome State Fault Refusal :=
  .next <|
    if mbCodes.contains (mbCode w) ∨ s.mgmt.stage = .rom ∨ s.mgmt.stage = .stopped then s
    else if s.mgmt.mbRun.isSome then { s with mgmt := { s.mgmt with mbError := 2 } }
    else s.mbStart 1 []

/-- A buffer with bytes written from its start. -/
def putBuffer (buf : Vector Byte 1024) (off : Nat) (bs : List Byte) : Vector Byte 1024 :=
  bs.zipIdx.foldl (fun b x => vset b (off + x.2) x.1) buf

/-- MAILBOX_COMMAND_DONE (R40). -/
def execMailboxCommandDone (s : State) : Host.Outcome State Fault Refusal :=
  .next <|
    match s.mgmt.mbRun with
    | none => s
    | some r =>
      { s with mgmt := { s.mgmt with
        mbRun := none, mbDone := s.mgmt.mbDone + 1, mbError := BitVec.ofNat 4 r.error, mbLen := BitVec.ofNat 16 r.out.length
        mbBuf := putBuffer s.mgmt.mbBuf 0 r.out } }

end Sys2Proof.Machine
end

