-- ==== Sys2Proof/Machine/Power.lean ====
section
/-! DEFINITION. Supply, power cap, thermal limits, islands, tolerances, reset and bring-up (01: R14 to R29; 03: R91). -/

namespace Sys2Proof.Machine

/-! ## Islands (R17 to R20) -/

/-- The exit latency of a state in ns (Table 1.3). -/
def IState.latency : IState → Nat
  | .s0 => 0 | .s1 => 2000 | .s2 => 10000 | .s3 => 200000

/-- The depth of a state. -/
def IState.depth : IState → Nat
  | .s0 => 0 | .s1 => 1 | .s2 => 2 | .s3 => 3

/-- The deepest state whose exit latency a tolerance accepts (R22). -/
def deepestWithin (e : Nat) : IState := if 200000 ≤ e then .s3 else if 10000 ≤ e then .s2 else if 2000 ≤ e then .s1 else .s0

/-- An island is a partition octet (R17). -/
def isOctet (n : Nat) : Bool := n < 384 && 1 ≤ n % 6 && n % 6 ≤ 4

/-- An island is a core's memory island. -/
def isMemIsland (n : Nat) : Bool := n < 384 && n % 6 == 5

/-- Changes an island. -/
def State.modIsland (s : State) (n : Nat) (f : Island → Island) : State := { s with islands := vset s.islands n (f (s.island n)) }

/-- Changes the controller. -/
def State.modMgmt (s : State) (f : Mgmt → Mgmt) : State := { s with mgmt := f s.mgmt }

/-- Whether an island holds runnable work (R19). -/
def State.busy (s : State) (n : Nat) : Bool :=
  if n < 384 then
    let here := s.hm.teams.filter fun t => t.core == n / 6 && t.onCore
    if n % 6 = 0 then here.any fun t => (t.warps.head?.map fun x => !x.ended).getD false || !t.cmds.isEmpty
    else if n % 6 = 5 then !here.isEmpty
    else here.any fun t => (t.warps.drop 1).any fun x => !x.ended && x.wslot / 32 == n % 6 - 1
  else s.mgmt.stage == .running

/-- R15 or R16 holds an octet at S1 (R20). -/
def State.held (s : State) (n : Nat) : Bool := isOctet n && (s.mgmt.thermHold || s.mgmt.capHeld.contains n)

/-- A state no shallower than S1 for an octet that is held. -/
def State.clampHeld (s : State) (n : Nat) (i : IState) : IState := if s.held n && i == .s0 then .s1 else i

/-! ## Supply, cap, temperature (R14 to R16) -/

/-- The controller after a cold reset: what the fuses and the flash hold stays, the last stop's cause (R27; log entry 27), and the thermal hold, which lasts until the
junction is at 95 °C (R16). -/
def Mgmt.coldReset (m : Mgmt) : Mgmt :=
  { Mgmt.reset with
    cause := m.cause, thermHold := m.thermHold, minSvn := m.minSvn, recSvn := m.minSvn, revoked0 := m.revoked0, slots := m.slots.map FlashSlot.onReset }

/-- The device as bring-up begins; memory is cleared by step 5 (R28). The model's own fields go on. -/
def State.restart (s : State) (m : Mgmt) (is : Vector Island 512) : State :=
  { State.reset with mgmt := m, islands := is, mem := { MemSys.reset with ram := s.mem.ram }, turns := s.turns, fresh := s.fresh, tick := s.tick, sent := s.sent }

/-- Every island stops, the reason is recorded and the device behaves as at a cold reset that has still to run (R14, R16; log entry 10). -/
def State.stopAll (s : State) (cause : BitVec 8) (supply : Bool) : State :=
  s.restart { s.mgmt.coldReset with stage := .stopped, cause := cause, step := none, therm := s.mgmt.therm, supplyOk := supply, count := s.mgmt.count }
    (s.islands.map fun (i : Island) => { i with st := .s3, wake := none, idle := 0 })

/-- SUPPLY_UNDERVOLTAGE (R14). -/
def execSupplyUndervoltage (s : State) : Host.Outcome State Fault Refusal := .next (s.stopAll 1 false)

/-- SUPPLY_OVERVOLTAGE (R14). -/
def execSupplyOvervoltage (s : State) : Host.Outcome State Fault Refusal := .next (s.stopAll 2 false)

/-- A cold reset: the full sequence from step 1 (Table 1.6). -/
def State.coldReset (s : State) : State := s.restart s.mgmt.coldReset (Vector.replicate 512 Island.reset)

/-- SUPPLY_RESTORED (R14): the device restarts as after a cold reset. -/
def execSupplyRestored (s : State) : Host.Outcome State Fault Refusal :=
  .next (if s.mgmt.supplyOk then s else s.coldReset)

/-- COLD_RESET (R28): the reset pin, while the supply is in range. -/
def execColdReset (s : State) : Host.Outcome State Fault Refusal := .next (if s.mgmt.supplyOk then s.coldReset else s)

/-- DEVICE_RESET (R27): from step 2, the fuses kept, the controller's counter running on and no island counter going back; a stopped device waits for a cold reset. -/
def execDeviceReset (s : State) : Host.Outcome State Fault Refusal :=
  .next <|
    if s.mgmt.stage = .stopped then s
    else s.restart { s.mgmt.coldReset with cold := false, step := some 2, count := s.mgmt.count }
      (s.islands.map fun (i : Island) => { Island.reset with count := i.count })

/-- POWER_CAP_WRITE (R15). -/
def execPowerCapWrite (v : Word) (s : State) : Host.Outcome State Fault Refusal :=
  .next (s.modMgmt fun m => { m with capW := BitVec.ofNat 16 (max 600 (min 1800 (fieldOf v 0 16))) })

/-- POWER_CAP_STEP_DOWN (R15): once the average has exceeded the cap and until it falls below it, the busy octet of lowest number in S0 moves to S1. -/
def execPowerCapStepDown (avgW : Nat) (s : State) : Host.Outcome State Fault Refusal :=
  .next <|
    let exceeds := decide (s.mgmt.capW.toNat < avgW) || (s.mgmt.capping && decide (s.mgmt.capW.toNat ≤ avgW))
    let s := s.modMgmt fun m => { m with capping := exceeds }
    if exceeds = false then s
    else
      match (List.range 384).find? (fun n => isOctet n && (s.island n).st == .s0 && !s.mgmt.capHeld.contains n && s.busy n) with
      | none => s
      | some n => (s.modIsland n fun i => { i with st := .s1 }).modMgmt fun m => { m with capHeld := m.capHeld ++ [n] }

/-- POWER_CAP_STEP_UP (R15): with the average 5 % below the cap, which it has then fallen below, the octet that was held first returns to S0. -/
def execPowerCapStepUp (avgW : Nat) (s : State) : Host.Outcome State Fault Refusal :=
  .next <|
    let s := s.modMgmt fun m => { m with capping := m.capping && decide (m.capW.toNat ≤ avgW) }
    if s.mgmt.capW.toNat * 95 < avgW * 100 then s
    else
      match s.mgmt.capHeld with
      | [] => s
      | n :: r =>
        let s := s.modMgmt fun m => { m with capHeld := r }
        if s.held n = false ∧ (s.island n).st = .s1 then s.modIsland n fun i => { i with st := .s0 } else s

/-- Applies a change to every octet. -/
def State.modOctets (s : State) (f : Nat → Island → Island) : State :=
  (List.range 384).foldl (fun s n => if isOctet n then s.modIsland n (f n) else s) s

/-- THERMAL_HOLD (R16): every octet in S0 moves to S1 and is held there. -/
def execThermalHold (s : State) : Host.Outcome State Fault Refusal :=
  .next <|
    (s.modMgmt fun m => { m with therm := true, thermHold := true }).modOctets fun _ i =>
      { i with st := if i.st = .s0 then .s1 else i.st, wake := i.wake.map fun w => if w = .s0 then .s1 else w }

/-- THERMAL_RELEASE (R16): the hold ends; a busy octet that the cap does not hold returns to S0. -/
def execThermalRelease (s : State) : Host.Outcome State Fault Refusal :=
  .next <|
    let s := s.modMgmt fun m => { m with thermHold := false }
    s.modOctets fun n i => if i.st = .s1 ∧ s.busy n = true ∧ s.held n = false then { i with st := .s0 } else i

/-- THERMAL_STOP (R16). -/
def execThermalStop (s : State) : Host.Outcome State Fault Refusal := .next (s.stopAll 3 s.mgmt.supplyOk)

/-- THERM_CLEAR (R29). -/
def execThermClear (s : State) : Host.Outcome State Fault Refusal := .next (s.modMgmt fun m => { m with therm := false })

/-! ## Tolerance (R22) -/

/-- The class of a task (Table of the task record). -/
def Task.cls (t : Task) : Nat := fieldOf (vget t.record 6 0) 20 3

/-- A record of a class is queued, or a team of it is resident (R22). -/
def State.classPresent (s : State) (c : Nat) : Bool :=
  s.hm.tasks.any fun t => t.cls == c &&
    (t.st == .queued || t.st == .leaseWait || t.st == .partially || s.hm.teams.any fun u => u.task == t.id && u.onCore)

/-- The effective tolerance. -/
def State.tolerance (s : State) : Nat :=
  (List.range 8).foldl (fun e c => if s.classPresent c then min e (vget s.mgmt.clsTol c 0).toNat else e) s.mgmt.devTol.toNat

/-- TOLERANCE_RECOMPUTE (R22, R23): the new E, and an island that it no longer permits leaves towards the deepest state that it does. -/
def execToleranceRecompute (s : State) : Host.Outcome State Fault Refusal :=
  .next <|
    let e := s.tolerance
    let s := s.modMgmt fun m => { m with eff := BitVec.ofNat 32 e }
    (List.range 512).foldl (fun s n =>
      let i := s.island n
      let t := s.clampHeld n (deepestWithin e)
      if e < i.st.latency ∧ i.wake = none ∧ t.depth < i.st.depth ∧ s.mgmt.stage = .running then s.modIsland n fun i => { i with wake := some t } else s) s

/-- A region of shared memory whose contents are lost: bytes that nothing constrains (R19; a free value, log entry 2). -/
def Ram.lost (n size : Nat) : Ram :=
  { cells := (List.range size).filterMap fun i => if Config.lostByte n i = 0 then none else some (i, Config.lostByte n i), poison := [] }

/-- A block without the contents of its region on a core. -/
def Block.loseRegion (b : Block) (core n : Nat) : Block :=
  { b with shared := b.shared.zipIdx.map fun x => if b.cores[x.2]? = some core then Ram.lost n (b.shm * 1024) else x.1 }

/-- The contents of an island are lost (R18, R19): of a memory island, the L1, its dirty sectors written back first, the regions of shared memory on the core, and the translations and lines of code that
the core has cached; the Tender's island loses those too, and the slice's its lines, whose bytes HBM4E has (log entry 125). -/
def State.dropIsland (s : State) (n : Nat) : State :=
  let core := n / 6
  if isMemIsland n then
    let (k, s) := (s.writeBackAll core).takeFree
    let s := s.modCore core fun c => { c with l1 := [], tlb := [], walks := [], codes := [] }
    { s with hm := { s.hm with blocks := s.hm.blocks.map fun b => if s.hasRegion b core then b.loseRegion core k else b } }
  else if n < 384 then (if n % 6 = 0 then s.modCore core fun c => { c with tlb := [], walks := [], codes := [] } else s)
  else s.modSlice (n - 384) fun x => { x with lines := [] }

/-- ISLAND_IDLE_ENTRY (R19, R22): in stage Running, in which the tolerances govern the islands (log entry 125), an island without runnable work for 4 × L ns enters the deepest state that E
permits. -/
def execIslandIdleEntry (n : Nat) (s : State) : Host.Outcome State Fault Refusal :=
  .next <|
    let i := s.island n
    let t := deepestWithin s.mgmt.eff.toNat
    if 512 ≤ n ∨ s.mgmt.stage ≠ .running ∨ s.busy n ∨ i.wake.isSome ∨ t.depth ≤ i.st.depth ∨ i.idle < 4 * t.latency then s
    else
      let s := if t = .s3 then s.dropIsland n else s
      s.modIsland n fun i => { i with st := t }

/-- An island that a request reaches begins to wake, if it is not awake or waking already (R20). -/
def State.wakeIsland (s : State) (n : Nat) : State :=
  let i := s.island n
  let t := s.clampHeld n .s0
  if 512 ≤ n ∨ i.wake.isSome ∨ i.st.depth ≤ t.depth ∨ s.mgmt.stage ≠ .running then s
  else s.modIsland n fun i => { i with wake := some t }

/-- ISLAND_WAKE (R20): a request reaches an island that is not in S0; an octet that is held wakes only to S1. -/
def execIslandWake (n : Nat) (s : State) : Host.Outcome State Fault Refusal := .next (s.wakeIsland n)

/-- An island on which a request waits no longer: S0, or S1 for an octet that is held (R20). -/
def State.islandAwake (s : State) (n : Nat) : Bool := (s.island n).st == .s0 || (s.held n && (s.island n).st == .s1)

/-- An island that has just held runnable work: its idle time starts again, and one in S1 or deeper wakes, S1 with work being for R15 and R16 alone (R19, R20, R22). -/
def State.rouse (s : State) (n : Nat) : State :=
  if s.busy n = false then s
  else
    let s := if (s.island n).idle = 0 then s else s.modIsland n fun i => { i with idle := 0 }
    s.wakeIsland n

/-- The islands of the cores that hold teams are roused where they have work. -/
def State.rouseCores (s : State) : State :=
  ((s.hm.teams.map (·.core)).eraseDups).foldl (fun s c => (tab 6 (6 * c + ·)).foldl State.rouse s) s

/-- The islands that a warp's instruction needs: that of its slice of the core, and the core's memory island (R17, R20). -/
def islandsOf (c : Ctx) : List Nat := [6 * c.t.core + (if c.w.idx = 0 then 0 else c.x.wslot / 32 + 1), 6 * c.t.core + 5]

/-- An island's counter as it leaves S3: from its core's memory island or the controller, plus 64, never going back (R26). -/
def State.wokenCount (s : State) (n : Nat) : BitVec 64 :=
  let src := if n < 384 ∧ isMemIsland n = false then s.memCount (n / 6) else s.mgmt.count
  let old := (s.island n).count
  if src + 64 < old then old + 1 else src + 64

/-- ISLAND_WAKE_COMPLETE (R20, R26). -/
def execIslandWakeComplete (n : Nat) (s : State) : Host.Outcome State Fault Refusal :=
  .next <|
    let i := s.island n
    match i.wake with
    | none => s
    | some t =>
      let c := if i.st = .s3 then s.wokenCount n else i.count
      s.modIsland n fun i => { i with st := s.clampHeld n t, wake := none, count := c }

/-! ## Bring-up (R28) -/

/-- An island as bring-up powers it, to S0 or, an octet that R16 holds, to S1: at a cold reset its counter starts from the controller's, after a device reset it is reloaded (R26, R27). -/
def State.powerIsland (s : State) (n : Nat) : State :=
  let c := if s.mgmt.cold then s.mgmt.count else s.wokenCount n
  s.modIsland n fun i => { i with st := s.clampHeld n .s0, wake := none, count := c, idle := 0 }

/-- A step of bring-up has failed: stage Recovery with the cause (R28). -/
def State.recover (s : State) (cause : Nat) : State :=
  s.modMgmt fun m => { m with stage := .recovery, step := none, cause := BitVec.ofNat 8 cause }

/-- Bring-up goes on to a step. -/
def State.goStep (s : State) (n : Nat) : State := s.modMgmt fun m => { m with step := some n }

/-- What a step of Table 1.7 does. -/
def State.bringup (s : State) (n : Nat) (hbmOk : Bool) : State :=
  match n with
  | 1 => s.goStep 2
  | 2 => s.goStep 3
  | 3 =>
    (match s.mgmt.choose with
    | .error c => s.recover c
    | .ok (slot, m) =>
      (s.modMgmt fun g => { g with image := some { slot := slot, svn := m.svn, fwmeas := m.fwmeas, aliasSeed := [], aliasCert := [] } }).goStep 4)
  | 4 => (s.modMgmt fun g => { g with image := g.image.map RunningImage.derive, stage := .firmware }).goStep 5
  | 5 => if hbmOk then { s with mem := { s.mem with ram := Ram.zero } }.goStep 6 else s.recover 6
  | 6 =>
    let s := (tab 128 (384 + ·)).foldl State.powerIsland s
    { s with slices := Vector.replicate 128 Slice.reset, mem := { s.mem with tide := none, tideLevel := false } }.goStep 7
  | 7 =>
    let mems := (List.range 64).map fun c => 6 * c + 5
    let s := ((mems ++ (List.range 384).filter fun n => !isMemIsland n)).foldl State.powerIsland s
    { s with cores := Vector.replicate 64 Core.reset }.goStep 8
  | _ => s.modMgmt fun m => { m with stage := .running, step := none }

/-- BRINGUP_STEP (R28): the next step begins; `hbmOk` says whether the stacks train. -/
def execBringupStep (hbmOk : Bool) (s : State) : Host.Outcome State Fault Refusal :=
  .next <|
    match s.mgmt.step with
    | none => s
    | some n => s.bringup n hbmOk

end Sys2Proof.Machine
end

