-- ==== Sys2Proof/Machine/HostIf.lean ====
section
/-! DEFINITION. The host interface (03: R71 to R92; 04: R93 to R99): register writes, reading and validating records, leases, messages, function-level resets. -/

namespace Sys2Proof.Machine

/-! ## Fields of a record (Table 3.7) -/

/-- A little-endian field of a run of bytes. -/
def bytesFld (b : List Byte) (o n : Nat) : Nat := leNat ((b.drop o).take n)

/-- A field of a record's quadword. -/
def recFld (r : Vector Word 8) (q lo w : Nat) : Nat := fieldOf (vget r q 0) lo w

/-- The reserved fields: quadword, lowest bit, width. -/
def recReserved : List (Nat × Nat × Nat) :=
  [(0, 52, 4), (0, 0, 7), (2, 52, 12), (3, 52, 12), (3, 0, 7), (4, 48, 16), (5, 52, 12), (5, 0, 6), (6, 25, 7), (6, 12, 4), (7, 32, 16)]

/-- A record from its 64 bytes. -/
def recOf (b : List Byte) : Vector Word 8 := Vector.ofFn fun (i : Fin 8) => word (bytesFld b (8 * i.val) 8)

/-! ## Room on cores (R89) -/

/-- What a team needs of a core: vector registers, execute warps, queue entries. -/
structure Need where
  regs    : Nat
  warps   : Nat
  entries : Nat
  deriving DecidableEq, Repr

/-- What is used of a core: vector registers, execute warps, access warps, queue entries, the blocks whose regions it holds, and their size in KiB. -/
structure Use where
  regs    : Nat
  warps   : Nat
  access  : Nat
  entries : Nat
  blocks  : List Nat
  kib     : Nat
  deriving DecidableEq, Repr

/-- An empty core. -/
def Use.none : Use := { regs := 0, warps := 0, access := 0, entries := 0, blocks := [], kib := 0 }

/-- A core has room for a team of a block (R89): regions within 15 ways of 128 KiB (R124). -/
def Use.room (u : Use) (n : Need) (block shm : Nat) : Bool :=
  u.regs + n.regs ≤ 16384 && u.warps + n.warps ≤ 128 && u.access + 1 ≤ 64 && u.entries + n.entries ≤ 4096 &&
    (u.blocks.contains block || (u.kib + shm + 127) / 128 ≤ 15)

/-- A core with a team of a block added. -/
def Use.add (u : Use) (n : Need) (block shm : Nat) : Use :=
  { regs := u.regs + n.regs, warps := u.warps + n.warps, access := u.access + 1, entries := u.entries + n.entries
    blocks := if u.blocks.contains block then u.blocks else block :: u.blocks
    kib := if u.blocks.contains block then u.kib else u.kib + shm }

/-- Places teams in order (R89, R103): each on the first core of the set with room, else the first available one, which joins the set. The cores by team, and the set. -/
def placeTeams (avail : List Nat) (block shm : Nat) : (Nat → Use) → List Nat → List Need → Option (List Nat × List Nat)
  | _, set, [] => some ([], set)
  | use, set, n :: ns =>
    let ok (c : Nat) : Bool := (use c).room n block shm
    match (set.find? ok).orElse fun _ => (avail.filter fun c => !set.contains c).find? ok with
    | Option.none => Option.none
    | some c =>
      let set := if set.contains c then set else set ++ [c]
      let use' (k : Nat) : Use := if k = c then (use k).add n block shm else use k
      (placeTeams avail block shm use' set ns).map fun x => (c :: x.1, x.2)

/-- What a team of a record needs. -/
def recNeed (r : Vector Word 8) (queues : List Word) : Need :=
  let xw := recFld r 4 22 2 + 1
  { regs := 32 * recFld r 4 24 6 * xw, warps := xw, entries := (queues.map fun q => fieldOf q 0 9).sum }

/-- Whether a block fits on empty cores (Table 3.12, cause 8). -/
def fitsEmpty (r : Vector Word 8) (queues : List Word) : Bool :=
  match placeTeams (List.range 64) 0 (recFld r 4 32 16) (fun _ => Use.none) [] (List.replicate (recFld r 4 16 6 + 1) (recNeed r queues)) with
  | some (_, set) => set.length ≤ recFld r 4 30 2 + 1
  | Option.none => false

/-! ## Validation (R78 to R84, R88) -/

/-- What a run of reads has so far. -/
inductive Gots where
  | bytes (bs : List (List Byte))
  | fail
  | wait (s : State)
  deriving DecidableEq, Repr

/-- Several reads by the Harbourmaster, in order; a read of no bytes is none. -/
def State.hmGets (s : State) (r : Reader) (asid : BitVec 12) : List (Nat × Nat) → Gots
  | [] => .bytes []
  | (va, n) :: rest =>
    match (if n = 0 then HmGot.bytes [] else s.hmGet r asid va n) with
    | .fail => .fail
    | .wait s => .wait s
    | .bytes b =>
      match s.hmGets r asid rest with
      | .bytes bs => .bytes (b :: bs)
      | .fail => .fail
      | .wait s => .wait s

/-- A demand range or a lease's range (R83). -/
def rangeOk (r : Nat × Nat) : Bool := r.1 % 65536 == 0 && 0 < r.2 && r.2 % 65536 == 0 && r.1 + r.2 ≤ 2 ^ 52

/-- A queue descriptor follows R81. -/
def queueOk (xw : Nat) (d : Word) : Bool :=
  let depth := fieldOf d 0 9
  let dir := fieldOf d 9 2
  let prod := fieldOf d 11 3
  2 ≤ depth && depth ≤ 256 && dir != 3 && (if dir = 2 then prod ≤ 4 else prod == 0) && fieldOf d 14 2 < xw && fieldOf d 16 48 == 0

/-- A group entry of a launch table (R82). -/
def groupOf (b : List Byte) : GroupDesc :=
  { gnum := bytesFld b 18 1, xmask := BitVec.ofNat 64 (bytesFld b 0 8), amask := BitVec.ofNat 64 (bytesFld b 8 8), emask := BitVec.ofNat 16 (bytesFld b 16 2) }

/-- No member of any kind belongs to more than four groups (R82). -/
def membersOk {n : Nat} (ms : List (BitVec n)) : Bool := (List.range n).all fun i => (ms.filter fun m => m.getLsbD i).length ≤ 4

/-- The group entries follow R82. -/
def groupsOk (xw tpb : Nat) (raw : List (List Byte)) : Bool :=
  let gs := raw.map groupOf
  raw.all (fun b => bytesFld b 19 13 == 0) &&
    gs.all (fun g => g.xmask.toNat < 2 ^ (tpb * xw) && g.amask.toNat < 2 ^ tpb && g.emask.toNat < 2 ^ 12) &&
    (gs.map (·.gnum)).Nodup && membersOk (gs.map (·.xmask)) && membersOk (gs.map (·.amask)) && membersOk (gs.map (·.emask))

/-- The consecutive pieces of `n` bytes. -/
def pieces (b : List Byte) (n k : Nat) : List (List Byte) := tab k fun i => (b.drop (n * i)).take n

/-- A pair of 8-byte numbers. -/
def pairOf (b : List Byte) : Nat × Nat := (bytesFld b 0 8, bytesFld b 8 8)

/-- The descriptor of the lease that a record names: there is none of its number; the lease is in use, so that its descriptor is not read (R85); its bytes. -/
inductive LeaseDesc where
  | absent
  | inUse
  | bytes (b : List Byte)
  deriving DecidableEq, Repr

/-- What the reads of a record's structures gave: the header, the entry words, the launch table's header and arrays, the lease descriptor and its items. -/
structure RecReads where
  head  : List Byte
  words : List (Nat × Word)
  table : Option (List Byte)
  qs    : List Byte
  dem   : List Byte
  grp   : List Byte
  desc  : LeaseDesc
  items : List Byte
  deriving DecidableEq, Repr

/-- The entry offsets that a record's header gives (R78): xentry, aentry, and the handlers that are not 0. -/
def entryOffs (r : Vector Word 8) (h : List Byte) : List Nat :=
  [recFld r 1 32 32, recFld r 1 0 32] ++ [bytesFld h 24 4, bytesFld h 28 4].filter (· != 0)

/-- The entry offsets that are read (R88). -/
def readOffs (r : Vector Word 8) (h : List Byte) : List Nat := (entryOffs r h).filter fun o => o % 8 == 0 && o < bytesFld h 8 8

/-- The launch table's address, 0 for none (R80). -/
def tableVa (r : Vector Word 8) (h : List Byte) : Nat :=
  if recFld r 5 6 46 ≠ 0 then recFld r 5 6 46 * 64 else if bytesFld h 32 4 ≠ 0 then recFld r 0 7 45 * 128 + bytesFld h 32 4 else 0

/-- How the reads went. -/
inductive RecGot where
  | ok (x : RecReads)
  | fail
  | wait (s : State)
  deriving DecidableEq, Repr

/-- The counts of a launch table, those that R80 forbids as 0: their arrays are not read. -/
def tableCounts (t : List Byte) : Nat × Nat × Nat :=
  let nq := bytesFld t 1 1
  let ngrp := bytesFld t 2 2
  let ndem := bytesFld t 4 1
  (if nq ≤ 64 then nq else 0, if ndem ≤ 64 then ndem else 0, if ngrp ≤ 256 then ngrp else 0)

/-- A lease that is not inactive. -/
def State.lease? (s : State) (area id : Nat) : Option Lease := s.hm.leases.find? fun l => l.area == area && l.id == id

/-- The lease descriptor that is read for a record: the lease is one of the area's and not in use (R85; log entry 88). -/
def State.readsDesc (s : State) (area : Nat) (r : Vector Word 8) : Bool :=
  let id := recFld r 6 0 12
  decide (id ≠ 0 ∧ id ≤ (s.area area).leaseCnt.toNat) && (s.lease? area id).isNone

/-- The second reads of R88, after the header: the entry words, the launch table's header, the lease descriptor. -/
def State.recReads2 (s : State) (area : Nat) (r : Vector Word 8) (h : List Byte) : List (Nat × Nat) :=
  let lt := tableVa r h
  (readOffs r h).map (fun o => (recFld r 0 7 45 * 128 + o, 8)) ++
    [(lt, if lt = 0 then 0 else 64), ((s.area area).leaseVa.toNat * 64 + 64 * recFld r 6 0 12, if s.readsDesc area r then 64 else 0)]

/-- The third: the arrays of the launch table, and the items of the lease descriptor (log entry 114). -/
def State.recReads3 (s : State) (area : Nat) (r : Vector Word 8) (h t d : List Byte) : List (Nat × Nat) :=
  let lt := tableVa r h
  let n := tableCounts t
  let nr := bytesFld d 2 2
  let ia := bytesFld d 8 8
  [(lt + 0x40, 8 * n.1), (lt + 0x240, 16 * n.2.1), (lt + 0x640, 32 * n.2.2), (ia, if s.readsDesc area r = true ∧ 1 ≤ nr ∧ nr ≤ 256 ∧ ia % 16 = 0 then 16 * nr else 0)]

/-- The reads of R88: the header, the entry words, the launch table, the lease descriptor, unless the lease is in use (R85; log entry 88), and its items (log entry 114). -/
def State.readRecord (s : State) (rd : Reader) (area : Nat) (asid : BitVec 12) (r : Vector Word 8) : RecGot :=
  match s.hmGets rd asid [(recFld r 0 7 45 * 128, 128)] with
  | .fail => .fail
  | .wait s => .wait s
  | .bytes hs =>
    let h := hs.headD []
    let offs := readOffs r h
    let id := recFld r 6 0 12
    let known := decide (id ≠ 0 ∧ id ≤ (s.area area).leaseCnt.toNat)
    match s.hmGets rd asid (s.recReads2 area r h) with
    | .fail => .fail
    | .wait s => .wait s
    | .bytes bs =>
      let t := bs.getD offs.length []
      let d := bs.getD (offs.length + 1) []
      match s.hmGets rd asid (s.recReads3 area r h t d) with
      | .fail => .fail
      | .wait s => .wait s
      | .bytes as =>
        .ok {
          head := h, words := offs.zip (bs.map fun b => word (leNat b)), table := if tableVa r h = 0 then none else some t
          qs := as.getD 0 [], dem := as.getD 1 [], grp := as.getD 2 []
          desc := if s.readsDesc area r then .bytes d else if known then .inUse else .absent, items := as.getD 3 [] }

/-- What the validation of a record has read, of whatever outcome, has been served at the home slices (R88, R129). -/
def State.recordServed (s : State) (rd : Reader) (area : Nat) (asid : BitVec 12) (r : Vector Word 8) : State :=
  let code := recFld r 0 7 45 * 128
  if recFld r 0 56 8 ≠ 1 ∨ (recReserved.any fun f => recFld r f.1 f.2.1 f.2.2 != 0) = true then s
  else
    match s.hmServedAll rd asid [(code, 128)], s.hmGets rd asid [(code, 128)] with
    | (s', true), .bytes hs =>
      let l2 := s.recReads2 area r (hs.headD [])
      (match s'.hmServedAll rd asid l2, s.hmGets rd asid l2 with
      | (s', true), .bytes bs =>
        let n := (readOffs r (hs.headD [])).length
        (s'.hmServedAll rd asid (s.recReads3 area r (hs.headD []) (bs.getD n []) (bs.getD (n + 1) []))).1
      | (s', _), _ => s')
    | (s', _), _ => s'

/-- The header and the entries follow R78 (cause 4), but for the place and the size of the liveness table, which refuse no record (R79; log entry 86). -/
def headerOk (r : Vector Word 8) (x : RecReads) : Bool :=
  let h := x.head
  h.take 4 == [0x4f#8, 0x4d#8, 0x42#8, 0x4b#8] && bytesFld h 4 2 == 1 && bytesFld h 6 2 == 0 && bytesFld h 8 8 % 8 == 0 && 128 ≤ bytesFld h 8 8 &&
    bytesFld h 8 8 ≤ 2 ^ 32 && bytesFld h 32 4 % 64 == 0 && bytesFld h 36 92 == 0 &&
    (entryOffs r h).all fun o => ((x.words.find? (·.1 == o)).map fun w => fieldOf w.2 60 4 == 15).getD false

/-- The limits of cause 5. -/
def limitsOk (r : Vector Word 8) : Bool :=
  1 ≤ recFld r 4 0 16 && 1 ≤ recFld r 4 24 6 && recFld r 4 24 6 ≤ 48 && recFld r 4 32 16 ≤ 1920 && (recFld r 4 16 6 + 1) * (recFld r 4 22 2 + 1) ≤ 64

/-- The queue descriptors of a launch table. -/
def RecReads.queues (x : RecReads) : List Word := (pieces x.qs 8 (x.qs.length / 8)).map fun b => word (leNat b)

/-- The group entries of a launch table. -/
def RecReads.groups (x : RecReads) : List (List Byte) := pieces x.grp 32 (x.grp.length / 32)

/-- The demand ranges of a launch table. -/
def RecReads.demand (x : RecReads) : List (Nat × Nat) := (pieces x.dem 16 (x.dem.length / 16)).map pairOf

/-- The ranges of a lease descriptor. -/
def RecReads.ranges (x : RecReads) : List (Nat × Nat) := (pieces x.items 16 (x.items.length / 16)).map pairOf

/-- The launch table follows R80 to R83 (cause 6). -/
def launchOk (r : Vector Word 8) (x : RecReads) : Bool :=
  match x.table with
  | none => true
  | some t =>
    let xw := recFld r 4 22 2 + 1
    bytesFld t 0 1 == 1 && bytesFld t 1 1 ≤ 64 && bytesFld t 2 2 ≤ 256 && bytesFld t 4 1 ≤ 64 && bytesFld t 5 59 == 0 &&
      x.queues.all (queueOk xw) && (x.queues.map fun q => fieldOf q 0 9).sum ≤ 4096 && x.demand.all rangeOk &&
      groupsOk xw (recFld r 4 16 6 + 1) x.groups

/-- Two ranges do not overlap. -/
def apart (a b : Nat × Nat) : Bool := a.1 + a.2 ≤ b.1 || b.1 + b.2 ≤ a.1

/-- The lease's number is one of the area's and its descriptor, when it is read, follows R84 (cause 7). -/
def leaseOk (r : Vector Word 8) (x : RecReads) : Bool :=
  if recFld r 6 0 12 = 0 then true
  else
    match x.desc with
    | .absent => false
    | .inUse => true
    | .bytes d =>
      bytesFld d 0 2 % 2 == 1 && bytesFld d 0 2 < 32 && 1 ≤ bytesFld d 2 2 && bytesFld d 2 2 ≤ 256 && bytesFld d 4 4 == 0 && bytesFld d 8 8 % 16 == 0 &&
        bytesFld d 16 48 == 0 && x.ranges.all rangeOk && x.ranges.Pairwise fun a b => apart a b = true

/-- What validation kept of a record's structures. -/
def RecReads.launch (x : RecReads) : Launch :=
  { csize := bytesFld x.head 8 8, liveOff := bytesFld x.head 16 4, liveCnt := bytesFld x.head 20 4, traph := bytesFld x.head 24 4
    parkh := bytesFld x.head 28 4, queues := x.queues, groups := x.groups.map groupOf, demand := x.demand }

/-- The outcome of R88 for a record. -/
inductive Checked where
  | noop
  | refused (cause : Nat)
  | ok (x : RecReads)
  | wait (s : State)
  deriving DecidableEq, Repr

/-- VALIDATION (R88, Table 3.12): the first failing cause in the table's order. -/
def State.checkRecord (s : State) (rd : Reader) (area : Nat) (asid : BitVec 12) (r : Vector Word 8) : Checked :=
  let kind := recFld r 0 56 8
  if kind = 0 then .noop
  else if kind ≠ 1 then .refused 1
  else if recReserved.any fun f => recFld r f.1 f.2.1 f.2.2 != 0 then .refused 2
  else
    match s.readRecord rd area asid r with
    | .wait s => .wait s
    | .fail => .refused 3
    | .ok x =>
      if headerOk r x = false then .refused 4
      else if limitsOk r = false then .refused 5
      else if launchOk r x = false then .refused 6
      else if leaseOk r x = false then .refused 7
      else if fitsEmpty r x.queues = false then .refused 8
      else .ok x

/-! ## Tasks (R94 to R99) -/

/-- A launch of nothing, for a record that is refused. -/
def Launch.none : Launch := { csize := 0, liveOff := 0, liveCnt := 0, traph := 0, parkh := 0, queues := [], groups := [], demand := [] }

/-- A task for a record (R76, R95, R99, R104). -/
def State.newTask (s : State) (r : Vector Word 8) (area : Nat) (index : BitVec 32) (asid : BitVec 12) (spawned : Bool) (l : Launch) : Task :=
  { id := s.hm.nextTask, record := r, area := area, index := index, asid := asid, spawned := spawned, launch := l
    level := min (recFld r 6 16 4) (s.area area).pcap.toNat, since := s.mgmt.count, accepted := s.mgmt.count, slot := none, st := .queued, next := 0, back := []
    everPlaced := false, killed := false, fault := Option.none, retired := 0, teams := 0, lastTime := 0 }

/-- The capacity of the record queues (R93, R94). -/
def State.recCapacity (s : State) : Nat :=
  let n := min s.hm.recSize.toNat 8
  if n = 0 ∨ isHbm (s.hm.recBase.toNat * 2 ^ 21 + 64 * 2 ^ (n + 12) - 1) = false then 4096 else 4096 + 2 ^ (n + 12)

/-- Whether a record finds a slot: within the spawn share, or outside it (R94, R96). -/
def State.recRoom (s : State) (spawned : Bool) : Bool :=
  let held := (s.hm.tasks.filter fun t => t.spawned == spawned).length
  held < if spawned then s.recCapacity / 16 else s.recCapacity - s.recCapacity / 16

/-- The place of the next accepted record: one of the 4,096 slots on the chip, or else the lowest free slot of the record store (R94). -/
def State.recSlot (s : State) : Option Nat :=
  let used := s.hm.tasks.filterMap (·.slot)
  if (s.hm.tasks.filter fun t => t.slot.isNone).length < 4096 then none else (List.range (used.length + 1)).find? fun i => !used.contains i

/-- The address of a slot of the record store (R93). -/
def State.slotAddr (s : State) (i : Nat) : Nat := s.hm.recBase.toNat * 2 ^ 21 + 64 * i

/-- The bytes of a record. -/
def recBytes (r : Vector Word 8) : List Byte := r.toList.flatMap fun x => leBytes 8 x.toNat

/-- A record that spills is written to its slot of the record store. -/
def State.spill (s : State) (t : Task) : State :=
  match t.slot with
  | none => s
  | some i => s.homeWrite (cellsAt (s.slotAddr i) (recBytes t.record))

/-- A task's record stands where it was put (R93): on the chip, or unchanged in the record store. -/
def State.recordKept (s : State) (t : Task) : Bool :=
  match t.slot with
  | none => true
  | some i => decide (i < s.recCapacity - 4096) && s.mem.ram.bytes (s.slotAddr i) 64 == recBytes t.record && !s.mem.ram.poisonedIn (s.slotAddr i) 64

/-- A record that never becomes a task ends (R76, R88, R98): its join, unless it is a no-op, then its completion entry. -/
def State.endRecord (s : State) (t : Task) (status cause : Nat) : State :=
  let s := if recFld t.record 0 56 8 = 0 then s else s.joinUpdate t
  if (vget t.record 6 0).getLsbD 24 then s
  else s.cplFinish t.area { bytes := cplEntry (recFld t.record 7 48 16) status cause t.index 0 0 0, now := true }

/-- The status 5 entry of a task for a page (R85). -/
def State.leaseWait (s : State) (t : Task) (page : Nat) : State :=
  if (vget t.record 6 0).getLsbD 24 then s
  else s.cplFinish t.area { bytes := cplEntry (recFld t.record 7 48 16) 5 0 t.index (word page) 0 0, now := false }

/-- Replaces a lease. -/
def State.putLease (s : State) (l : Lease) : State :=
  { s with hm := { s.hm with leases := (s.hm.leases.filter fun x => !(x.area == l.area && x.id == l.id)) ++ [l] } }

/-- The address of page `n` of a lease's ranges. -/
def leasePage : List (Nat × Nat) → Nat → Option Nat
  | [], _ => none
  | r :: rs, n => if n < r.2 / 65536 then some (r.1 + 65536 * n) else leasePage rs (n - r.2 / 65536)

/-- A lease as its activation begins (R84, R85). -/
def newLease (t : Task) (x : RecReads) : Lease :=
  let f := match x.desc with | .bytes d => bytesFld d 0 2 | _ => 0
  { area := t.area, id := t.lease, st := .walking, ranges := x.ranges, rread := bitsOf f 1 1 == 1, rwrite := bitsOf f 2 1 == 1
    ratomic := bitsOf f 3 1 == 1, hold := bitsOf f 4 1 == 1, relPend := false, pinned := 0, told := [], asid := t.asid }

/-- A record is accepted (R94, R95); one that names a lease uses it (R85, R118). -/
def State.accept (s : State) (t : Task) (x : RecReads) : State :=
  let t := { t with slot := s.recSlot }
  let s := s.spill t
  let put (s : State) (st : TaskState) : State :=
    { s with hm := { s.hm with tasks := s.hm.tasks ++ [{ t with st := st }], nextTask := s.hm.nextTask + 1 } }
  if t.lease = 0 then put s .queued
  else
    match s.lease? t.area t.lease with
    | none => put (s.putLease (newLease t x)) .leaseWait
    | some l =>
      match l.st with
      | .active => put s .queued
      | .held => put (s.putLease { l with st := .active }) .queued
      | .walking => put s .leaseWait
      | .waiting =>
        let s := put (s.putLease { l with told := l.told ++ [t.id] }) .leaseWait
        s.leaseWait t ((leasePage l.ranges l.pinned).getD 0)

/-! ## Reading records (R72 to R74) -/

/-- An area halts (R73). -/
def State.haltArea (s : State) (a : Nat) (err : BitVec 8) : State := s.modArea a fun x => { x with halted := true, err := err }

/-- A record leaves its ring slot. -/
def State.nextRecord (s : State) (a : Nat) : State := (s.doneReading (.area a)).modArea a fun x => { x with subHead := x.subHead + 1 }

/-- The ring slot of the record at sub_head (R72). -/
def Area.recordVa (x : Area) : Nat := x.subVa.toNat * 4096 + 64 * (x.subHead.toNat % ringSize x.subSize.toNat)

/-- RECORD_FETCH (R72, R73, R76, R88, R95, R96): the record at sub_head is read, checked, and accepted, refused or completed; with no slot free it waits, unread. -/
def execRecordFetch (a : Nat) (s : State) : Host.Outcome State Fault Refusal :=
  .next <|
    let x := s.area a
    if s.mgmt.stage ≠ .running ∨ x.en = false ∨ x.halted ∨ x.subHead = x.subTail ∨ 64 ≤ x.kept.length then s
    else
      match s.hmGet (.area a) x.asid x.recordVa 64 with
      | .wait s => s
      | .fail => ((s.hmServed x.asid x.recordVa 64).doneReading (.area a)).haltArea a 2
      | .bytes b =>
        let r := recOf b
        let t := s.newTask r a x.subHead x.asid false Launch.none
        let done (s : State) : State := ((s.hmServed x.asid x.recordVa 64).recordServed (.area a) a x.asid r).nextRecord a
        match s.checkRecord (.area a) a x.asid r with
        | .wait s => s
        | .noop => (done s).endRecord t 0 0
        | .refused c => (done s).endRecord t 1 c
        | .ok y => if s.recRoom false then (done s).accept { t with launch := y.launch } y else s

/-! ## Leases (R85, R86, R118) -/

/-- The tasks that wait for a lease. -/
def State.waitingOn (s : State) (l : Lease) : List Task := s.hm.tasks.filter fun t => t.area == l.area && t.lease == l.id && t.st == .leaseWait

/-- LEASE_WALK (R85): the next page is translated and pinned; after the last the lease is Active and its tasks are Queued; at a page that cannot be pinned the walk stops. -/
def execLeaseWalk (area id : Nat) (s : State) : Host.Outcome State Fault Refusal :=
  .next <|
    match s.lease? area id with
    | none => s
    | some l =>
      if l.st ≠ .walking then s
      else
        let finish (s : State) (l : Lease) : State :=
          if (leasePage l.ranges l.pinned).isSome then s.putLease l
          else
            let now := s.mgmt.count
            let ids := (s.waitingOn l).map (·.id)
            let s := s.putLease { l with st := .active }
            { s with hm := { s.hm with
              tasks := s.hm.tasks.map fun (t : Task) => if ids.contains t.id then { t with st := .queued, since := now } else t } }.settleLease l.area l.id
        match leasePage l.ranges l.pinned with
        | none => finish s l
        | some va =>
          let s := s.served (s.rootReads l.asid va)
          let pinnable := match s.walk l.asid va with | .leaf f big _ _ => isHbm (leafPa f big va) || isAperture (leafPa f big va) | _ => false
          if pinnable then finish s { l with pinned := l.pinned + 1, told := [] }
          else
            let ts := (s.waitingOn l).filter fun t => !l.told.contains t.id
            ts.foldl (fun s t => s.leaseWait t va) (s.putLease { l with st := .waiting, told := l.told ++ ts.map (·.id) })

/-- A lease release for an area (R86): held while records name the lease, ignored unless it is Active or Held. -/
def State.release (s : State) (area id : Nat) : State :=
  match s.lease? area id with
  | none => s
  | some l =>
    match l.st with
    | .held => { s with hm := { s.hm with leases := s.hm.leases.filter fun x => !(x.area == area && x.id == id) } }
    | .active => s.putLease { l with relPend := true }
    | _ => s

/-- LEASE_RELEASE_WRITE (R86). -/
def execLeaseReleaseWrite (fn : Fn) (v : Word) (s : State) : Host.Outcome State Fault Refusal :=
  .next <|
    match fn with
    | .pf => s.release (fieldOf v 12 4) (fieldOf v 0 12)
    | .vf n => if 1 ≤ n ∧ n ≤ 16 then s.release (16 + 4 * (n - 1) + fieldOf v 12 2) (fieldOf v 0 12) else s

/-! ## Area registers (Tables 3.1 to 3.5) -/

/-- SUB_TAIL_WRITE (R72, R73, R85): an overrun halts the area; every walk of the area that is stopped resumes. -/
def execSubTailWrite (a : Nat) (v : Word) (s : State) : Host.Outcome State Fault Refusal :=
  .next <|
    let s := s.modArea a fun x => { x with subTail := BitVec.ofNat 32 (fieldOf v 0 32) }
    let x := s.area a
    let s := if (x.subTail - x.subHead).toNat > ringSize x.subSize.toNat then s.haltArea a 1 else s
    { s with hm := { s.hm with leases := s.hm.leases.map fun l => if l.area = a ∧ l.st = .waiting then { l with st := .walking } else l } }

/-- What the host read for a reader is given up. -/
def State.dropReader (s : State) (p : Reader → Bool) : State :=
  let other (d : ApDst) : Bool := match d with | .buf r => !p r | _ => true
  { s with links := { s.links with
    apBuf := s.links.apBuf.filter fun b => !p b.r
    apReads := s.links.apReads.filter fun r => other r.dst
    apQueue := s.links.apQueue.filter fun r => other r.dst } }

/-- SUB_CTL_WRITE (R71, R73, R74, Table 3.4): a VF reaches its own areas only, and neither asid nor pcap; en from 1 to 0 clears halted and err; with en 1 the completions kept for an
unwritable ring are written. -/
def execSubCtlWrite (fn : Fn) (a : Nat) (v : Word) (s : State) : Host.Outcome State Fault Refusal :=
  .next <|
    if 80 ≤ a ∨ (fn ≠ .pf ∧ fn ≠ areaFn a) then s
    else
      let was := (s.area a).en
      let en := v.getLsbD 0
      let s := s.modArea a fun x => { x with
        vec := BitVec.ofNat 6 (if areaFn a = .pf then fieldOf v 8 6 else fieldOf v 8 3), irq := v.getLsbD 1, en := en
        asid := if fn = .pf then BitVec.ofNat 12 (fieldOf v 16 12) else x.asid
        pcap := if fn = .pf then BitVec.ofNat 4 (fieldOf v 4 4) else x.pcap
        halted := if was && !en then false else x.halted, err := if was && !en then 0 else x.err }
      let s := if was && !en then s.dropReader (· == .area a) else s
      if en ∧ (s.area a).halted = false then (s.modArea a fun x => { x with holdCpl := false }).cplDrain a (s.area a).kept else s

/-- CPL_HEAD_WRITE (R74): freed slots take the kept completions. -/
def execCplHeadWrite (a : Nat) (v : Word) (s : State) : Host.Outcome State Fault Refusal :=
  .next <|
    let s := s.modArea a fun x => { x with cplHead := BitVec.ofNat 32 (fieldOf v 0 32) }
    s.cplDrain a (s.area a).kept

/-! ## Messages (R74, R106, R150) -/

/-- No message has been sent in the last 2 µs. -/
def State.mayMessage (s : State) (last : Option (BitVec 64)) : Bool :=
  match last with
  | none => true
  | some t => 2000 ≤ (s.mgmt.count - t).toNat

/-- MSIX_MESSAGE (R74, R106, R150): the message due of an area, of the fault ring (80) or of the park ring (81). -/
def execMsixMessage (a : Nat) (s : State) : Host.Outcome State Fault Refusal :=
  .next <|
    if a < 80 then
      let x := s.area a
      if x.msgDue && s.mayMessage x.msgAt then
        (s.modArea a fun x => { x with msgDue := false, msgAt := some s.mgmt.count }).send (.msix (areaFn a) x.vec.toNat)
      else s
    else if a = 80 then
      if s.mem.fltMsg && s.mayMessage s.mem.fltMsgAt then
        ({ s with mem := { s.mem with fltMsg := false, fltMsgAt := some s.mgmt.count } }).send (.msix .pf s.mem.fltVec.toNat)
      else s
    else if a = 81 ∧ (s.hm.parkMsg && s.mayMessage s.hm.parkMsgAt) = true then
      ({ s with hm := { s.hm with parkMsg := false, parkMsgAt := some s.mgmt.count } }).send (.msix .pf s.hm.parkVec.toNat)
    else s

/-! ## Function-level resets (R27, R49, R91, R92) -/

/-- The reads and writes of host memory that the warps and commands of some teams have under way are discarded, with the reads of teams that have already ended (R49). -/
def State.dropDma (s : State) (nums : List Nat) : State :=
  let gone (d : ApDst) : Bool :=
    match d with
    | .load core tok => ((s.core core).load? tok).all fun l => nums.contains l.w.team
    | .code w _ => nums.contains w.team || (s.team? w.team).isNone
    | .buf _ => false
  let own (o : ApOwner) : Bool := match o with | .warp w => nums.contains w.team | .cmd n _ _ => nums.contains n | .unit => false
  ({ s with links := { s.links with
    apReads := s.links.apReads.filter fun r => !gone r.dst
    apQueue := s.links.apQueue.filter fun r => !gone r.dst
    apWrites := s.links.apWrites.filter fun w => !own w.own } }).settleAts

/-- The tasks that a test picks are discarded: their teams stop at once, their host accesses are discarded, and neither join nor completion follows. -/
def State.discardTasks (s : State) (p : Task → Bool) : State :=
  let ids := (s.hm.tasks.filter p).map (·.id)
  let nums := (s.hm.teams.filter fun t => ids.contains t.task).map (·.num)
  let s := s.dropDma nums
  let s := { s with hm := { s.hm with
    tasks := s.hm.tasks.filter fun t => !p t
    blocks := s.hm.blocks.filter fun b => !ids.contains b.task } }
  let s := nums.foldl (fun s n => s.endTeam n .discarded) s
  s.dropReader fun r =>
    match r with
    | .cmd t _ _ | .walk t _ _ | .spawn t _ | .save t => (s.team? t).isNone
    | _ => false

/-- The areas that a test picks are reset, and their leases and continuations end. -/
def State.resetAreas (s : State) (p : Nat → Bool) : State :=
  let s := (List.range 80).foldl (fun s a => if p a then s.modArea a fun _ => Area.reset else s) s
  let s := s.dropReader fun r => match r with | .cont => (s.hm.conts.head?.map fun c => p c.1).getD false | _ => false
  let s := { s with hm := { s.hm with leases := s.hm.leases.filter (fun l => !p l.area), conts := s.hm.conts.filter fun c => !p c.1 } }
  s.dropReader fun r => match r with | .area a => p a | .lease a _ => p a | _ => false

/-- The stores to host memory that teams of a function have made, and that wait for ATS, are discarded, also those of teams that have ended since (R49). -/
def State.dropStores (s : State) (fn : Fn) : State :=
  ({ s with links := { s.links with apWrites := s.links.apWrites.filter fun w => w.fn != fn } }).settleAts

/-- VF_FUNCTION_LEVEL_RESET (R91); as a reset of any kind it erases a flash slot that is loading (R41). -/
def execVfFunctionLevelReset (vf : Nat) (s : State) : Host.Outcome State Fault Refusal :=
  .next <|
    if vf = 0 ∨ 16 < vf then s
    else (((s.modMgmt fun m => { m with slots := m.slots.map FlashSlot.onReset }).discardTasks fun t => areaFn t.area == .vf vf).resetAreas fun a => areaFn a == .vf vf).dropStores (.vf vf)

/-- Home memory once every part of a store has been performed. -/
def Ram.storeParts (r : Ram) (poison whole : BitVec 8) : List (List Host.Cell) → Ram
  | [] => r
  | p :: ps => (r.storePart p ps poison whole).storeParts poison whole ps

/-- Home memory once the stores in the slices' queues have been performed. -/
def Ram.drained (r : Ram) (xs : List Slice) : Ram :=
  xs.foldl (fun r x => x.queue.foldl (fun r q =>
    match q with
    | .store _ _ parts poison whole => r.storeParts poison whole parts
    | _ => r) r) r

/-- PF_FUNCTION_LEVEL_RESET (R91): every task discarded, every area reset, every lease ended; dirty data written back, then the caches invalid; the tide table basic; the power,
domain, aperture, translation and fault registers and the counters at their reset values. -/
def execPfFunctionLevelReset (s : State) : Host.Outcome State Fault Refusal :=
  .next <|
    let s := ((s.discardTasks fun _ => true).resetAreas fun _ => true).dropReader fun _ => true
    let s := (List.range 64).foldl (fun s c => s.writeBackAll c) s
    let ram := s.mem.ram.drained s.slices.toList
    { s with
      mem := { MemSys.reset with ram := ram, nextTok := s.mem.nextTok }
      slices := Vector.replicate 128 Slice.reset
      cores := Vector.replicate 64 Core.reset
      mgmt := { s.mgmt with capW := 1800, devTol := 0, clsTol := Vector.replicate 8 0, slots := s.mgmt.slots.map FlashSlot.onReset }
      links := { s.links with
        apBase := 0, ats := false, apEn := false, atsHeld := [], atsAsked := [], atsInv := [], apReads := [], apQueue := [], apWrites := [], apBuf := []
        domid := 0, self := 0, domEn := false, domTab := 0, domCache := [], remotes := [] } }

/-! ## Register writes -/

/-- The state that an outcome gives. -/
def nextOr (s : State) : Host.Outcome State Fault Refusal → State
  | .next t => t
  | _ => s

/-- A write to a register of a submission area (Tables 3.1 to 3.5). -/
def State.areaWrite (s : State) (fn : Fn) (a reg : Nat) (v : Word) : State :=
  match reg with
  | 0x00 => s.modArea a fun x => { x with subVa := BitVec.ofNat 40 (fieldOf v 12 40), subSize := BitVec.ofNat 4 (fieldOf v 0 4) }
  | 0x08 => nextOr s (execSubTailWrite a v s)
  | 0x10 => s.modArea a fun x => if x.en then x else { x with subHead := BitVec.ofNat 32 (fieldOf v 0 32) }
  | 0x18 => nextOr s (execSubCtlWrite fn a v s)
  | 0x20 => s.modArea a fun x => { x with cplVa := BitVec.ofNat 40 (fieldOf v 12 40), cplSize := BitVec.ofNat 4 (fieldOf v 0 4) }
  | 0x30 => nextOr s (execCplHeadWrite a v s)
  | 0x38 => s.modArea a fun x => { x with leaseCnt := BitVec.ofNat 12 (fieldOf v 52 12), leaseVa := BitVec.ofNat 46 (fieldOf v 6 46) }
  | _ => s

/-- A write to task_ctl joins its queue, in which the first 16 are taken and further ones wait at the interface (Table 4.5); an operation that Table 4.9 does not list is
ignored (R108). -/
def State.taskCtlWrite (s : State) (fn : Fn) (v : Word) : State :=
  if fieldOf v 0 8 = 0 ∨ 6 < fieldOf v 0 8 then s else { s with hm := { s.hm with ctl := s.hm.ctl ++ [{ fn := fn, v := v }] } }

/-- A write to the device status register (Table 1.8). -/
def State.statusWrite (s : State) (v : Word) : State :=
  let s := if v.getLsbD 15 then nextOr s (execThermClear s) else s
  if v.getLsbD 8 then nextOr s (execDeviceReset s) else s

/-- A write to the mailbox command register (R40). -/
def State.mailboxWrite (s : State) (v : Word) : State :=
  match fieldOf v 0 8 with
  | 0x01 => nextOr s (execReadIdentityCertificate v s)
  | 0x02 => nextOr s (execReadAliasCertificate v s)
  | 0x03 => nextOr s (execAttest v s)
  | 0x04 => nextOr s (execRaiseFuseSvn v s)
  | 0x05 => nextOr s (execReadConfiguration v s)
  | 0x10 => nextOr s (execImageBegin v s)
  | 0x11 => nextOr s (execImageChunk v s)
  | 0x12 => nextOr s (execImageCommit v s)
  | _ => nextOr s (execMailboxBadCode v s)

/-- A write to tide_ctl (Table 5.2). -/
def State.tideWrite (s : State) (v : Word) : State :=
  let s := nextOr s (execTidePhaseWrite v s)
  if v.getLsbD 8 then nextOr s (execTideLoad s) else nextOr s (execTideBasic s)

/-- A 64-bit write to BAR0 of the PF. -/
def State.pfWrite (s : State) (off : Nat) (v : Word) : State :=
  let hm (h : Harbourmaster) : State := { s with hm := h }
  let mem (m : MemSys) : State := { s with mem := m }
  let links (l : Links) : State := { s with links := l }
  if off % 8 ≠ 0 then s
  else if 0x40000 ≤ off ∧ off < 0x40400 then s.areaWrite .pf ((off - 0x40000) / 0x40) ((off - 0x40000) % 0x40) v
  else if 0x41000 ≤ off ∧ off < 0x42000 then s.areaWrite .pf (16 + (off - 0x41000) / 0x40) ((off - 0x41000) % 0x40) v
  else if 0x70000 ≤ off ∧ off < 0x71600 then nextOr s (execCounterClear off s)
  else if 0x20100 ≤ off ∧ off < 0x20500 then s.modMgmt fun m => if m.mbRun.isSome then m else { m with mbBuf := putBuffer m.mbBuf (off - 0x20100) (leBytes 8 v.toNat) }
  else if 0x10008 ≤ off ∧ off < 0x10048 then s.modMgmt fun m => { m with clsTol := vset m.clsTol ((off - 0x10008) / 8) (BitVec.ofNat 32 (fieldOf v 0 32)) }
  else
    match off with
    | 0x00000 => s.statusWrite v
    | 0x10000 => s.modMgmt fun m => { m with devTol := BitVec.ofNat 32 (fieldOf v 0 32) }
    | 0x10048 => nextOr s (execPowerCapWrite v s)
    | 0x20000 => s.mailboxWrite v
    | 0x30000 => links { s.links with apBase := BitVec.ofNat 28 (fieldOf v 36 28), ats := v.getLsbD 1, apEn := v.getLsbD 0 }
    | 0x30100 => nextOr s (execDomainConfigWrite v s)
    | 0x30108 => links { s.links with domTab := BitVec.ofNat 25 (fieldOf v 15 25) }
    | 0x30110 => nextOr s (execCollListsWrite v s)
    | 0x4f000 => nextOr s (execLeaseReleaseWrite .pf v s)
    | 0x50000 => hm { s.hm with
        parkTo := BitVec.ofNat 16 (fieldOf v 48 16), pdelta := BitVec.ofNat 4 (fieldOf v 32 4), ageUs := BitVec.ofNat 16 (fieldOf v 0 16) }
    | 0x50008 => hm { s.hm with recBase := BitVec.ofNat 19 (fieldOf v 21 19), recSize := BitVec.ofNat 4 (fieldOf v 0 4) }
    | 0x50010 => hm { s.hm with saveBase := BitVec.ofNat 19 (fieldOf v 21 19), saveSize := BitVec.ofNat 8 (fieldOf v 0 8) }
    | 0x50018 => hm { s.hm with
        parkBase := BitVec.ofNat 28 (fieldOf v 12 28), parkVec := BitVec.ofNat 6 (fieldOf v 4 6), parkSize := BitVec.ofNat 4 (fieldOf v 0 4) }
    | 0x50028 => (hm { s.hm with parkHead := BitVec.ofNat 32 (fieldOf v 0 32) }).parkDrain s.hm.parkWait
    | 0x50030 => s.taskCtlWrite .pf v
    | 0x60000 => mem { s.mem with domAsid := BitVec.ofNat 12 (fieldOf v 52 12), asBase := BitVec.ofNat 24 (fieldOf v 16 24), asEn := v.getLsbD 0 }
    | 0x60008 => mem { s.mem with
        fltBase := BitVec.ofNat 28 (fieldOf v 12 28), fltVec := BitVec.ofNat 6 (fieldOf v 4 6), fltSize := BitVec.ofNat 4 (fieldOf v 0 4) }
    | 0x60018 => mem { s.mem with fltHead := BitVec.ofNat 32 (fieldOf v 0 32) }
    | 0x60020 => nextOr s (execFaultResolve v s)
    | 0x60028 => nextOr s (execTlbInvalidate v s)
    | 0x60040 => mem { s.mem with tideBase := BitVec.ofNat 28 (fieldOf v 12 28) }
    | 0x60048 => s.tideWrite v
    | _ => s

/-- A 64-bit write to BAR0 of a VF. -/
def State.vfWrite (s : State) (n off : Nat) (v : Word) : State :=
  if off % 8 ≠ 0 ∨ n = 0 ∨ 16 < n then s
  else if off < 0x100 then s.areaWrite (.vf n) (16 + 4 * (n - 1) + off / 0x40) (off % 0x40) v
  else
    match off with
    | 0xf000 => nextOr s (execLeaseReleaseWrite (.vf n) v s)
    | 0xf008 => s.taskCtlWrite (.vf n) v
    | _ => s

/-- REGISTER_WRITE: a 64-bit write of a function to a register of its BAR0; read-only fields and other offsets ignore it. -/
def execRegisterWrite (fn : Fn) (off : Nat) (v : Word) (s : State) : Host.Outcome State Fault Refusal :=
  .next <|
    match fn with
    | .pf => s.pfWrite off v
    | .vf n => s.vfWrite n off v

end Sys2Proof.Machine
end

