-- ==== Sys2Proof/Machine/Scalar.lean ====
section
/-! DEFINITION. The uniform scalar instructions (10: R290 to R292, Table 10.2). -/

namespace Sys2Proof.Machine

/-- A uniform scalar instruction (R290): each source's low w bits, the result sign-extended to 64 bits for i types and zero-extended for the
others. -/
def State.kOp (s : State) (e : Elem) (f : BitVec 4 → List Nat → Nat) : Host.Outcome State Fault Refusal :=
  s.elementwise { e with uni := true, cc := 0 } fun xs =>
    let r := f e.ty (xs.map fun x => subEl (Ty.width e.ty) x 0)
    (BitVec.ofInt 64 (intVal e.ty r), 0)

/-- `kmov` (Table 10.2). -/
def execKmov (f : Alu1) (s : State) : Host.Outcome State Fault Refusal :=
  s.kOp (elem1 f false) (un fun _ a => a)

/-- `kmovi` (R291). -/
def execKmovi (f : AluImm) (s : State) : Host.Outcome State Fault Refusal :=
  s.kOp (elemI f) fun ty _ => immVal ty f.imm

/-- `kadd` (Table 10.2). -/
def execKadd (f : Alu2) (s : State) : Host.Outcome State Fault Refusal :=
  s.kOp (elem2 f false) (bin iAdd)

/-- `ksub` (Table 10.2). -/
def execKsub (f : Alu2) (s : State) : Host.Outcome State Fault Refusal :=
  s.kOp (elem2 f false) (bin iSub)

/-- `kmul` (Table 10.2). -/
def execKmul (f : Alu2) (s : State) : Host.Outcome State Fault Refusal :=
  s.kOp (elem2 f false) (bin iMul)

/-- `kmad` (Table 10.2). -/
def execKmad (f : Alu3) (s : State) : Host.Outcome State Fault Refusal :=
  s.kOp (elem3 f false) (tern iMad)

/-- `kdiv` (Table 10.2). -/
def execKdiv (f : Alu2) (s : State) : Host.Outcome State Fault Refusal :=
  s.kOp (elem2 f false) (bin iDiv)

/-- `kmod` (Table 10.2). -/
def execKmod (f : Alu2) (s : State) : Host.Outcome State Fault Refusal :=
  s.kOp (elem2 f false) (bin iMod)

/-- `kand` (Table 10.2). -/
def execKand (f : Alu2) (s : State) : Host.Outcome State Fault Refusal :=
  s.kOp (elem2 f false) (bin iAnd)

/-- `kor` (Table 10.2). -/
def execKor (f : Alu2) (s : State) : Host.Outcome State Fault Refusal :=
  s.kOp (elem2 f false) (bin iOr)

/-- `kxor` (Table 10.2). -/
def execKxor (f : Alu2) (s : State) : Host.Outcome State Fault Refusal :=
  s.kOp (elem2 f false) (bin iXor)

/-- `kshl` (Table 10.2). -/
def execKshl (f : Alu2) (s : State) : Host.Outcome State Fault Refusal :=
  s.kOp (elem2 f false) (bin iShl)

/-- `kshr` (Table 10.2). -/
def execKshr (f : Alu2) (s : State) : Host.Outcome State Fault Refusal :=
  s.kOp (elem2 f false) (bin iShr)

/-- `ksar` (Table 10.2). -/
def execKsar (f : Alu2) (s : State) : Host.Outcome State Fault Refusal :=
  s.kOp (elem2 f false) (bin iSar)

/-- `kcmp` (R292): 1 when the condition holds, else 0. -/
def execKcmp (f : AluCmp) (s : State) : Host.Outcome State Fault Refusal :=
  s.kOp { ty := f.ty, d := f.d, us := [⟨f.a, false⟩, ⟨f.b, false⟩], cc := f.cc, g := f.g, uni := f.uni }
    (bin fun ty a b => b2n (iCond f.cond.toNat (intVal ty a) (intVal ty b)))

/-- `ksel` (Table 10.2). -/
def execKsel (f : Alu3) (s : State) : Host.Outcome State Fault Refusal :=
  s.kOp (elem3 f false) (tern iSel)

/-- `kmin` (Table 10.2). -/
def execKmin (f : Alu2) (s : State) : Host.Outcome State Fault Refusal :=
  s.kOp (elem2 f false) (bin iMin)

/-- `kmax` (Table 10.2). -/
def execKmax (f : Alu2) (s : State) : Host.Outcome State Fault Refusal :=
  s.kOp (elem2 f false) (bin iMax)

/-- `kclz` (Table 10.2). -/
def execKclz (f : Alu1) (s : State) : Host.Outcome State Fault Refusal :=
  s.kOp (elem1 f false) (un iClz)

/-- `kpopc` (Table 10.2). -/
def execKpopc (f : Alu1) (s : State) : Host.Outcome State Fault Refusal :=
  s.kOp (elem1 f false) (un iPopc)

end Sys2Proof.Machine
end

