-- ==== Sys2Proof/Machine/Scheduler.lean ====
section
/-! DEFINITION. The Harbourmaster (04: R97 to R117): candidates, placement and ageing, parking, requests of system software, pre-emption, saves and restores, retirement,
spawned records and continuations. -/

namespace Sys2Proof.Machine

/-! ## Live sets and images (R79, R110, R113) -/

/-- An entry of the liveness table (Table 3.10). -/
structure LiveEntry where
  access : Bool
  pc     : Nat
  n      : Nat
  list   : Nat
  deriving DecidableEq, Repr

/-- An entry's fields. -/
def liveEntry (b : List Byte) : LiveEntry := { access := bytesFld b 6 2 % 2 == 1, pc := bytesFld b 0 4, n := bytesFld b 4 2, list := bytesFld b 8 4 }

/-- An entry follows R79 on its own. -/
def liveEntryOk (csize : Nat) (b : List Byte) : Bool :=
  bytesFld b 6 2 ≤ 1 && bytesFld b 4 2 ≤ 1536 && bytesFld b 12 4 == 0 && bytesFld b 8 4 % 4 == 0 && bytesFld b 8 4 < csize

/-- The entry of a warp of a slice (R79): the last of the slice's whose pc is not above its header. The table is read from its start to the slice's first entry above the
header; `best` is the entry so far. None when an entry could not be read, or one of the slice's breaks R79 (log entry 92). -/
def liveScan (csize : Nat) (access : Bool) (hdr : Int) (best : Option LiveEntry) : List (Option (List Byte)) → Option LiveEntry
  | [] => best
  | none :: _ => none
  | some b :: r =>
    let e := liveEntry b
    if e.access ≠ access then liveScan csize access hdr best r
    else if liveEntryOk csize b = false ∨ (best.any fun x => e.pc ≤ x.pc) = true then none
    else if hdr < e.pc then best
    else liveScan csize access hdr (some e) r

/-- The registers that range items name (Table 3.10), none when an item's reserved bits are not 0. -/
def rangeItems (raw : List (List Byte)) : Option (List (Nat × Nat)) :=
  if raw.all fun b => bytesFld b 0 4 < 2 ^ 22 then some (raw.map fun b => (bitsOf (bytesFld b 0 4) 0 11, bitsOf (bytesFld b 0 4) 11 11 + 1)) else none

/-- The live sets of a team's warps, or the state in which a host read is on its way; `none` for a warp all of whose registers are live. -/
inductive LiveGot where
  | sets (ls : List (Option (List (Nat × Nat))))
  | wait (s : State)
  deriving DecidableEq, Repr

/-- Several reads by the Harbourmaster, each with an outcome of its own, none for one that fails; or the state in which a host read is on its way. -/
def State.hmEach (s : State) (r : Reader) (asid : BitVec 12) : List (Nat × Nat) → Except State (List (Option (List Byte)))
  | [] => .ok []
  | (va, n) :: rest =>
    match (if n = 0 then HmGot.bytes [] else s.hmGet r asid va n) with
    | .wait s => .error s
    | .fail => (s.hmEach r asid rest).map (none :: ·)
    | .bytes b => (s.hmEach r asid rest).map (some b :: ·)

/-- A liveness table that R78 allows: its place and its number of entries. -/
def Launch.liveTable (l : Launch) : Option (Nat × Nat) :=
  if l.liveCnt = 0 ∨ 65535 < l.liveCnt ∨ l.liveOff = 0 ∨ l.liveOff % 16 ≠ 0 then Option.none else some (l.liveOff, l.liveCnt)

/-- The live sets of the warps of a team, read in the area's address space; a warp without an entry, or whose entry or items cannot be read or break R79, has every register
live (R79, R112). -/
def State.liveSets (s : State) (t : Team) : LiveGot :=
  match (s.task? t.task).bind fun k => k.launch.liveTable.map fun x => (k, x) with
  | none => .sets (t.warps.map fun _ => none)
  | some (k, off, cnt) =>
    match s.hmEach (.save t.num) k.asid (tab cnt fun i => (k.code + off + 16 * i, 16)) with
    | .error w => .wait w
    | .ok es =>
      let need := t.warps.zipIdx.map fun x => liveScan k.launch.csize (x.2 == 0) x.1.hdr none es
      match s.hmEach (.save t.num) k.asid (need.map fun e => match e with | some e => (k.code + e.list, 4 * e.n) | none => (0, 0)) with
      | .error w => .wait w
      | .ok rs => .sets ((need.zip rs).map fun x => match x.1, x.2 with | some e, some b => rangeItems (pieces b 4 e.n) | _, _ => none)

/-- What the reads of a team's live sets have read has been served at the home slices (R112, R129). -/
def State.liveServed (s : State) (t : Team) : State :=
  match (s.task? t.task).bind fun k => k.launch.liveTable.map fun x => (k, x) with
  | none => s
  | some (k, off, cnt) =>
    let all (s : State) (l : List (Nat × Nat)) : State := l.foldl (fun s x => if x.2 = 0 then s else s.hmServed k.asid x.1 x.2) s
    let table := tab cnt fun i => (k.code + off + 16 * i, 16)
    match s.hmEach (.save t.num) k.asid table with
    | .error _ => s
    | .ok es => all (all s table) (t.warps.zipIdx.map fun x =>
        match liveScan k.launch.csize (x.2 == 0) x.1.hdr none es with | some e => (k.code + e.list, 4 * e.n) | none => (0, 0))

/-- A warp's allotment: 64 `a` registers, or its vector registers. -/
def allotOf (access : Bool) (x : Warp) : Nat := if access then 64 else x.v.length

/-- Whether a register is live: in the set, or written in the current clause (R112). -/
def isLive (live : Option (List (Nat × Nat))) (x : Warp) (n : Nat) : Bool :=
  match live with
  | none => true
  | some rs => rs.any (fun r => r.1 ≤ n && n < r.1 + r.2) || x.wrote.contains n

/-- The live registers of all warps (Ls of R113). -/
def liveCount (t : Team) (ls : List (Option (List (Nat × Nat)))) : Nat :=
  ((t.warps.zip ls).zipIdx.map fun x => ((List.range (allotOf (x.2 == 0) x.1.1)).filter (isLive x.1.2 x.1.1)).length).sum

/-- The bytes of a block's shared section: its regions, each rounded up to 64 KiB (R113). -/
def Block.imageBytes (b : Block) : Nat := b.cores.length * roundUp (b.shm * 1024) 65536

/-- The faults of a team on its core. -/
def State.faultsOf (s : State) (t : Team) : List FaultSlot :=
  (s.core t.core).faults.toList.filterMap fun f =>
    match f with
    | none => none
    | some f =>
      let mine := f.joined.filter (Joined.ofTeam (s.core t.core) t.num)
      if mine.isEmpty then none else some { f with joined := mine }

/-- A fault of a team without its walks, whose faults stay outstanding through a save (R388); none when nothing else has joined it. -/
def FaultSlot.unwalked (f : FaultSlot) : Option FaultSlot :=
  match f.joined.filter fun j => !(match j with | .walk _ _ _ _ => true | _ => false) with
  | [] => none
  | js => some { f with joined := js }

/-- Whether no other team of a team's block is on a core: then the image holds the block's regions (R114). -/
def State.lastOfBlock (s : State) (t : Team) : Bool := !(s.hm.teams.any fun u => u.block == t.block && u.num != t.num && u.onCore)

/-- The size of an image from its counts (R113). -/
def imageSize (t : Team) (ls q f h : Nat) : Nat :=
  roundUp (256 + 4096 + 8192 * t.warps.length + 264 * ls + 16 * t.queues.length + 264 * q + 32 * f + h) 65536

/-- S (R113). -/
def State.saveSize (s : State) (t : Team) (ls : List (Option (List (Nat × Nat)))) : Nat :=
  let h := match s.block? t.block with | some b => if b.shm ≠ 0 ∧ s.lastOfBlock t = true then b.imageBytes else 0 | none => 0
  imageSize t (liveCount t ls) ((t.queues.map fun q => q.entries.length).sum) (s.faultsOf t).length h

/-- Smax (R110). -/
def State.saveMax (s : State) (t : Team) : Nat :=
  let h := match s.block? t.block with | some b => b.imageBytes | none => 0
  imageSize t ((t.warps.zipIdx.map fun x => allotOf (x.2 == 0) x.1).sum) ((t.queues.map (·.depth)).sum) 32 h

/-- The size of the save store, 0 when it is absent (R93, Table 4.3). -/
def State.saveStore (s : State) : Nat :=
  let n := s.hm.saveSize.toNat * 2 ^ 26
  if n = 0 ∨ isHbm (s.hm.saveBase.toNat * 2 ^ 21 + n - 1) = false then 0 else n

/-- The lowest free run of a size in the save store (R110, R113). -/
def State.saveRun (s : State) (size : Nat) : Option Nat :=
  let used := s.hm.teams.filterMap (·.saveRun)
  let starts := (0 :: used.map fun r => roundUp (r.1 + r.2) 65536).filter fun a =>
    a + size ≤ s.saveStore && used.all fun r => a + size ≤ r.1 || r.1 + r.2 ≤ a
  if s.saveStore = 0 then none else starts.foldl (fun m a => match m with | none => some a | some b => some (min a b)) none

/-! ## Pre-emption (R109 to R115) -/

/-- The methods of pre-emption. -/
inductive Method where
  | drain | save | discard
  deriving DecidableEq, Repr

/-- THE COST ESTIMATOR (R110): the least cost among the candidates within the deadline, if any is; on a tie save before drain before discard. -/
def estimate (drain save discard : Option Nat) (d : Option Nat) : Method :=
  let cs : List (Method × Nat) := [(.save, save), (.drain, drain), (.discard, discard)].filterMap fun x => x.2.map fun c => (x.1, c)
  let within := match d with | none => cs | some d => if cs.any fun x => x.2 ≤ d then cs.filter fun x => x.2 ≤ d else cs
  match within with
  | [] => .drain
  | x :: r => (r.foldl (fun b y => if y.2 < b.2 then y else b) x).1

/-- What a request asks for: the method field and the deadline in ns (R109, R110). -/
structure PreReq where
  method : Nat
  limit  : Option Nat
  deriving DecidableEq, Repr

/-- A team that is ending: its last warp has ended and its engine commands have completed (Table 4.7). A kill or a pre-emption comes too late for it (R117). -/
def Team.ending (t : Team) : Bool := t.st == .resident && t.warps.all (·.ended) && t.cmds.all (·.e == 4)

/-- A team that may be pre-empted (R109). -/
def Team.preemptable (t : Team) : Bool := (t.st == .resident || t.st == .parked) && !t.draining && !t.ending

/-- Discarding a team is permitted (R115): its record allows it, and it is the only team of its block or the request pre-empts every one (log entry 115). -/
def State.discardOk (s : State) (t : Team) (members : List Nat) : Bool :=
  match s.task? t.task with
  | none => false
  | some k =>
    let mine := s.hm.teams.filter fun u => u.block == t.block
    (vget k.record 6 0).getLsbD 23 && (k.tpb == 1 || (mine.length == k.tpb && mine.all fun u => members.contains u.num && u.preemptable))

/-- The method for a team (R109, R110), given the live sets as they stand. -/
def State.chooseMethod (s : State) (t : Team) (ls : List (Option (List (Nat × Nat)))) (members : List Nat) (r : PreReq) : Method :=
  let saveOk := (s.saveRun (s.saveMax t)).isSome
  let discOk := s.discardOk t members
  let n := t.warps.foldl (fun a w => a + w.retired.toNat) 0
  let time := (s.memCount t.core - t.ranAt).toNat
  let work := match s.task? t.task with | some k => recFld k.record 7 0 32 | none => 0
  let est := estimate (if work = 0 then none else some ((1024 * work - n) * time / max n 1)) (if saveOk then some (2 * s.saveSize t ls / 16) else none)
    (if discOk then some time else none) r.limit
  match r.method with
  | 1 => .drain
  | 2 => if saveOk then .save else est
  | 3 => if discOk then .discard else est
  | _ => est

/-- A save begins: the team stops issuing, its run is reserved, and its times stand still (R107, R110, R112). -/
def State.beginSave (s : State) (t : Team) : State :=
  let size := s.saveMax t
  (s.releasePorts t).modTeam t.num fun x => { x with
    st := .saving, parkNs := s.parkedNs t, ranAt := s.memCount t.core - t.ranAt, saveRun := (s.saveRun size).map fun a => (a, size), flushed := false }

/-- A block is discarded (R115): it returns to its task as the first unplaced block, and its teams end. -/
def State.discardBlock (s : State) (block : Nat) : State :=
  match s.block? block with
  | none => s
  | some b =>
    let nums := (s.hm.teams.filter fun t => t.block == block).map (·.num)
    let s := s.modTask b.task fun k => { k with back := insertNat b.index k.back, st := if k.st = .placed then .partially else k.st, since := s.mgmt.count }
    nums.foldl (fun s n => s.endTeam n .discarded) s

/-- Pre-empts one team, given its live sets. -/
def State.preemptOne (s : State) (t : Team) (ls : List (Option (List (Nat × Nat)))) (members : List Nat) (r : PreReq) : State :=
  if t.preemptable = false then s
  else
    match s.chooseMethod t ls members r with
    | .drain => s.modTeam t.num fun x => { x with draining := true }
    | .save => s.beginSave t
    | .discard => s.discardBlock t.block

/-- PRE-EMPTING TEAMS, the one request of R109: each in turn; none while a live set is still being read from the host, when the state that waits is answered beside. -/
def State.preempt (s : State) (members : List Nat) (r : PreReq) : Except State State :=
  let go (x : Except State State) (n : Nat) : Except State State :=
    match x with
    | .error w => .error w
    | .ok s =>
      match s.team? n with
      | none => .ok s
      | some t =>
        if t.preemptable = false then .ok s
        else
          match s.liveSets t with
          | .wait _ => .ok s
          | .sets ls => .ok (((s.liveServed t).preemptOne t ls members r).doneReading (.save n))
  let waits := members.findSome? fun n =>
    match s.team? n with
    | none => none
    | some t => if t.preemptable = false then none else match s.liveSets t with | .wait w => some w | .sets _ => none
  match waits with
  | some w => .error w
  | none => members.foldl go (.ok s)

/-- Either state. -/
def eitherState : Except State State → State
  | .ok s => s
  | .error s => s

/-! ## Requests of system software (R108) -/

/-- The request at the head of task_ctl, if it asks for an operation, with the state once it has been taken. -/
def State.ctlHead (s : State) (op : Nat) : Option (TaskCtl × State) :=
  match s.hm.ctl with
  | [] => none
  | r :: rest => if fieldOf r.v 0 8 = op then some (r, { s with hm := { s.hm with ctl := rest } }) else none

/-- The target field. -/
def TaskCtl.target (r : TaskCtl) : Nat := fieldOf r.v 32 32

/-- The team a request names: one of a task of the function's own areas; the PF names any (R108). -/
def State.ctlTeam (s : State) (r : TaskCtl) : Option Team :=
  match s.team? r.target with
  | none => none
  | some t =>
    match s.task? t.task with
    | none => none
    | some k => if r.fn = .pf ∨ r.fn = areaFn k.area then some t else none

/-- Every block of a task has been placed and each of its teams is ending: a kill comes too late for it (R117). -/
def State.taskEnding (s : State) (id : Nat) : Bool :=
  ((s.task? id).map (·.st)) == some TaskState.placed && s.hm.teams.all fun t => t.task != id || t.ending

/-- KILLING A TASK (R97, R116). -/
def State.killTask (s : State) (id : Nat) : State :=
  if s.taskEnding id then s
  else
  let s := s.modTask id fun k => { k with st := if k.st = .failing then .failing else .killing, killed := true }
  let nums := (s.hm.teams.filter fun t => t.task == id && !t.ending).map (·.num)
  (nums.foldl (fun s n => s.endTeam n .killed) s).settleTask id

/-- A record or an image of a task has been lost (R93, Table 4.6): its teams stop, and it ends with status 4. -/
def State.loseTask (s : State) (id : Nat) : State :=
  let s := s.modTask id fun k => { k with st := .queued }
  let nums := (s.hm.teams.filter fun t => t.task == id).map (·.num)
  (nums.foldl (fun s n => s.endTeam n .discarded) s).taskEnd id 4 0

/-- KILL_TASK. -/
def execKillTask (s : State) : Host.Outcome State Fault Refusal :=
  .next <|
    match s.ctlHead 1 with
    | none => s
    | some (r, s) => match s.ctlTeam r with | some t => s.killTask t.task | none => s

/-- The area code a request names (Table 4.5). -/
def TaskCtl.area (r : TaskCtl) : Nat :=
  match r.fn with
  | .pf => fieldOf r.v 13 7
  | .vf n => 16 + 4 * (n - 1) + fieldOf r.v 13 2

/-- WITHDRAW_RECORD (R108): every record of the area and index that has no block placed, and every continuation still to be accepted there, ends with status 2. -/
def execWithdrawRecord (s : State) : Host.Outcome State Fault Refusal :=
  .next <|
    match s.ctlHead 2 with
    | none => s
    | some (r, s) =>
      let idx := BitVec.ofNat 32 r.target
      let ids := (s.hm.tasks.filter fun t => t.area == r.area && t.index == idx && (t.st == .queued || t.st == .leaseWait)).map (·.id)
      let mine (c : Nat × Nat × BitVec 32 × Option (Vector Word 8)) : Bool := c.1 == r.area && c.2.2.1 == idx && c.2.2.2.isSome
      let conts := s.hm.conts.filter mine
      let s := { s with hm := { s.hm with conts := s.hm.conts.filter fun c => !mine c } }
      let s := ids.foldl (fun s id => s.taskEnd id 2 0) s
      conts.foldl (fun s c =>
        match c.2.2.2 with
        | some q => s.endRecord (s.newTask q c.1 c.2.2.1 (BitVec.ofNat 12 c.2.1) true Launch.none) 2 0
        | none => s) s

/-- RESUME_TEAM (R107): a reason 3 condition clears, in a saved image too. -/
def execResumeTeam (s : State) : Host.Outcome State Fault Refusal :=
  .next <|
    match s.ctlHead 3 with
    | none => s
    | some (r, s) => match s.ctlTeam r with | some t => s.setTeam (t.clearParks fun p => p.reason != 3) | none => s

/-- KILL_TEAM (R116). -/
def execKillTeam (s : State) : Host.Outcome State Fault Refusal :=
  .next <|
    match s.ctlHead 4 with
    | none => s
    | some (r, s) => match s.ctlTeam r with | some t => if t.ending then s else s.endTeam t.num .killed | none => s

/-- The method and deadline of a request (Table 4.5, R110). -/
def TaskCtl.pre (r : TaskCtl) : PreReq :=
  { method := fieldOf r.v 11 2, limit := if fieldOf r.v 20 12 = 0 then none else some (fieldOf r.v 20 12 * 16000) }

/-- A request that pre-empts teams: while a live set is read from the host it stays at the head. -/
def State.ctlPreempt (s : State) (op : Nat) (pick : Team → State → List Nat) : State :=
  match s.ctlHead op with
  | none => s
  | some (r, s') =>
    match s'.ctlTeam r with
    | none => s'
    | some t =>
      match s'.preempt (pick t s') r.pre with
      | .ok s => s
      | .error w => { w with hm := { w.hm with ctl := s.hm.ctl } }

/-- PREEMPT_TEAM (R109). -/
def execPreemptTeam (s : State) : Host.Outcome State Fault Refusal := .next (s.ctlPreempt 5 fun t _ => [t.num])

/-- PREEMPT_TASK (R109). -/
def execPreemptTask (s : State) : Host.Outcome State Fault Refusal :=
  .next (s.ctlPreempt 6 fun t s => (s.hm.teams.filter fun u => u.task == t.task && u.preemptable).map (·.num))

/-! ## Candidates (R102, R104, R114) -/

/-- What a candidate is: the next block of its task, a saved team of a block without shared memory, one of a partly resident block, or a wholly saved block. -/
inductive CandKind where
  | block (idx : Nat)
  | alone
  | part
  | whole
  deriving DecidableEq, Repr

/-- A candidate for placement. -/
structure Cand where
  task  : Nat
  teams : List Nat
  kind  : CandKind
  level : Nat
  time  : Nat
  turn  : Nat
  deriving DecidableEq, Repr

/-- What identifies a candidate as the head. -/
def Cand.key (c : Cand) : Nat :=
  match c.kind with
  | .block i => 2 * (65536 * c.task + i)
  | _ => 2 * (c.teams.headD 0) + 1

/-- The place of a task among those accepted at one moment (R95): its area's code; spawned records and continuations after every area. -/
def Task.turn (t : Task) : Nat := if t.spawned then 80 else t.area

/-- The order of R102, and of R95 among tasks accepted at one moment. -/
def Cand.before (a b : Cand) : Bool :=
  if a.level ≠ b.level then b.level < a.level
  else if a.time ≠ b.time then a.time < b.time
  else if a.turn ≠ b.turn then a.turn < b.turn
  else if a.task ≠ b.task then a.task < b.task
  else
    match a.teams, b.teams with
    | x :: _, y :: _ => x ≤ y
    | _ :: _, [] => true
    | [], [] => true
    | [], _ :: _ => false

/-- Inserts a candidate in order. -/
def insertCand (c : Cand) : List Cand → List Cand
  | [] => [c]
  | x :: r => if c.before x then c :: x :: r else x :: insertCand c r

/-- The next unplaced block of a task: a discarded one first (R115). -/
def Task.nextBlock (t : Task) : Option Nat :=
  match t.back with
  | b :: _ => some b
  | [] => if t.next < recFld t.record 4 0 16 then some t.next else none

/-- The candidate of a task's next block. -/
def Task.cand (t : Task) : Option Cand :=
  if t.st = .queued ∨ t.st = .partially then
    t.nextBlock.map fun i => { task := t.id, teams := [], kind := .block i, level := t.level, time := t.accepted.toNat, turn := t.turn }
  else none

/-- The candidates of a block's saved teams (R114; log entry 116). -/
def State.blockCands (s : State) (b : Block) : List Cand :=
  let mine := s.hm.teams.filter fun t => t.block == b.id
  let saved := (mine.filter fun t => t.st == .saved)
  let time := ((s.task? b.task).map (·.accepted.toNat)).getD 0
  let turn := ((s.task? b.task).map Task.turn).getD 0
  let nums := (saved.map (·.num)).foldr insertNat []
  let level (n : Nat) : Nat := ((s.team? n).map (·.level)).getD 0
  if saved.isEmpty then []
  else if b.shm ≠ 0 ∧ mine.all (fun t => t.st == .saved) = true then
    [{ task := b.task, teams := nums, kind := .whole, level := (nums.map level).foldl max 0, time := time, turn := turn }]
  else nums.map fun n => { task := b.task, teams := [n], kind := if b.shm = 0 then .alone else .part, level := level n, time := time, turn := turn }

/-- The candidates in the order of R102. -/
def State.cands (s : State) : List Cand := (s.hm.tasks.filterMap Task.cand ++ s.hm.blocks.flatMap s.blockCands).foldr insertCand []

/-! ## Fitting (R89, R103, R109) -/

/-- What a team holds of its core. -/
def Team.need (t : Team) : Need :=
  { regs := ((t.warps.drop 1).map fun x => x.v.length).sum, warps := (t.warps.drop 1).length, entries := (t.queues.map (·.depth)).sum }

/-- What is used of a core when some teams are left out and what some victims have freed is kept for the head (R109). A block's region stays while a team of it is on a core
(R114). -/
def State.coreUse (s : State) (minus : List Nat) (keep : List Victim) (core : Nat) : Use :=
  let on := s.hm.teams.filter fun t => t.onCore && !minus.contains t.num
  let here := on.filter fun t => t.core == core
  let blocks := s.hm.blocks.filter fun b => b.cores.contains core && on.any fun t => t.block == b.id
  let kept := keep.filter fun v => v.freed && v.core == core
  let freedBlocks := ((kept.filter fun v => !(blocks.any fun b => b.id == v.block)).map fun v => (v.block, v.shm)).eraseDups
  { regs := (here.map fun t => t.need.regs).sum + (kept.map (·.regs)).sum
    warps := (here.map fun t => t.need.warps).sum + (kept.map (·.warps)).sum
    access := here.length + kept.length
    entries := (here.map fun t => t.need.entries).sum + (kept.map (·.entries)).sum
    blocks := (here.map (·.block) ++ blocks.map (·.id)).eraseDups
    kib := (blocks.map (·.shm)).sum + (freedBlocks.map (·.2)).sum }

/-- A core all of whose islands are in S0 or S1 (R103). -/
def State.coreAwake (s : State) (c : Nat) : Bool := (List.range 6).all fun i => (s.island (6 * c + i)).st == .s0 || (s.island (6 * c + i)).st == .s1

/-- The cores of a basin. -/
def basin (b : Nat) : List Nat := tab 16 (16 * b + ·)

/-- A placement: the core of each team, and the set. -/
structure Fit where
  cores : List Nat
  set   : List Nat
  deriving DecidableEq, Repr

/-- The first pool of cores on which teams fit within a number of cores. -/
def firstFit (block shm limit : Nat) (use : Nat → Use) (needs : List Need) : List (List Nat) → Option Fit
  | [] => none
  | p :: ps =>
    match placeTeams p block shm use [] needs with
    | some (cs, set) => if set.length ≤ limit then some { cores := cs, set := set } else firstFit block shm limit use needs ps
    | none => firstFit block shm limit use needs ps

/-- Where a candidate goes on cores that pass a test, when some teams are left out (R103, R114). -/
def State.fitOn (s : State) (c : Cand) (minus : List Nat) (keep : List Victim) (ok : Nat → Bool) : Option Fit :=
  let use := s.coreUse minus keep
  let basins := (tab 4 basin).map fun b => b.filter ok
  match s.task? c.task with
  | none => none
  | some k =>
    let span := recFld k.record 4 30 2 + 1
    let teams := c.teams.filterMap s.team?
    let needs := teams.map Team.need
    let blk := (teams.head?.map (·.block)).bind s.block?
    match c.kind with
    | .block _ =>
      firstFit s.hm.nextBlock (recFld k.record 4 32 16) span use (List.replicate k.tpb (recNeed k.record k.launch.queues)) basins
    | .alone =>
      let near := ((s.hm.teams.filter fun t => t.onCore && some t.block == blk.map (·.id)).map (·.core)).filter ok
      firstFit ((blk.map (·.id)).getD 0) 0 1 use needs (near.eraseDups :: basins)
    | .part => firstFit ((blk.map (·.id)).getD 0) 0 1 use needs [((blk.map (·.cores)).getD []).filter ok]
    | .whole => firstFit ((blk.map (·.id)).getD 0) ((blk.map (·.shm)).getD 0) span use needs basins

/-- Wakes the islands of a core that are in S2 or S3 (R20, R103). -/
def State.wakeCore (s : State) (c : Nat) : State :=
  (List.range 6).foldl (fun s i => nextOr s (execIslandWake (6 * c + i) s)) s

/-- When a candidate does not fit now but would with waking cores, the lowest-numbered of them wakes (R103). -/
def State.wakeFor (s : State) (c : Cand) (keep : List Victim) : State :=
  match s.fitOn c [] keep fun _ => true with
  | none => s
  | some f => match (f.set.filter fun k => !s.coreAwake k).foldr insertNat [] with | [] => s | k :: _ => s.wakeCore k

/-! ## Starting teams (R90, R100, R183) -/

/-- The next team number (R100): it skips 0 and the numbers still held. -/
def nextNumber (held : List Nat) : Nat → BitVec 32 → BitVec 32
  | 0, n => n
  | k + 1, n => if n = 0 ∨ held.contains n.toNat = true then nextNumber held k (n + 1) else n

/-- The execute-warp slots taken on a core, or the access-warp slots. -/
def State.slotsTaken (s : State) (core : Nat) (access : Bool) : List Nat :=
  (s.hm.teams.filter fun t => t.onCore && t.core == core).flatMap fun t =>
    (if access then t.warps.take 1 else t.warps.drop 1).map (·.wslot)

/-- The execute-warp slot that a warp takes (R183): in the partition with the fewest occupied slots, the lowest-numbered such. -/
def execSlot (taken : List Nat) : Nat :=
  let count (p : Nat) : Nat := (taken.filter fun x => x / 4 == p).length
  let p := (List.range 32).foldl (fun b p => if count p < count b then p else b) 0
  ((List.range 4).find? fun i => !taken.contains (4 * p + i)).getD 0 + 4 * p

/-- The slots of a team's execute warps, taken one after another. -/
def execSlots : Nat → List Nat → List Nat
  | 0, _ => []
  | n + 1, taken => execSlot taken :: execSlots n (execSlot taken :: taken)

/-- The slots of a team of `xw` execute warps on a core: its access warp's first. -/
def State.teamSlots (s : State) (core xw : Nat) : List Nat :=
  let a := s.slotsTaken core true
  (((List.range 64).find? fun i => !a.contains i).getD 0) :: execSlots xw (s.slotsTaken core false)

/-- An invalid window. -/
def Window.none : Window := { va := 0, pa := 0, limit := 0, write := false, replica := false, remote := Option.none, dom := false }

/-- THE STATE OF A WARP AT LAUNCH (R90). -/
def launchWarp (k : Task) (block team idx slot : Nat) : Warp :=
  let kreg (n : Nat) : Word :=
    match n with
    | 0 => word (recFld k.record 2 0 52)
    | 1 => word block
    | 2 => word team
    | 3 => if idx = 0 then BitVec.allOnes 64 else word (idx - 1)
    | 4 => word (recFld k.record 4 0 16)
    | _ => 0
  let pc := if idx = 0 then recFld k.record 1 0 32 else recFld k.record 1 32 32
  { ended := false, wslot := slot, hdr := (pc : Nat), slot := 0, clause := Option.none, resumed := false, elig := Option.none, spinning := false
    live := allLanes, m := allLanes, rpc := Option.none, pstack := [], cstack := [], frame := Option.none
    k := Vector.ofFn fun i => kreg i.val, p := Vector.replicate 8 0, a := Vector.replicate 64 0
    v := if idx = 0 then [] else List.replicate (32 * recFld k.record 4 24 6) VReg.fresh
    tc := Vector.replicate 16 0, tw := Vector.replicate 8 Window.none, tinfo := Vector.replicate 4 0, fflags := 0, amax := 0, matrix := false, gridWait := false
    retired := 0, repLeft := 0, code := Option.none, window := [], stall := Option.none, trap := Option.none, failed := [], recheck := false, others := [], begun := Option.none
    holdLd := [], holdSt := [], lastBar := [], wrote := [] }

/-- An empty queue of a descriptor (R81, R199). -/
def launchQueue (d : Word) : Queue :=
  let depth := fieldOf d 0 9
  { depth := depth, dir := match fieldOf d 9 2 with | 0 => .forward | 1 => .ret | _ => .engine
    producer := fieldOf d 11 3, owner := fieldOf d 14 2, head := 0, gens := List.replicate depth 0, entries := [] }

/-- No time lost (R206, Table 7.6). -/
def Lod.start : Lod := { events := 0, ns := 0, qfull := 0, pend := 0, inLoss := false }

/-- A team starts on a core (R90, R100). -/
def State.startTeam (s : State) (k : Task) (block idx team core : Nat) : State :=
  let held := s.hm.teams.map (·.num)
  let n := nextNumber held (held.length + 2) s.hm.teamCtr
  let slots := s.teamSlots core k.xw
  let now := s.memCount core
  let t : Team :=
    { num := n.toNat, task := k.id, block := block, index := team, core := core, st := .resident, draining := false, level := k.level, base := k.level, parks := []
      parkNs := 0, parkAt := 0, ranAt := now, deadAt := none, warps := slots.zipIdx.map fun x => launchWarp k idx team x.2 x.1
      queues := k.launch.queues.map launchQueue, fb := Vector.replicate 16 0, eseq := Vector.replicate 16 0, edone := Vector.replicate 16 0, cmds := []
      lod := Lod.start, waitSince := 0, saveRun := none, image := 0, flushed := false, faults := [], loads := [] }
  { s with hm := { s.hm with teams := s.hm.teams ++ [t], teamCtr := n + 1 } }

/-- A group at instance 0 (R82, R371). -/
def launchGroup (g : GroupDesc) : Group :=
  { gnum := g.gnum, xmask := g.xmask, amask := g.amask, emask := g.emask, results := [], arrived := [], held := [] }

/-- A block is placed: its regions zero, in ways that leave the cache of their cores, its groups filled, its teams started, an acquire at chip scope on every core of the set (R90, R97,
R102, R124, R178). -/
def State.placeBlock (s : State) (k : Task) (idx : Nat) (f : Fit) : State :=
  let id := s.hm.nextBlock
  let b : Block :=
    { id := id, task := k.id, index := idx, cores := f.set, shm := recFld k.record 4 32 16, shared := List.replicate f.set.length Ram.zero
      groups := k.launch.groups.map launchGroup, seq := id }
  let now := s.mgmt.count
  let step (k : Task) : Task :=
    let k := if k.back.isEmpty then { k with next := k.next + 1 } else { k with back := k.back.drop 1 }
    { k with everPlaced := true, since := now, st := if k.nextBlock.isNone then .placed else .partially }
  let s := { s with hm := { s.hm with blocks := s.hm.blocks ++ [b], nextBlock := id + 1 } }
  let s := f.set.foldl (fun s c => s.invalidateClean c) s
  let s := f.cores.zipIdx.foldl (fun s x => s.startTeam k id idx x.2 x.1) s
  (f.set.foldl (fun s c => s.fitL1 c) s).modTask k.id step

/-- Saved teams are being restored: each takes its core and its slots; a wholly saved block takes its new set (R114). -/
def State.restoreTeams (s : State) (c : Cand) (f : Fit) : State :=
  let s := match c.kind, (c.teams.head?).bind s.team? with
    | .whole, some t => s.modBlock t.block fun b => { b with cores := wholeSet b.cores f }
    | _, _ => s
  let s := (c.teams.zip f.cores).foldl (fun s x =>
    match s.team? x.1 with
    | none => s
    | some t =>
      let slots := s.teamSlots x.2 (t.warps.length - 1)
      s.setTeam { t with st := .restoring, core := x.2, warps := t.warps.zipIdx.map fun y => { y.1 with wslot := slots.getD y.2 0 } }) s
  f.set.foldl (fun s c => s.fitL1 c) s
where
  /-- The new set of a block that had more cores than its teams need now: as many cores as before, the further ones the first of the set again, so that every region keeps a
  place. -/
  wholeSet (old : List Nat) (f : Fit) : List Nat := f.set ++ List.replicate (old.length - f.set.length) (f.set.headD 0)

/-- The record of a task has been read from the record store at its home slices (R93, R129). -/
def State.recordRead (s : State) (t : Task) : State :=
  match t.slot with
  | none => s
  | some i => s.servedRun (s.slotAddr i) 64

/-- A team's image has been read from the save store at its home slices (R93, R129). -/
def State.imageRead (s : State) (t : Team) : State :=
  match t.saveRun with
  | some (a, n) => s.servedRun (s.hm.saveBase.toNat * 2 ^ 21 + a) n
  | none => s

/-- A candidate that fits is placed; a block whose record has been lost ends its task (R93). -/
def State.placeCand (s : State) (c : Cand) (f : Fit) : State :=
  match c.kind with
  | .block i => match s.task? c.task with | some k => if s.recordKept k then (s.recordRead k).placeBlock k i f else (s.recordRead k).loseTask k.id | none => s
  | _ => s.restoreTeams c f

/-! ## Placement and ageing (R102 to R104, R109) -/

/-- The ageing interval in ns (Table 4.1). -/
def State.ageNs (s : State) : Nat := max s.hm.ageUs.toNat 1 * 1000

/-- A victim as it is chosen. -/
def State.victimOf (s : State) (t : Team) : Victim :=
  { team := t.num, core := t.core, block := t.block, regs := t.need.regs, warps := t.need.warps, entries := t.need.entries
    shm := ((s.block? t.block).map (·.shm)).getD 0, freed := false }

/-- A team is chosen before another (R109): lowest level, then the most recently placed block, then the highest number. -/
def State.victimBefore (s : State) (a b : Team) : Bool :=
  let seq (t : Team) : Nat := ((s.block? t.block).map (·.seq)).getD 0
  if a.base ≠ b.base then a.base < b.base else if seq a ≠ seq b then seq b < seq a else b.num < a.num

/-- Inserts a team in the order of R109. -/
def State.insertVictim (s : State) (t : Team) : List Team → List Team
  | [] => [t]
  | x :: r => if s.victimBefore t x then t :: x :: r else x :: s.insertVictim t r

/-- The shortest run of eligible teams without which the head fits; none when all of them would not do (R109). -/
def State.pickVictims (s : State) (c : Cand) : List Team → List Team → Option (List Team)
  | _, [] => none
  | got, t :: r =>
    let got := got ++ [t]
    if (s.fitOn c (got.map (·.num)) [] fun _ => true).isSome then some got else s.pickVictims c got r

/-- The deadline of an automatic pre-emption: the head's hint less the time since its acceptance (R110). -/
def State.headLimit (s : State) (c : Cand) : Option Nat :=
  match s.task? c.task with
  | none => none
  | some k => if recFld k.record 6 32 32 = 0 then none else some (recFld k.record 6 32 32 * 1000 - (s.mgmt.count - k.accepted).toNat)

/-- Automatic pre-emption for the head, unless cores that wake give it room (R103, R109). -/
def State.autoPreempt (s : State) (c : Cand) : State :=
  let d := s.hm.pdelta.toNat
  if d = 0 ∨ s.hm.victims.any (fun v => !v.freed) = true ∨ c.level < d ∨ (s.fitOn c [] [] fun _ => true).isSome = true then s
  else
    let el := (s.hm.teams.filter fun t => t.preemptable && t.base + d ≤ c.level).foldr (fun t l => s.insertVictim t l) []
    match s.pickVictims c [] el with
    | none => s
    | some ts =>
      match s.preempt (ts.map (·.num)) { method := 0, limit := s.headLimit c } with
      | .error w => w
      | .ok s' =>
        let gone (n : Nat) : Bool := (s'.team? n).isNone
        let new := ts.map fun t => let v := s.victimOf t; { v with freed := gone v.team }
        { s' with hm := { s'.hm with victims := s'.hm.victims ++ new } }

/-- Backfill (R102): the first candidate after the head that fits beside what is reserved for the head. -/
def State.backfill (s : State) : List Cand → State
  | [] => s
  | c :: r =>
    match s.fitOn c [] s.hm.victims s.coreAwake with
    | some f => s.placeCand c f
    | none => (s.wakeFor c s.hm.victims).backfill r

/-- PLACEMENT (R102, R103, R109): the head is placed when it fits; else victims may be chosen for it and, while it is young, a later candidate that fits is placed. -/
def execPlacement (s : State) : Host.Outcome State Fault Refusal :=
  .next <|
    if s.mgmt.stage ≠ .running then s
    else
      match s.cands with
      | [] => { s with hm := { s.hm with head := none, victims := [] } }
      | h :: rest =>
        let s := match s.hm.head with
          | some (k, _) => if k = h.key then s else { s with hm := { s.hm with head := some (h.key, s.mgmt.count), victims := [] } }
          | none => { s with hm := { s.hm with head := some (h.key, s.mgmt.count), victims := [] } }
        match s.fitOn h [] [] s.coreAwake with
        | some f => let s := s.placeCand h f; { s with hm := { s.hm with head := none, victims := [] } }
        | none =>
          let age := match s.hm.head with | some (_, t) => (s.mgmt.count - t).toNat | none => 0
          let s := (s.autoPreempt h).wakeFor h []
          if age < s.ageNs then s.backfill rest else s

/-- AGEING (R104): the next block of a task, and each of its saved teams, that has waited the interval at its level rises one level. -/
def execAgeing (task : Nat) (s : State) : Host.Outcome State Fault Refusal :=
  .next <|
    let n := s.ageNs
    let due (level : Nat) (since : BitVec 64) : Bool := level < 16 && n ≤ (s.mgmt.count - since).toNat
    let s := s.modTask task fun k =>
      if k.cand.isSome && due k.level k.since then { k with level := k.level + 1, since := k.since + BitVec.ofNat 64 n } else k
    s.setTeams (s.hm.teams.map fun t =>
      if t.task = task ∧ t.st = .saved ∧ due t.level t.waitSince = true then { t with level := t.level + 1, waitSince := t.waitSince + BitVec.ofNat 64 n } else t)

/-! ## Saving and restoring (R112 to R114) -/

/-- A release at chip scope by a team (R178, R179): its core's dirty sectors are written back, and every store sent before is acknowledged; whether it is over, with the state. -/
def State.teamRelease (s : State) (t : Team) : Bool × State :=
  if t.flushed then ((t.warps.head?.map fun x => x.holdSt.isEmpty).getD true && s.links.apWrites.isEmpty, s)
  else
    let s := s.writeBackAll t.core
    let toks := (s.core t.core).unacked.map (·.tok)
    let s := (s.modTeam t.num fun t => { t with flushed := true }).modWarp { team := t.num, idx := 0 } fun x => { x with holdSt := toks }
    (toks.isEmpty && s.links.apWrites.isEmpty, s)

/-- The waits of R112, step 2: long-latency instructions, atomics begun, grid steps, Issued entries, engine commands at a suspension point, a collective till it has completed (R388). -/
def State.saveReady (s : State) (t : Team) : Bool :=
  t.warps.all (fun x => x.window.all (·.done) && (match x.begun with | some (.atomic _ left _ _ _) => left == 0 | _ => true) && x.trap.isNone) &&
    !((s.core t.core).parts.toList.any fun p => p.ops.any fun o => o.w.team == t.num) &&
    t.queues.all (fun q => q.entries.all fun e => e.st != .issued) &&
    t.cmds.all fun c => match c.st with | .running _ => c.suspended | .finished _ _ _ | .arrived _ _ _ => c.e != 3 | _ => true

/-- A warp as its image keeps it: outside its live set a vector register holds the marker and an `a` register 0 (R112). -/
def Warp.saved (x : Warp) (access : Bool) (live : Option (List (Nat × Nat))) : Warp :=
  { x with
    v := if access then x.v else x.v.zipIdx.map fun r => if isLive live x r.2 then r.1 else VReg.fresh
    a := if access then Vector.ofFn fun i => if isLive live x i.val then vget x.a i.val 0 else 0 else x.a
    clause := none, resumed := x.resumed || x.clause.isSome, elig := none, gridWait := false, stall := none, code := none, window := [], holdSt := []
    begun := match x.begun with | some (.load _) => none | b => b }

/-- The image numbered `no` (R113): magic and version, the rest in the device's own layout. -/
def imageBytes (no size : Nat) : List Byte := [0x4f#8, 0x4d#8, 0x42#8, 0x53#8] ++ leBytes 2 1 ++ tab (size - 6) (Config.imageByte no)

/-- A load whose entry is Pending: it is kept in an image, whether its faults have resolved or not (R208). -/
def Team.keepsLoad (t : Team) (l : PendLoad) : Bool :=
  match l.dst with
  | .entry q slot g =>
    l.w.team == t.num && (match t.queues[q]? with
      | none => false
      | some y => ((y.find slot g).bind fun i => y.entries[i]?).any fun e => e.st == .pending)
  | _ => false

/-- The address of a run of the save store (R93). -/
def State.imageAddr (s : State) (a : Nat) : Nat := s.hm.saveBase.toNat * 2 ^ 21 + a

/-- A saved team's image stands unchanged in the save store (R93). -/
def State.imageKept (s : State) (t : Team) : Bool :=
  match t.saveRun with
  | none => true
  | some (a, n) => decide (a + n ≤ s.saveStore) && s.mem.ram.bytes (s.imageAddr a) n == imageBytes t.image n && !s.mem.ram.poisonedIn (s.imageAddr a) n

/-- SAVE_COMPLETE (R112, R113): once the waits are over and the release has been made, the image is written to its run and the team's resources are free. -/
def execSaveComplete (team : Nat) (s : State) : Host.Outcome State Fault Refusal :=
  .next <|
    match s.team? team with
    | none => s
    | some t =>
      if t.st ≠ .saving ∨ s.saveReady t = false then s
      else
        match s.teamRelease t with
        | (false, s) => s
        | (true, s) =>
          match s.liveSets t with
          | .wait s => s
          | .sets ls =>
            let s := s.liveServed t
            let size := s.saveSize t ls
            let level := ((s.task? t.task).map (·.level)).getD t.level
            let (no, s) := s.takeTok
            let s := match t.saveRun with | some r => s.homeWrite (cellsAt (s.imageAddr r.1) (imageBytes no size)) | none => s
            let t' : Team := { t with
              st := .saved, level := level, waitSince := s.mgmt.count, flushed := false, image := no
              saveRun := t.saveRun.map fun r => (r.1, size), faults := (s.faultsOf t).filterMap FaultSlot.unwalked
              loads := (s.core t.core).loads.filter t.keepsLoad
              warps := (t.warps.zip ls).zipIdx.map fun x => x.1.1.saved (x.2 == 0) x.1.2 }
            let s := (s.modCore t.core fun c => (c.withdraw fun j => j.ofTeam c team && !j.ofWalks team).leaveTeam team).setTeam t'
            let s := { s with hm := { s.hm with victims := s.hm.victims.map fun (v : Victim) => if v.team = team then { v with freed := true } else v } }
            s.doneReading (.save team)

/-- The access of something other than a load that has joined a fault (R150). -/
def Joined.acc : Joined → Option Acc
  | .load _ => none
  | .warp _ a | .cmd _ _ _ a | .walk _ _ _ a => some a
  | .fetch _ => some .load

/-- The pages on which the accesses of a saved team fault now on its new core. -/
def State.restorePages (s : State) (t : Team) : List Page :=
  let pages := (t.loads.filter fun l => l.bad.isEmpty).flatMap fun l => l.accs.filterMap fun a =>
    match s.checkTlb (s.accSpace l a) .load a.va a.size with | .error (.fault p _) => some p | _ => none
  let held := t.faults.filterMap fun f =>
    if f.joined.any (fun j => (j.acc.bind (s.stillFaults t.core f t.num)).isSome) then some f.page else none
  ((pages ++ held).eraseDups).filter fun p => ((s.core t.core).faults.toList.all fun f => match f with | some f => f.page != p | none => true)

/-- No page. -/
def Page.none : Page := { va := 2 ^ 60, big := false }

/-- A pending load of a saved team begins anew under a new token (R208); one that had failed before the save was over stays failed, and its entry is delivered Poisoned (R117). -/
def State.restoreLoad (s : State) (t : Team) (l : PendLoad) : State :=
  let (tok, s) := s.takeTok
  let l' : PendLoad :=
    if l.bad.isEmpty then
      { l with tok := tok, need := [], data := 0, faulted := l.accs, later := [], gather := l.gather.map fun g => { g with core := t.core, tok := tok } }
    else { l with tok := tok, need := [], faulted := [], later := [], gather := none }
  let swap (k : Nat) : Nat := if k = l.tok then tok else k
  let s := s.modCore t.core fun c => { c with loads := c.loads ++ [l'] }
  let s := s.modTeam t.num fun t => { t with
    cmds := t.cmds.map fun c => { c with after := c.after.map swap }
    warps := t.warps.map fun x => { x with holdLd := x.holdLd.map swap } }
  ((l'.faulted.foldl (fun s a => (s.retryAcc t.core tok Page.none a).1) s).performLater t.core tok Page.none).1

/-- What else had joined a saved team's fault is checked again on the new core: it joins it there, or goes on (R114, R151, R208). -/
def State.restoreFault (s : State) (t : Team) (f : FaultSlot) : State :=
  f.joined.foldl (fun s j =>
    match j.acc with
    | none => s
    | some a =>
      match s.stillFaults t.core f t.num a with
      | some k =>
        (match s.raiseFault { core := t.core, asid := f.asid, leased := [], demand := [] } t.num f.page k j with
        | some (_, s) => s
        | none => s)
      | none =>
        match j with
        | .cmd a e q _ => s.modCmd a e q fun x => { x with holding := false }
        | .warp w _ => s.modWarp w fun x => { x with recheck := true }
        | _ => s) s

/-- The conditions of a restored team, with the identifiers of its faults on the new core (R107, R114). -/
def State.restoreParks (s : State) (t : Team) : List ParkCond :=
  t.parks.filterMap fun p =>
    if p.reason = 3 then some p
    else
      ((List.range 32).find? fun i =>
        match s.faultAt t.core i with
        | some f => word f.page.va == p.code && f.joined.any (Joined.ofTeam (s.core t.core) t.num)
        | none => false).map fun i => { p with fid := 32 * t.core + i }

/-- A warp in matrix mode claims the grid of its new partition again (R114, R210). -/
def State.reclaimGrid (s : State) (t : Team) : State :=
  t.warps.zipIdx.foldl (fun s x =>
    if x.1.matrix = false then s
    else
      let w : WarpId := { team := t.num, idx := x.2 }
      let p := (s.core t.core).part x.1.partOf
      if p.grid.isNone && p.waiters.isEmpty then s.modPart t.core x.1.partOf fun p => { p with grid := some w }
      else (s.modPart t.core x.1.partOf fun p => { p with waiters := p.waiters ++ [w] }).modWarp w fun y => { y with gridWait := true }) s

/-- The windows of a restored team, filled again from their bases (R114, R147). -/
def State.refillWindows (s : State) (t : Team) : State :=
  s.modWarp { team := t.num, idx := 0 } fun x =>
    { x with tw := x.tw.map fun (w : Window) => if w.remote.isSome then w else s.fillWindow (s.spaceOf t.num) w.dom w.va }

/-- RESTORE_COMPLETE (R93, R114): the image has been loaded, or the task ends when it has been lost; with too few fault slots free on the new core for what still faults, the team waits (R150). -/
def execRestoreComplete (team : Nat) (s : State) : Host.Outcome State Fault Refusal :=
  .next <|
    match s.team? team with
    | none => s
    | some t =>
      let free := ((s.core t.core).faults.toList.filter Option.isNone).length
      if t.st ≠ .restoring ∨ (free < (s.restorePages t).length ∧ free < 32) then s
      else if s.imageKept t = false then (s.imageRead t).loseTask t.task
      else
        let s := s.imageRead t
        let s := (s.refillWindows t).invalidateClean t.core
        let s := s.reclaimGrid t
        let s := t.loads.foldl (fun s l => s.restoreLoad t l) s
        let s := t.faults.foldl (fun s f => s.restoreFault t f) s
        let parks := s.restoreParks t
        s.modTeam team fun x => { x with
          parks := parks, st := if parks.isEmpty then .resident else .parked, parkNs := if parks.isEmpty then 0 else x.parkNs, parkAt := s.mgmt.count
          ranAt := s.memCount x.core - x.ranAt, saveRun := none, faults := [], loads := [] }

/-! ## Parking (R105 to R107) -/

/-- The condition that a pop of the entry at a position of a queue gives while that entry is Pending and its fault is outstanding (R105, R150). -/
def State.pendingCond (s : State) (t : Team) (q pos : Nat) : Option ParkCond :=
  match t.queues[q]? with
  | none => none
  | some y =>
    if y.stAt pos = some .pending then
      ((s.core t.core).loads.find? fun l => l.w.team == t.num && l.dst == .entry q (y.slotOf pos) (y.gen (y.slotOf pos))).bind fun l =>
        ((List.range 32).find? fun i => match s.faultAt t.core i with | some f => f.joined.contains (.load l.tok) | none => false).bind fun i =>
          (s.faultAt t.core i).map fun f => { reason := 0, fid := 32 * t.core + i, code := word f.page.va }
    else none

/-- The condition that a warp's stall gives (R105): a demand fault of its own, or a Pending head whose fault is outstanding. -/
def State.parkCond (s : State) (t : Team) (idx : Nat) (x : Warp) : Option ParkCond :=
  match x.stall with
  | some (.fault core slot reason) =>
    if core ≠ t.core then none else (s.faultAt core slot).map fun f => { reason := reason, fid := 32 * core + slot, code := word f.page.va }
  | some y => if idx = 0 then none else y.pop?.bind fun p => s.pendingCond t p.1 p.2
  | none => none

/-- PARK_TEAM (R105, R106, R117): the first condition that has arisen and is not yet one of the team's; one that meets a save is kept in the image. -/
def execParkTeam (team : Nat) (s : State) : Host.Outcome State Fault Refusal :=
  .next <|
    match s.team? team with
    | none => s
    | some t =>
      if t.st ≠ .resident ∧ t.st ≠ .parked ∧ t.st ≠ .saving then s
      else
        match (t.warps.zipIdx.filterMap fun x => s.parkCond t x.2 x.1).find? fun p => !t.parks.contains p with
        | some p => s.addPark team p
        | none => s

/-- PARK_TIMEOUT (R107): every outstanding fault fails for the team's accesses; a reason 3 condition clears, the access warp going on at parkh with k63 the header that follows, or
the team is killed. -/
def execParkTimeout (team : Nat) (s : State) : Host.Outcome State Fault Refusal :=
  .next <|
    match s.team? team with
    | none => s
    | some t =>
      if s.parkDue t = false then s
      else
        let parkh := ((s.task? t.task).map (·.launch.parkh)).getD 0
        let three := t.parks.any fun p => p.reason == 3
        if three ∧ parkh = 0 then s.endTeam team .killed
        else
          let s := (List.range 32).foldl (fun s i =>
            match s.faultAt t.core i with
            | none => s
            | some f => s.failFault t.core i f (Joined.ofTeam (s.core t.core) team)) s
          let s := if three then
              (s.modWarp { team := team, idx := 0 } fun x => { x.goto (parkh : Nat) with k := vset x.k 63 (word (x.hdr % 2 ^ 32).toNat) }).modTeam team
                fun t => t.clearParks fun p => p.reason != 3
            else s
          s.settleParks

/-! ## Retirement (R178, R286, R387) -/

/-- The spawn commands of a team that retires are still to be accepted (R99, R387). -/
def State.leaveSpawns (s : State) (t : Team) : State :=
  match s.task? t.task with
  | none => s
  | some k =>
    let left := t.cmds.filter fun c => c.e == 4
    { s with hm := { s.hm with conts := s.hm.conts ++ left.map fun c => (k.area, k.asid.toNat, k.index, some c.q) } }

/-- TEAM_RETIRE (R286, R387): every warp has ended, the commands on queues 0 to 3 and 8 to 15 have completed, and the release at chip scope has been made. -/
def execTeamRetire (team : Nat) (s : State) : Host.Outcome State Fault Refusal :=
  .next <|
    match s.team? team with
    | none => s
    | some t =>
      if t.st ≠ .resident ∨ t.warps.all (·.ended) = false ∨ t.cmds.any (fun c => c.e != 4) = true then s
      else
        match s.teamRelease t with
        | (false, s) => s
        | (true, s) => (s.leaveSpawns t).endTeam team .retired

/-! ## Spawned records and continuations (R96, R98, R99, R410) -/

/-- SPAWN_RECORD (R99, R410): the record at the head of a team's queue 4. -/
def execSpawnRecord (team : Nat) (s : State) : Host.Outcome State Fault Refusal :=
  .next <|
    match s.team? team with
    | none => s
    | some t =>
      match t.head 4, s.task? t.task with
      | some c, some k =>
        if s.afterDone t c = false then s
        else
          let rd : Reader := .spawn team c.seq
          let n := s.newTask c.q k.area k.index k.asid true Launch.none
          let done (s : State) : State := ((s.recordServed rd k.area k.asid c.q).complete t c).doneReading rd
          (match s.checkRecord rd k.area k.asid c.q with
          | .wait s => s
          | .noop => (done s).endRecord n 0 0
          | .refused w => (done s).endRecord n 1 w
          | .ok x => if s.recRoom true then (done s).accept { n with launch := x.launch } x else s)
      | _, _ => s

/-- CONTINUATION_ACCEPT (R98): the first continuation that waits; one that could not be read is refused with cause 3 and cookie 0. -/
def execContinuationAccept (s : State) : Host.Outcome State Fault Refusal :=
  .next <|
    match s.hm.conts with
    | [] => s
    | (area, asid, index, r) :: rest =>
      let drop (s : State) : State := ({ s with hm := { s.hm with conts := rest } }).doneReading .cont
      match r with
      | none => (drop s).cplFinish area { bytes := cplEntry 0 1 3 index 0 0 0, now := true }
      | some q =>
        let n := s.newTask q area index (BitVec.ofNat 12 asid) true Launch.none
        let drop (s : State) : State := drop (s.recordServed .cont area (BitVec.ofNat 12 asid) q)
        (match s.checkRecord .cont area (BitVec.ofNat 12 asid) q with
        | .wait s => s
        | .noop => (drop s).endRecord n 0 0
        | .refused w => (drop s).endRecord n 1 w
        | .ok x => if s.recRoom true then (drop s).accept { n with launch := x.launch } x else s)

end Sys2Proof.Machine
end

