-- ==== Sys2Proof/Machine/VectorInt.lean ====
section
/-! DEFINITION. The vector integer instructions (10: R293, R294, Table 10.4). -/

namespace Sys2Proof.Machine

/-- `vadd` (Table 10.4). -/
def execVadd (f : Alu2) (s : State) : Host.Outcome State Fault Refusal :=
  s.intOp (elem2 f false) (bin iAdd)

/-- `vsub` (Table 10.4). -/
def execVsub (f : Alu2) (s : State) : Host.Outcome State Fault Refusal :=
  s.intOp (elem2 f false) (bin iSub)

/-- `vmul` (Table 10.4). -/
def execVmul (f : Alu2) (s : State) : Host.Outcome State Fault Refusal :=
  s.intOp (elem2 f false) (bin iMul)

/-- `vmulh` (Table 10.4). -/
def execVmulh (f : Alu2) (s : State) : Host.Outcome State Fault Refusal :=
  s.intOp (elem2 f false) (bin iMulh)

/-- `vmad` (Table 10.4). -/
def execVmad (f : Alu3) (s : State) : Host.Outcome State Fault Refusal :=
  s.intOp (elem3 f false) (tern iMad)

/-- `vdiv` (Table 10.4). -/
def execVdiv (f : Alu2) (s : State) : Host.Outcome State Fault Refusal :=
  s.intOp (elem2 f false) (bin iDiv)

/-- `vadds` (Table 10.4). -/
def execVadds (f : Alu2) (s : State) : Host.Outcome State Fault Refusal :=
  s.intOp (elem2 f false) (bin iAdds)

/-- `vsubs` (Table 10.4). -/
def execVsubs (f : Alu2) (s : State) : Host.Outcome State Fault Refusal :=
  s.intOp (elem2 f false) (bin iSubs)

/-- `vmin` (Table 10.4). -/
def execVmin (f : Alu2) (s : State) : Host.Outcome State Fault Refusal :=
  s.intOp (elem2 f false) (bin iMin)

/-- `vmax` (Table 10.4). -/
def execVmax (f : Alu2) (s : State) : Host.Outcome State Fault Refusal :=
  s.intOp (elem2 f false) (bin iMax)

/-- `vabs` (Table 10.4). -/
def execVabs (f : Alu1) (s : State) : Host.Outcome State Fault Refusal :=
  s.intOp (elem1 f false) (un iAbs)

/-- `vneg` (Table 10.4). -/
def execVneg (f : Alu1) (s : State) : Host.Outcome State Fault Refusal :=
  s.intOp (elem1 f false) (un iNeg)

/-- `vand` (Table 10.4). -/
def execVand (f : Alu2) (s : State) : Host.Outcome State Fault Refusal :=
  s.intOp (elem2 f false) (bin iAnd)

/-- `vor` (Table 10.4). -/
def execVor (f : Alu2) (s : State) : Host.Outcome State Fault Refusal :=
  s.intOp (elem2 f false) (bin iOr)

/-- `vxor` (Table 10.4). -/
def execVxor (f : Alu2) (s : State) : Host.Outcome State Fault Refusal :=
  s.intOp (elem2 f false) (bin iXor)

/-- `vnot` (Table 10.4). -/
def execVnot (f : Alu1) (s : State) : Host.Outcome State Fault Refusal :=
  s.intOp (elem1 f false) (un iNot)

/-- `vshl` (Table 10.4). -/
def execVshl (f : Alu2) (s : State) : Host.Outcome State Fault Refusal :=
  s.intOp (elem2 f false) (bin iShl)

/-- `vshr` (Table 10.4). -/
def execVshr (f : Alu2) (s : State) : Host.Outcome State Fault Refusal :=
  s.intOp (elem2 f false) (bin iShr)

/-- `vsar` (Table 10.4). -/
def execVsar (f : Alu2) (s : State) : Host.Outcome State Fault Refusal :=
  s.intOp (elem2 f false) (bin iSar)

/-- `vrot` (Table 10.4). -/
def execVrot (f : Alu2) (s : State) : Host.Outcome State Fault Refusal :=
  s.intOp (elem2 f false) (bin iRot)

/-- `vclz` (Table 10.4). -/
def execVclz (f : Alu1) (s : State) : Host.Outcome State Fault Refusal :=
  s.intOp (elem1 f false) (un iClz)

/-- `vpopc` (Table 10.4). -/
def execVpopc (f : Alu1) (s : State) : Host.Outcome State Fault Refusal :=
  s.intOp (elem1 f false) (un iPopc)

/-- `vcmp` (R292, R294). -/
def execVcmp (f : AluCmp) (s : State) : Host.Outcome State Fault Refusal :=
  s.compare { ty := f.ty, d := f.d, us := [⟨f.a, false⟩, ⟨f.b, false⟩], cc := f.cc, g := f.g, uni := f.uni } f.any
    fun xs => (iCond f.cond.toNat (intVal f.ty (arg xs 0)) (intVal f.ty (arg xs 1)), 0)

/-- `vsel` (Table 10.4). -/
def execVsel (f : Alu3) (s : State) : Host.Outcome State Fault Refusal :=
  s.intOp (elem3 f false) (tern iSel)

/-- `vmov` (Table 10.4): the whole lane; the type only converts a special (R259). -/
def execVmov (f : Alu1) (s : State) : Host.Outcome State Fault Refusal :=
  s.elementwise (elem1 f false) fun xs => (xs.getD 0 0, 0)

/-- `vmovi` (R291): the immediate in every sub-element. -/
def execVmovi (f : AluImm) (s : State) : Host.Outcome State Fault Refusal :=
  s.intOp (elemI f) fun ty _ => immVal ty f.imm

end Sys2Proof.Machine
end

