-- ==== Sys2Proof/Machine/Dispatch.lean ====
section
/-! DEFINITION. The dispatch: one arm per instruction or event, each one direct call of its meaning. -/

namespace Sys2Proof.Machine

def exec (i : Instr) (s : State) : Host.Outcome State Fault Refusal :=
  match i with
  | .bra f => Sys2Proof.Machine.execBra f s
  | .brc f => Sys2Proof.Machine.execBrc f s
  | .call f => Sys2Proof.Machine.execCall f s
  | .ret g => Sys2Proof.Machine.execRet g s
  | .jmpi f => Sys2Proof.Machine.execJmpi f s
  | .loop f => Sys2Proof.Machine.execLoop f s
  | .exit g => Sys2Proof.Machine.execExit g s
  | .yield g => Sys2Proof.Machine.execYield g s
  | .spin g => Sys2Proof.Machine.execSpin g s
  | .reconv g => Sys2Proof.Machine.execReconv g s
  | .nop g => Sys2Proof.Machine.execNop g s
  | .rep f => Sys2Proof.Machine.execRep f s
  | .trap f => Sys2Proof.Machine.execTrap f s
  | .bpt f => Sys2Proof.Machine.execBpt f s
  | .eret g => Sys2Proof.Machine.execEret g s
  | .kmov f => Sys2Proof.Machine.execKmov f s
  | .kmovi f => Sys2Proof.Machine.execKmovi f s
  | .kadd f => Sys2Proof.Machine.execKadd f s
  | .ksub f => Sys2Proof.Machine.execKsub f s
  | .kmul f => Sys2Proof.Machine.execKmul f s
  | .kmad f => Sys2Proof.Machine.execKmad f s
  | .kdiv f => Sys2Proof.Machine.execKdiv f s
  | .kmod f => Sys2Proof.Machine.execKmod f s
  | .kand f => Sys2Proof.Machine.execKand f s
  | .kor f => Sys2Proof.Machine.execKor f s
  | .kxor f => Sys2Proof.Machine.execKxor f s
  | .kshl f => Sys2Proof.Machine.execKshl f s
  | .kshr f => Sys2Proof.Machine.execKshr f s
  | .ksar f => Sys2Proof.Machine.execKsar f s
  | .kcmp f => Sys2Proof.Machine.execKcmp f s
  | .ksel f => Sys2Proof.Machine.execKsel f s
  | .kmin f => Sys2Proof.Machine.execKmin f s
  | .kmax f => Sys2Proof.Machine.execKmax f s
  | .kclz f => Sys2Proof.Machine.execKclz f s
  | .kpopc f => Sys2Proof.Machine.execKpopc f s
  | .vadd f => Sys2Proof.Machine.execVadd f s
  | .vsub f => Sys2Proof.Machine.execVsub f s
  | .vmul f => Sys2Proof.Machine.execVmul f s
  | .vmulh f => Sys2Proof.Machine.execVmulh f s
  | .vmad f => Sys2Proof.Machine.execVmad f s
  | .vdiv f => Sys2Proof.Machine.execVdiv f s
  | .vadds f => Sys2Proof.Machine.execVadds f s
  | .vsubs f => Sys2Proof.Machine.execVsubs f s
  | .vmin f => Sys2Proof.Machine.execVmin f s
  | .vmax f => Sys2Proof.Machine.execVmax f s
  | .vabs f => Sys2Proof.Machine.execVabs f s
  | .vneg f => Sys2Proof.Machine.execVneg f s
  | .vand f => Sys2Proof.Machine.execVand f s
  | .vor f => Sys2Proof.Machine.execVor f s
  | .vxor f => Sys2Proof.Machine.execVxor f s
  | .vnot f => Sys2Proof.Machine.execVnot f s
  | .vshl f => Sys2Proof.Machine.execVshl f s
  | .vshr f => Sys2Proof.Machine.execVshr f s
  | .vsar f => Sys2Proof.Machine.execVsar f s
  | .vrot f => Sys2Proof.Machine.execVrot f s
  | .vclz f => Sys2Proof.Machine.execVclz f s
  | .vpopc f => Sys2Proof.Machine.execVpopc f s
  | .vcmp f => Sys2Proof.Machine.execVcmp f s
  | .vsel f => Sys2Proof.Machine.execVsel f s
  | .vmov f => Sys2Proof.Machine.execVmov f s
  | .vmovi f => Sys2Proof.Machine.execVmovi f s
  | .rgn f => Sys2Proof.Machine.execRgn f s
  | .rgrow f => Sys2Proof.Machine.execRgrow f s
  | .rshrink f => Sys2Proof.Machine.execRshrink f s
  | .vmovx f => Sys2Proof.Machine.execVmovx f s
  | .vstx f => Sys2Proof.Machine.execVstx f s
  | .rkill f => Sys2Proof.Machine.execRkill f s
  | .vfadd f => Sys2Proof.Machine.execVfadd f s
  | .vfsub f => Sys2Proof.Machine.execVfsub f s
  | .vfmul f => Sys2Proof.Machine.execVfmul f s
  | .vfma f => Sys2Proof.Machine.execVfma f s
  | .vfms f => Sys2Proof.Machine.execVfms f s
  | .vfnma f => Sys2Proof.Machine.execVfnma f s
  | .vfmin f => Sys2Proof.Machine.execVfmin f s
  | .vfmax f => Sys2Proof.Machine.execVfmax f s
  | .vfabs f => Sys2Proof.Machine.execVfabs f s
  | .vfneg f => Sys2Proof.Machine.execVfneg f s
  | .vfcmp f => Sys2Proof.Machine.execVfcmp f s
  | .vfclass f => Sys2Proof.Machine.execVfclass f s
  | .vfrcp f => Sys2Proof.Machine.execVfrcp f s
  | .vfrsq f => Sys2Proof.Machine.execVfrsq f s
  | .vfsqrt f => Sys2Proof.Machine.execVfsqrt f s
  | .vfdiv f => Sys2Proof.Machine.execVfdiv f s
  | .vfexp2 f => Sys2Proof.Machine.execVfexp2 f s
  | .vflog2 f => Sys2Proof.Machine.execVflog2 f s
  | .vfsin f => Sys2Proof.Machine.execVfsin f s
  | .vfcos f => Sys2Proof.Machine.execVfcos f s
  | .vftanh f => Sys2Proof.Machine.execVftanh f s
  | .vfsig f => Sys2Proof.Machine.execVfsig f s
  | .vcvt f => Sys2Proof.Machine.execVcvt f s
  | .vcvti f => Sys2Proof.Machine.execVcvti f s
  | .vcvtf f => Sys2Proof.Machine.execVcvtf f s
  | .vqnt f => Sys2Proof.Machine.execVqnt f s
  | .vdqnt f => Sys2Proof.Machine.execVdqnt f s
  | .amaxr f => Sys2Proof.Machine.execAmaxr f s
  | .amaxc g => Sys2Proof.Machine.execAmaxc g s
  | .vshfl f => Sys2Proof.Machine.execVshfl f s
  | .vbcast f => Sys2Proof.Machine.execVbcast f s
  | .vperm f => Sys2Proof.Machine.execVperm f s
  | .vpack f => Sys2Proof.Machine.execVpack f s
  | .vunpk f => Sys2Proof.Machine.execVunpk f s
  | .vred f => Sys2Proof.Machine.execVred f s
  | .vscan f => Sys2Proof.Machine.execVscan f s
  | .vtopk f => Sys2Proof.Machine.execVtopk f s
  | .vballot f => Sys2Proof.Machine.execVballot f s
  | .vmatch f => Sys2Proof.Machine.execVmatch f s
  | .mmodeOn => Sys2Proof.Machine.execMmodeOn s
  | .mmodeOff => Sys2Proof.Machine.execMmodeOff s
  | .tcset f => Sys2Proof.Machine.execTcset f s
  | .tcget f => Sys2Proof.Machine.execTcget f s
  | .mzero f => Sys2Proof.Machine.execMzero f s
  | .mxacc f => Sys2Proof.Machine.execMxacc f s
  | .mxsub f => Sys2Proof.Machine.execMxsub f s
  | .mnorm f => Sys2Proof.Machine.execMnorm f s
  | .mcvt f => Sys2Proof.Machine.execMcvt f s
  | .mrmask f => Sys2Proof.Machine.execMrmask f s
  | .mexp f => Sys2Proof.Machine.execMexp f s
  | .mexpTo f => Sys2Proof.Machine.execMexpTo f s
  | .wset f => Sys2Proof.Machine.execWset f s
  | .winv f => Sys2Proof.Machine.execWinv f s
  | .ldq f => Sys2Proof.Machine.execLdq f s
  | .lda f => Sys2Proof.Machine.execLda f s
  | .sta f => Sys2Proof.Machine.execSta f s
  | .stq f => Sys2Proof.Machine.execStq f s
  | .lds f => Sys2Proof.Machine.execLds f s
  | .sts f => Sys2Proof.Machine.execSts f s
  | .ldacq f => Sys2Proof.Machine.execLdacq f s
  | .strel f => Sys2Proof.Machine.execStrel f s
  | .atom f => Sys2Proof.Machine.execAtom f s
  | .atomq f => Sys2Proof.Machine.execAtomq f s
  | .redl2 f => Sys2Proof.Machine.execRedl2 f s
  | .gatl2 f => Sys2Proof.Machine.execGatl2 f s
  | .mcast f => Sys2Proof.Machine.execMcast f s
  | .rld f => Sys2Proof.Machine.execRld f s
  | .pref f => Sys2Proof.Machine.execPref f s
  | .cflushL1 f => Sys2Proof.Machine.execCflushL1 f s
  | .cflushL2 f => Sys2Proof.Machine.execCflushL2 f s
  | .scopy f => Sys2Proof.Machine.execScopy f s
  | .fence f => Sys2Proof.Machine.execFence f s
  | .iinv f => Sys2Proof.Machine.execIinv f s
  | .isync g => Sys2Proof.Machine.execIsync g s
  | .l1res f => Sys2Proof.Machine.execL1res f s
  | .tide f => Sys2Proof.Machine.execTide f s
  | .fbset f => Sys2Proof.Machine.execFbset f s
  | .qpush f => Sys2Proof.Machine.execQpush f s
  | .qpop f => Sys2Proof.Machine.execQpop f s
  | .qdrop f => Sys2Proof.Machine.execQdrop f s
  | .qflush f => Sys2Proof.Machine.execQflush f s
  | .qstat f => Sys2Proof.Machine.execQstat f s
  | .qwait f => Sys2Proof.Machine.execQwait f s
  | .bar f => Sys2Proof.Machine.execBar f s
  | .bara f => Sys2Proof.Machine.execBara f s
  | .barw f => Sys2Proof.Machine.execBarw f s
  | .ewait f => Sys2Proof.Machine.execEwait f s
  | .sysr f => Sys2Proof.Machine.execSysr f s
  | .sysw f => Sys2Proof.Machine.execSysw f s
  | .park f => Sys2Proof.Machine.execPark f s
  | .cnt f => Sys2Proof.Machine.execCnt f s
  | .push f => Sys2Proof.Machine.execPush f s
  | .spawn f => Sys2Proof.Machine.execSpawn f s
  | .xend => Sys2Proof.Machine.execXend s
  | .xli d i1 => Sys2Proof.Machine.execXli d i1 s
  | .xlsh d i1 => Sys2Proof.Machine.execXlsh d i1 s
  | .xadd d a b i1 => Sys2Proof.Machine.execXadd d a b i1 s
  | .xsub d a b => Sys2Proof.Machine.execXsub d a b s
  | .xmul d a b => Sys2Proof.Machine.execXmul d a b s
  | .xand d a b => Sys2Proof.Machine.execXand d a b s
  | .xshl d a n => Sys2Proof.Machine.execXshl d a n s
  | .xshr d a n => Sys2Proof.Machine.execXshr d a n s
  | .xpopc d a => Sys2Proof.Machine.execXpopc d a s
  | .xld d a z i1 => Sys2Proof.Machine.execXld d a z i1 s
  | .xbr c a b i1 => Sys2Proof.Machine.execXbr c a b i1 s
  | .xblk i1 => Sys2Proof.Machine.execXblk i1 s
  | .xput d a b i1 => Sys2Proof.Machine.execXput d a b i1 s
  | .xmask a => Sys2Proof.Machine.execXmask a s
  | .xchk a b => Sys2Proof.Machine.execXchk a b s
  | .xemit a => Sys2Proof.Machine.execXemit a s
  | .pend n => Sys2Proof.Machine.execPend n s
  | .pli d i1 => Sys2Proof.Machine.execPli d i1 s
  | .padd d a b i1 => Sys2Proof.Machine.execPadd d a b i1 s
  | .psub d a b => Sys2Proof.Machine.execPsub d a b s
  | .pmul d a b => Sys2Proof.Machine.execPmul d a b s
  | .pand d a b => Sys2Proof.Machine.execPand d a b s
  | .pxor d a b => Sys2Proof.Machine.execPxor d a b s
  | .pshr d a n => Sys2Proof.Machine.execPshr d a n s
  | .pshl d a n => Sys2Proof.Machine.execPshl d a n s
  | .pld d z o => Sys2Proof.Machine.execPld d z o s
  | .pldx d a z o => Sys2Proof.Machine.execPldx d a z o s
  | .pbr c a b i1 => Sys2Proof.Machine.execPbr c a b i1 s
  | .pnext a => Sys2Proof.Machine.execPnext a s
  | .pwr a z o => Sys2Proof.Machine.execPwr a z o s
  | .islandIdleEntry island => Sys2Proof.Machine.execIslandIdleEntry island s
  | .islandWake island => Sys2Proof.Machine.execIslandWake island s
  | .islandWakeComplete island => Sys2Proof.Machine.execIslandWakeComplete island s
  | .bringupStep hbmOk => Sys2Proof.Machine.execBringupStep hbmOk s
  | .apertureCompletion tag c => Sys2Proof.Machine.execApertureCompletion tag c s
  | .completionTimeout tag => Sys2Proof.Machine.execCompletionTimeout tag s
  | .retransmitTimer packet => Sys2Proof.Machine.execRetransmitTimer packet s
  | .domainAck tag old bad => Sys2Proof.Machine.execDomainAck tag old bad s
  | .domainNack tag => Sys2Proof.Machine.execDomainNack tag s
  | .rldReply tag data bad => Sys2Proof.Machine.execRldReply tag data bad s
  | .recordFetch area => Sys2Proof.Machine.execRecordFetch area s
  | .leaseWalk area id => Sys2Proof.Machine.execLeaseWalk area id s
  | .msixMessage area => Sys2Proof.Machine.execMsixMessage area s
  | .restoreComplete team => Sys2Proof.Machine.execRestoreComplete team s
  | .ageing task => Sys2Proof.Machine.execAgeing task s
  | .saveComplete team => Sys2Proof.Machine.execSaveComplete team s
  | .engineSuspend team e => Sys2Proof.Machine.execEngineSuspend team e s
  | .parkTeam team => Sys2Proof.Machine.execParkTeam team s
  | .parkTimeout team => Sys2Proof.Machine.execParkTimeout team s
  | .teamRetire team => Sys2Proof.Machine.execTeamRetire team s
  | .dirtyWritebackTimer core => Sys2Proof.Machine.execDirtyWritebackTimer core s
  | .sliceLoad slice => Sys2Proof.Machine.execSliceLoad slice s
  | .sliceStore slice => Sys2Proof.Machine.execSliceStore slice s
  | .sliceAtomic slice => Sys2Proof.Machine.execSliceAtomic slice s
  | .sliceReduce slice => Sys2Proof.Machine.execSliceReduce slice s
  | .sliceGather slice => Sys2Proof.Machine.execSliceGather slice s
  | .hbmFillDone slice line lo hi => Sys2Proof.Machine.execHbmFillDone slice line lo hi s
  | .replyInject slice line => Sys2Proof.Machine.execReplyInject slice line s
  | .replyReceive core n => Sys2Proof.Machine.execReplyReceive core n s
  | .deadLineInvalidate slice => Sys2Proof.Machine.execDeadLineInvalidate slice s
  | .phaseApply slice => Sys2Proof.Machine.execPhaseApply slice s
  | .translationWalkDone core asid va => Sys2Proof.Machine.execTranslationWalkDone core asid va s
  | .clauseIssue core port => Sys2Proof.Machine.execClauseIssue core port s
  | .clauseSuspend core port => Sys2Proof.Machine.execClauseSuspend core port s
  | .spinTimeout team warp => Sys2Proof.Machine.execSpinTimeout team warp s
  | .decouplingDeadlock team => Sys2Proof.Machine.execDecouplingDeadlock team s
  | .trapDelivery team warp => Sys2Proof.Machine.execTrapDelivery team warp s
  | .gridGrant core part => Sys2Proof.Machine.execGridGrant core part s
  | .gridStepDone core part => Sys2Proof.Machine.execGridStepDone core part s
  | .longLatencyComplete team warp pos => Sys2Proof.Machine.execLongLatencyComplete team warp pos s
  | .queueEntryReady core n => Sys2Proof.Machine.execQueueEntryReady core n s
  | .engineCommandStart team e => Sys2Proof.Machine.execEngineCommandStart team e s
  | .commandComplete team e => Sys2Proof.Machine.execCommandComplete team e s
  | .copyLinear team => Sys2Proof.Machine.execCopyLinear team s
  | .rowGather team => Sys2Proof.Machine.execRowGather team s
  | .lighterRun team => Sys2Proof.Machine.execLighterRun team s
  | .lighterLimit core => Sys2Proof.Machine.execLighterLimit core s
  | .pilotWalk team => Sys2Proof.Machine.execPilotWalk team s
  | .pilotResultDelivery team => Sys2Proof.Machine.execPilotResultDelivery team s
  | .av1Decode team unit => Sys2Proof.Machine.execAv1Decode team unit s
  | .av1Frame team unit => Sys2Proof.Machine.execAv1Frame team unit s
  | .spawnRecord team => Sys2Proof.Machine.execSpawnRecord team s
  | .storeAcknowledged core => Sys2Proof.Machine.execStoreAcknowledged core s
  | .powerCapWrite v => Sys2Proof.Machine.execPowerCapWrite v s
  | .powerCapStepDown avgW => Sys2Proof.Machine.execPowerCapStepDown avgW s
  | .powerCapStepUp avgW => Sys2Proof.Machine.execPowerCapStepUp avgW s
  | .vfFunctionLevelReset vf => Sys2Proof.Machine.execVfFunctionLevelReset vf s
  | .readIdentityCertificate w => Sys2Proof.Machine.execReadIdentityCertificate w s
  | .readAliasCertificate w => Sys2Proof.Machine.execReadAliasCertificate w s
  | .attest w => Sys2Proof.Machine.execAttest w s
  | .raiseFuseSvn w => Sys2Proof.Machine.execRaiseFuseSvn w s
  | .readConfiguration w => Sys2Proof.Machine.execReadConfiguration w s
  | .imageBegin w => Sys2Proof.Machine.execImageBegin w s
  | .imageChunk w => Sys2Proof.Machine.execImageChunk w s
  | .imageCommit w => Sys2Proof.Machine.execImageCommit w s
  | .mailboxBadCode w => Sys2Proof.Machine.execMailboxBadCode w s
  | .patrolScrub pa lo hi => Sys2Proof.Machine.execPatrolScrub pa lo hi s
  | .hostBar2Read pa len => Sys2Proof.Machine.execHostBar2Read pa len s
  | .hostBar2Write pa data => Sys2Proof.Machine.execHostBar2Write pa data s
  | .hostAtomic op pa x e => Sys2Proof.Machine.execHostAtomic op pa x e s
  | .atsInvalidation page => Sys2Proof.Machine.execAtsInvalidation page s
  | .atsTranslationReply page ok => Sys2Proof.Machine.execAtsTranslationReply page ok s
  | .portLinkUp port llr credit => Sys2Proof.Machine.execPortLinkUp port llr credit s
  | .portLinkDown port => Sys2Proof.Machine.execPortLinkDown port s
  | .frameReceive port k => Sys2Proof.Machine.execFrameReceive port k s
  | .domainRequest r => Sys2Proof.Machine.execDomainRequest r s
  | .domainConfigWrite v => Sys2Proof.Machine.execDomainConfigWrite v s
  | .subTailWrite area v => Sys2Proof.Machine.execSubTailWrite area v s
  | .subCtlWrite fn area v => Sys2Proof.Machine.execSubCtlWrite fn area v s
  | .cplHeadWrite area v => Sys2Proof.Machine.execCplHeadWrite area v s
  | .leaseReleaseWrite fn v => Sys2Proof.Machine.execLeaseReleaseWrite fn v s
  | .tidePhaseWrite v => Sys2Proof.Machine.execTidePhaseWrite v s
  | .tlbInvalidate v => Sys2Proof.Machine.execTlbInvalidate v s
  | .faultResolve v => Sys2Proof.Machine.execFaultResolve v s
  | .counterClear off => Sys2Proof.Machine.execCounterClear off s
  | .collListsWrite v => Sys2Proof.Machine.execCollListsWrite v s
  | .registerWrite fn off v => Sys2Proof.Machine.execRegisterWrite fn off v s
  | .allReduce team members => Sys2Proof.Machine.execAllReduce team members s
  | .reduceScatter team members => Sys2Proof.Machine.execReduceScatter team members s
  | .reduce team members => Sys2Proof.Machine.execReduce team members s
  | .allGather team members => Sys2Proof.Machine.execAllGather team members s
  | .broadcast team members => Sys2Proof.Machine.execBroadcast team members s
  | .collectiveBarrier team members => Sys2Proof.Machine.execCollectiveBarrier team members s
  | .supplyUndervoltage => Sys2Proof.Machine.execSupplyUndervoltage s
  | .supplyOvervoltage => Sys2Proof.Machine.execSupplyOvervoltage s
  | .supplyRestored => Sys2Proof.Machine.execSupplyRestored s
  | .thermalHold => Sys2Proof.Machine.execThermalHold s
  | .thermalRelease => Sys2Proof.Machine.execThermalRelease s
  | .thermalStop => Sys2Proof.Machine.execThermalStop s
  | .toleranceRecompute => Sys2Proof.Machine.execToleranceRecompute s
  | .coldReset => Sys2Proof.Machine.execColdReset s
  | .deviceReset => Sys2Proof.Machine.execDeviceReset s
  | .thermClear => Sys2Proof.Machine.execThermClear s
  | .pfFunctionLevelReset => Sys2Proof.Machine.execPfFunctionLevelReset s
  | .mailboxCommandDone => Sys2Proof.Machine.execMailboxCommandDone s
  | .killTask => Sys2Proof.Machine.execKillTask s
  | .withdrawRecord => Sys2Proof.Machine.execWithdrawRecord s
  | .resumeTeam => Sys2Proof.Machine.execResumeTeam s
  | .killTeam => Sys2Proof.Machine.execKillTeam s
  | .preemptTeam => Sys2Proof.Machine.execPreemptTeam s
  | .preemptTask => Sys2Proof.Machine.execPreemptTask s
  | .placement => Sys2Proof.Machine.execPlacement s
  | .continuationAccept => Sys2Proof.Machine.execContinuationAccept s
  | .tideLoad => Sys2Proof.Machine.execTideLoad s
  | .tideLoadDone => Sys2Proof.Machine.execTideLoadDone s
  | .tideBasic => Sys2Proof.Machine.execTideBasic s
  | .tlbInvalidateDone => Sys2Proof.Machine.execTlbInvalidateDone s
  | .faultRecordWrite => Sys2Proof.Machine.execFaultRecordWrite s

end Sys2Proof.Machine
end

