-- ==== Sys2Proof/Machine/Auto.lean ====
section
/-! DEFINITION. What happens at a step (log entry 1): the turn that is taken from the state, or chosen when none waits; the instruction an
agent's turn runs; the passing of time; what is noted after every step. -/

namespace Sys2Proof.Machine

/-! ## Islands that must be awake (R20) -/

/-- The islands whose work an event is: the Tender's for the engines, an octet's and the memory island's for a clause, an octet's for a grid step, a slice's. -/
def State.eventIslands (s : State) (i : Instr) : List Nat :=
  let tender (n : Nat) : List Nat := match s.team? n with | some t => [6 * t.core] | none => []
  match i with
  | .engineCommandStart n _ | .commandComplete n _ | .copyLinear n | .rowGather n | .lighterRun n | .pilotWalk n | .pilotResultDelivery n => tender n
  | .clauseIssue core (.part p) => [6 * core + p / 8 + 1, 6 * core + 5]
  | .clauseIssue core (.tender _) => [6 * core, 6 * core + 5]
  | .gridStepDone core p => [6 * core + p / 8 + 1]
  | .lighterLimit core => [6 * core]
  | .queueEntryReady core _ | .storeAcknowledged core => [6 * core + 5]
  | .sliceLoad n | .sliceStore n | .sliceAtomic n | .sliceReduce n | .sliceGather n | .replyInject n _ => [384 + n]
  | _ => []

/-- The core whose array holds a shared address of a block. -/
def Block.coreOf (b : Block) (a : Nat) : Option Nat := b.cores[sharedIdx a]?

/-- The cores whose shared memory an instruction of a warp reaches: by its lanes, by both ranges of a copy, by a change of the shared size (R125, R127). -/
def State.sharedCores (s : State) (c : Ctx) (i : Instr) : List Nat :=
  let b := s.blockOf c
  let lanes (f : MemF) (disp : BitVec 11) : List Nat := (lanesOf (c.x.active f.g)).filterMap fun t => b.coreOf (laneOff c f.off disp t)
  match i with
  | .lds f | .sts f => lanes f f.b
  | .ldacq f | .strel f => if f.sh then lanes f f.b else []
  | .atom f | .atomq f => if f.sh then lanes f 0 else []
  | .scopy f => if c.x.cond f.g then [f.a, f.d].filterMap fun r => b.coreOf (vget c.x.k (r.toNat - 1664) 0).toNat else []
  | .l1res f => if c.x.cond f.g then b.cores else []
  | _ => []

/-- The islands of an instruction's own: the memory islands of other cores whose shared memory it reaches (R20). -/
def State.wordIslands (s : State) (c : Ctx) (i : Instr) : List Nat := ((s.sharedCores c i).filter (· != c.t.core)).map (6 * · + 5)

/-- A request waits for an island that is not awake (R20); outside stage Running no island holds anything back. -/
def State.asleep (s : State) (is : List Nat) : Bool := s.mgmt.stage == .running && is.any fun n => !s.islandAwake n

/-- The request wakes the islands it waits for. -/
def State.wakeIslands (s : State) (is : List Nat) : State := is.foldl State.wakeIsland s

/-! ## An agent's turn -/

/-- An instruction that is no word of a warp, the Lighter or a Pilot: an event of the device. -/
def isEvent (i : Instr) : Bool := (encode i).isNone && (encodeX i).isNone && (encodeP i).isNone

/-- Ends a warp's turn at the fetch: a trap or a stall. -/
def State.endFetch (s : State) (w : WarpId) (e : Stop) : State × Option Instr := (s.conclude w (.error e), none)

/-- The word of a warp's open clause that issues next, checked (R248, R257, R265, R269); none when it cannot issue one. -/
def State.warpTurn (s : State) (w : WarpId) : State × Option Instr :=
  let s := { s with cur := some (.warp w) }
  match s.ctx? with
  | none => (s, none)
  | some c =>
    if c.t.st ≠ .resident ∨ c.x.awake = false ∨ c.x.clause.isNone = true ∨ c.x.resumed = true then (s, none)
    else if s.asleep (islandsOf c) then (s.wakeIslands (islandsOf c), none)
    else if c.x.lookaheadOut then (s.stallWarp w .look, none)
    else
      match s.nextWord c with
      | (s, .error e) => s.endFetch w e
      | (s, .ok word) =>
        match s.checkWord (s.again c) word with
        | (s, .error e) => s.endFetch w e
        | (s, .ok i) => if s.asleep (s.wordIslands (s.again c) i) then (s.wakeIslands (s.wordIslands (s.again c) i), none) else (s, some i)

/-- The word of the Lighter program on a core, or its limit (R393, R397). -/
def State.lighterTurn (s : State) (core : Nat) : State × Option Instr :=
  let s := { s with cur := some (.lighter core) }
  match s.lighter? with
  | none => (s, none)
  | some (t, c, m) =>
    if s.readingHost (.cmd t.num c.e c.seq) then (s, none)
    else if s.asleep [6 * core] then (s.wakeIslands [6 * core], none)
    else if c.ilim ≤ m.run ∧ m.err = none then (s, some (.lighterLimit core))
    else (s, (m.prog[m.pc.toNat]?).bind decodeX)

/-- The word of a walk (R400). -/
def State.pilotTurn (s : State) (team : Nat) (seq : BitVec 32) (key : Nat) : State × Option Instr :=
  let s := { s with cur := some (.pilot team seq key) }
  match s.pilot? with
  | none => (s, none)
  | some (t, c, r, w) =>
    if s.readingHost (walkReader t c w.key) then (s, none) else (s, (r.prog[w.pc.toNat]?).bind decodeP)

/-! ## Time (R25, R206) -/

/-- `ns` pass on the counter of an island, or of the management controller; a memory island's count is what its core's teams count by, and what dates its L1's dirty lines (R168). -/
def State.elapse (s : State) (island : Option Nat) (ns : Nat) : State :=
  match island with
  | none => s.modMgmt fun m => { m with count := m.count + BitVec.ofNat 64 ns }
  | some n =>
    if 512 ≤ n then s
    else
      let idle (i : Island) : Nat := if s.busy n then 0 else i.idle + ns
      let s := s.modIsland n fun i => { i with count := if i.st = .s3 then i.count else i.count + BitVec.ofNat 64 ns, idle := idle i }
      if isMemIsland n then (s.setTeams (s.hm.teams.map fun t => if t.core = n / 6 then t.spend ns else t)).writeBackOld (n / 6) else s

/-! ## Turns that no one has asked for -/

/-- The controller's events that may be due. -/
def State.mgmtDue (s : State) : List Instr :=
  (if s.mgmt.step.isSome then [.bringupStep true] else []) ++ (if s.mgmt.mbRun.isSome then [.mailboxCommandDone] else []) ++
    [.toleranceRecompute] ++ (List.range 512).filterMap fun n => if (s.island n).wake.isSome then some (.islandWakeComplete n) else none

/-- The Harbourmaster's and the areas' events that may be due. -/
def State.hostDue (s : State) : List Instr :=
  (if s.hm.ctl.isEmpty then [] else [.killTask, .withdrawRecord, .resumeTeam, .killTeam, .preemptTeam, .preemptTask]) ++
    ((List.range 80).flatMap fun a =>
      (if (s.area a).subHead != (s.area a).subTail then [.recordFetch a] else []) ++ (if (s.area a).msgDue then [.msixMessage a] else [])) ++
    (if s.mem.fltMsg then [.msixMessage 80] else []) ++ (if s.hm.parkMsg then [.msixMessage 81] else []) ++
    (s.hm.leases.map fun l => .leaseWalk l.area l.id) ++ (if s.hm.conts.isEmpty then [] else [.continuationAccept]) ++ [.placement] ++
    (s.hm.tasks.map fun t => .ageing t.id)

/-- A team's events that may be due. -/
def Team.due (t : Team) : List Instr :=
  let es := (t.cmds.map (·.e)).eraseDups
  [.parkTeam t.num, .parkTimeout t.num, .saveComplete t.num, .restoreComplete t.num, .decouplingDeadlock t.num] ++
    (es.flatMap fun e => [.engineCommandStart t.num e, .commandComplete t.num e, .engineSuspend t.num e]) ++
    (if es.isEmpty then [] else [.copyLinear t.num, .rowGather t.num, .lighterRun t.num, .pilotWalk t.num, .pilotResultDelivery t.num, .spawnRecord t.num]) ++
    ((List.range 8).flatMap fun u => if es.contains (8 + u) then [.av1Decode t.num u, .av1Frame t.num u] else []) ++
    (t.warps.zipIdx.flatMap fun y =>
      (if y.1.trap.isSome then [.trapDelivery t.num y.2] else []) ++
        (y.1.window.zipIdx.filterMap fun l => if l.1.done then none else some (.longLatencyComplete t.num y.2 l.2))) ++ [.teamRetire t.num]

/-- A core's events that may be due. -/
def State.coreDue (s : State) (n : Nat) : List Instr :=
  let c := s.core n
  (if c.arriving.isEmpty then [] else [.replyReceive n 0]) ++ (if c.unacked.any (·.done) then [.storeAcknowledged n] else []) ++
    (if c.loads.isEmpty then [] else [.queueEntryReady n 0]) ++
    (List.range 32).flatMap fun p =>
      (if (c.part p).ops.isEmpty then [] else [.gridStepDone n p]) ++ (if (c.part p).waiters.isEmpty then [] else [.gridGrant n p])

/-- A slice's events that may be due. -/
def State.sliceDue (s : State) (n : Nat) : List Instr :=
  let x := s.slice n
  (match x.queue with
    | [] => []
    | .load .. :: _ => [.sliceLoad n]
    | .store .. :: _ | .clean .. :: _ => [.sliceStore n]
    | .atomic .. :: _ => [.sliceAtomic n]
    | .reduce .. :: _ => [.sliceReduce n]
    | .gather .. :: _ | .elem .. :: _ => [.sliceGather n]) ++
  (x.windows.map fun w => if w.filling then .hbmFillDone n w.line .clean .clean else .replyInject n w.line) ++
  (if x.phase = s.mem.tidePhase.toNat then [] else [.phaseApply n])

/-- The memory system's events that may be due. -/
def State.memDue (s : State) : List Instr :=
  (if s.mem.tideLoading then [.tideLoadDone] else []) ++ (if s.mem.tlbReqs.isEmpty then [] else [.tlbInvalidateDone]) ++ [.faultRecordWrite] ++
    (s.links.apReads.map fun r => .completionTimeout r.tag) ++ s.links.remotes.map fun r => .retransmitTimer r.tag

/-- The events of the device that may be due; each happens only where its cause holds. -/
def State.due (s : State) : List Instr :=
  s.mgmtDue ++ s.memDue ++ (List.range 128).flatMap s.sliceDue ++ (List.range 64).flatMap s.coreDue ++ s.hm.teams.flatMap Team.due ++ s.hostDue

/-- The turns of agents and ports that may go on: Lighter programs, walks, warps with an open clause, ports to be filled or given up. -/
def State.agentTurns (s : State) : List Turn :=
  (s.hm.teams.flatMap fun t =>
    (t.warps.zipIdx.filterMap fun y => if y.1.clause.isSome && !y.1.resumed then some (.run (.warp { team := t.num, idx := y.2 })) else none) ++
      (t.cmds.flatMap fun c =>
        match c.st with
        | .running (.lighter _) => [.run (.lighter t.core)]
        | .running (.pilot r) => r.walks.map fun w => .run (.pilot t.num c.seq w.key)
        | _ => [])) ++
  (s.hm.teams.flatMap fun t =>
    (t.warps.drop 1).map (fun x => Turn.event (.clauseIssue t.core (.part x.partOf))) ++
      [.event (.clauseIssue t.core (.tender 0)), .event (.clauseIssue t.core (.tender 1))]) ++
  (s.hm.teams.flatMap fun t =>
    (t.warps.drop 1).map (fun x => Turn.event (.clauseSuspend t.core (.part x.partOf))) ++
      [.event (.clauseSuspend t.core (.tender 0)), .event (.clauseSuspend t.core (.tender 1))] ++
      (t.warps.zipIdx.filterMap fun y => if y.1.spinning then some (.event (.spinTimeout t.num y.2)) else none))

/-- A list turned round by `n` places. -/
def rotate {α : Type} (n : Nat) (l : List α) : List α := l.drop (n % l.length) ++ l.take (n % l.length)

/-- What a turn leads to: the state in which an instruction executes, and that instruction. -/
def State.beginTurn (s : State) : Turn → State × Option Instr
  | .event i => if s.asleep (s.eventIslands i) then (s.wakeIslands (s.eventIslands i), none) else (s, if isEvent i then some i else none)
  | .run (.warp w) => s.warpTurn w
  | .run (.lighter core) => s.lighterTurn core
  | .run (.pilot team seq key) => s.pilotTurn team seq key
  | .elapse i ns => (s.elapse i ns, none)
  | .evict core pa => (s.evict core pa, none)
  | .upset core pa => (s.upset core pa, none)
  | .bar2 n => (s.resizeBar2 n, none)

/-- Whether a turn would change the state. -/
def State.moves (s : State) (t : Turn) : Bool :=
  match s.beginTurn t with
  | (s', none) => { s' with cur := s.cur } != s
  | (s', some i) =>
    match exec i s' with
    | .next s'' => { s'' with cur := s.cur } != s
    | _ => false

/-- The passing of time that comes when nothing else is chosen, and at every sixteenth step: the counters in turn, and after each the idle entry
of its island. -/
def State.timeTurn (s : State) : Turn :=
  let k := s.tick / 16 % 1025
  if k = 1024 then .elapse none 1000
  else if k % 2 = 0 then .elapse (some (k / 2)) 1000
  else .event (.islandIdleEntry (k / 2))

/-- The turn chosen when none waits: time now and then, else an event of the device that is due, else a turn of an agent, in rotation. -/
def State.autoTurn (s : State) : Turn :=
  if s.tick % 16 = 15 then s.timeTurn
  else
    match (s.due.map Turn.event ++ rotate s.tick s.agentTurns).find? s.moves with
    | some t => t
    | none => s.timeTurn

/-! ## A step -/

/-- The state in which a step's instruction executes, and that instruction; none when the turn executes none. -/
def State.prepare (s : State) : State × Option Instr :=
  match s.turns with
  | t :: r => ({ s with turns := r }).beginTurn t
  | [] => s.beginTurn s.autoTurn

/-- What is noted after every step: islands with work are roused (R19, R22), which clauses have become eligible (R185), what R206 and R207 count; no agent is current; one step has passed. -/
def State.settle (s : State) : State :=
  let s := { s.rouseCores.stamp with cur := none, tick := s.tick + 1 }
  s.setTeams (s.hm.teams.map fun t => t.notes (s.memCount t.core))

end Sys2Proof.Machine
end

