-- ==== Sys2Proof/Machine/Step.lean ====
section
/-! DEFINITION. The step of the machine, and the state in which the next step runs a given word. -/

namespace Sys2Proof.Machine

/-- One step: a turn is taken; the instruction it runs, if any, executes; what every step notes is noted. -/
def step (s : State) : Host.Outcome State Fault Refusal :=
  match s.prepare with
  | (s, none) => .next s.settle
  | (s, some i) =>
    match exec i s with
    | .next s => .next s.settle
    | .fault f => .fault f
    | .refused r => .refused r

/-! ## A word where the next step fetches (log entry 31) -/

/-- The tables of an address space that maps its first 2 MiB to themselves: the address-space entry 0 at 0x10000, the tables of levels 1 to 3, one
leaf (R142, R143). -/
def identityCells : List Host.Cell :=
  cellsAt 0x10000 (leBytes 8 0x20001) ++ cellsAt 0x20000 (leBytes 8 0x24001) ++ cellsAt 0x24000 (leBytes 8 0x28001) ++ cellsAt 0x28000 (leBytes 8 7)

/-- The task of a code object at 0x30000 whose two entries are its first clause; 32 vector registers per warp. -/
def fetchTask (s : State) : Task :=
  { s.newTask #v[0x30000, 0x0000008000000080, 0, 0, 0x0000000001000000, 0, 0, 0] 0 0 0 false { Launch.none with csize := 0x100 } with
    st := .placed, next := 1, everPlaced := true }

/-- The device runs, with one team of an access warp and an execute warp on core 0. -/
def State.withTeam (s : State) : State :=
  let k := fetchTask s
  let b : Block := { id := s.hm.nextBlock, task := k.id, index := 0, cores := [0], shm := 0, shared := [Ram.zero], groups := [], seq := s.hm.nextBlock }
  let s := { s with
    mgmt := { s.mgmt with stage := .running, step := none }
    islands := (List.range 6).foldl (fun (v : Vector Island 512) n => vset v n { vget v n Island.reset with st := .s0 }) s.islands
    mem := { s.mem with asEn := true, asBase := 1 }
    hm := { s.hm with tasks := [k], blocks := [b], teams := [], nextTask := s.hm.nextTask + 1, nextBlock := s.hm.nextBlock + 1 } }
  (s.storeHome identityCells).startTeam k b.id 0 0 0

/-- The number of the team of `withTeam`. -/
def State.firstTeam (s : State) : Nat := (s.hm.teams.head?.map (·.num)).getD 0

/-- The word that stands after a `rep` placed for fetching: `vmov.b64 v0, v0`. -/
def afterRep : Word := (encode (.vmov { ty := 7, d := 0, a := 0, cc := 0, g := { p := 0, neg := false }, uni := false })).getD 0

/-- A 64-bit word in a clause of its class, open at its first slot: in the execute warp for vector and matrix clauses, else in the access warp. -/
def State.withWarpWord (s : State) (w : Word) : State :=
  let s := s.withTeam
  let op := Dec.opcode w
  let k := (opcodeClass op).getD 2
  let cls := if op = 0x00b then 0 else if k = 5 then 2 else k
  let n := if op = 0x00b then 2 else 1
  let hdr : Nat := 0xf000000000000000 + cls * 2 ^ 57 + (n - 1) * 2 ^ 53
  let s := s.storeHome (cellsAt 0x30080 (leBytes 8 hdr ++ leBytes 8 w.toNat ++ leBytes 8 (if op = 0x00b then afterRep.toNat else 0)))
  let id : WarpId := { team := s.firstTeam, idx := if cls = 0 ∨ cls = 1 then 1 else 0 }
  let s := s.modWarp id fun x => { x with clause := some { cls := cls, count := n }, elig := some s.tick }
  let s := if id.idx = 1 then s.modPart 0 0 fun p => { p with holder := some id }
    else s.modCore 0 fun c => { c with tender := vset c.tender 0 (some id) }
  { s with turns := [.run (.warp id)] }

/-- A running command of the first team's queue `e`. -/
def fetchCmd (e : Nat) (p : Progress) : Cmd :=
  { e := e, seq := 1, q := Vector.replicate 8 0, pre := [], badPre := false, after := [], ord := 0, st := .running p, suspended := false, failed := false, heldAt := 0
    holding := false }

/-- The state with that command. -/
def State.withCmd (s : State) (c : Cmd) : State :=
  s.modTeam s.firstTeam fun t => { t with cmds := [c], eseq := vset t.eseq c.e 1 }

/-- A micro-instruction as the one word of a running Lighter program, or of a walk's program. -/
def State.withMicroWord (s : State) (w : BitVec 32) : State :=
  let s := s.withTeam
  if (decodeX w).isSome then
    let m : Lighter := { prog := [w], s := Vector.replicate 16 0, tile := [], tpois := [], mask := 0, tileNo := 0, recov := 0, pc := 0, run := 0, errors := 0, err := none }
    let s := (s.withCmd (fetchCmd 1 (.lighter m))).modCore 0 fun c => { c with lightCmd := some (s.firstTeam, 1) }
    { s with turns := [.run (.lighter 0)] }
  else
    let walk : Walk := { Walk.init (fetchCmd 2 .coll) 0 with started := true, buf := some [] }
    let s := s.withCmd (fetchCmd 2 (.pilot { prog := [w], next := 1, walks := [walk], done := 0, limits := 0, faults := 0 }))
    { s with turns := [.run (.pilot s.firstTeam 1 0)] }

/-- `s` with an instruction stored where the next step fetches: a 32-bit word as a micro-instruction, any other as a word of a warp. -/
def State.withFetchWord (s : State) (nbits w : Nat) : State :=
  if nbits = 32 then s.withMicroWord (BitVec.ofNat 32 (w % 2 ^ nbits)) else s.withWarpWord (BitVec.ofNat 64 (w % 2 ^ nbits))

end Sys2Proof.Machine
end

