-- ==== Sys2Proof/Machine/Registers.lean ====
section
/-! DEFINITION. What a 64-bit read of BAR0 returns (R7, R8; 01: R21, R24, R29, R40; 02: R51, R58; 03: R71, R86; 04: Tables 4.1 to 4.5; 05: R132, R142, R145, R150, R154;
14: R407). A read changes nothing, so that it is no event (log entry 104); write-only and reserved bits, and offsets that no table lists, read as zero. -/

namespace Sys2Proof.Machine

/-- A register from the fields that lie at some bits. -/
def fields (fs : List (Nat × Nat)) : Word := word (fs.map fun f => f.2 * 2 ^ f.1).sum

/-- The code of a stage (Table 1.8). -/
def Stage.code : Stage → Nat
  | .rom => 0 | .firmware => 1 | .running => 2 | .recovery => 3 | .stopped => 4

/-- The device status register (Table 1.8). -/
def Mgmt.statusReg (m : Mgmt) : Word := fields [(32, m.cause.toNat), (15, b2n m.therm), (0, m.stage.code)]

/-- Island status register `n`: two bits for each of its 32 islands (R24). -/
def State.islandReg (s : State) (n : Nat) : Word := fields (tab 32 fun j => (2 * j, (s.island (32 * n + j)).st.depth))

/-- The mailbox status register (Table 1.15). -/
def Mgmt.mailboxReg (m : Mgmt) : Word := fields [(16, m.mbLen.toNat), (8, m.mbDone.toNat), (4, m.mbError.toNat), (0, b2n m.mbRun.isSome)]

/-- Eight bytes of the mailbox buffer. -/
def Mgmt.bufferReg (m : Mgmt) (o : Nat) : Word := word (leNat (tab 8 fun i => vget m.mbBuf (o + i) 0))

/-- A register of a submission area (Tables 3.1 to 3.5). -/
def Area.reg (x : Area) (reg : Nat) : Word :=
  match reg with
  | 0x00 => fields [(12, x.subVa.toNat), (0, x.subSize.toNat)]
  | 0x08 => word x.subTail.toNat
  | 0x10 => word x.subHead.toNat
  | 0x18 => fields [(40, b2n x.halted), (32, x.err.toNat), (16, x.asid.toNat), (8, x.vec.toNat), (4, x.pcap.toNat), (1, b2n x.irq), (0, b2n x.en)]
  | 0x20 => fields [(12, x.cplVa.toNat), (0, x.cplSize.toNat)]
  | 0x28 => word x.cplTail.toNat
  | 0x30 => word x.cplHead.toNat
  | 0x38 => fields [(52, x.leaseCnt.toNat), (6, x.leaseVa.toNat)]
  | _ => 0

/-- task_ctl as a function reads it: busy while one of its requests is queued (Table 4.5). -/
def State.taskCtlReg (s : State) (fn : Fn) : Word := fields [(8, b2n (s.hm.ctl.any (·.fn == fn)))]

/-- A counter of Table 5.13, at an offset from the first. -/
def Counters.reg (c : Counters) (o : Nat) : Word :=
  if o < 0x40 then vget c.hbmCorr (o / 8) 0
  else if o < 0x80 then vget c.hbmUnc ((o - 0x40) / 8) 0
  else if o = 0x80 then c.sramCorr
  else if o = 0x88 then c.hostErr
  else if o = 0x90 then c.domDrop
  else if o = 0x98 then c.tideErr
  else if o = 0xa0 then c.joinErr
  else if o = 0xa8 then c.recDrop
  else if 0x100 ≤ o ∧ o < 0x180 then vget c.ethDrop ((o - 0x100) / 8) 0
  else if 0x200 ≤ o ∧ o < 0x600 then vget c.slicePois ((o - 0x200) / 8) 0
  else if 0x600 ≤ o ∧ o < 0x1600 then
    let i := (o - 0x600) / 32
    match (o - 0x600) % 32 with
    | 0 => vget c.reqFlits i 0
    | 8 => vget c.repFlits i 0
    | 16 => vget c.merged i 0
    | _ => vget c.elided i 0
  else 0

/-- A read of BAR0 of the PF. -/
def State.pfRead (s : State) (off : Nat) : Word :=
  if off % 8 ≠ 0 then 0
  else if 0x40000 ≤ off ∧ off < 0x40400 then (s.area ((off - 0x40000) / 0x40)).reg ((off - 0x40000) % 0x40)
  else if 0x41000 ≤ off ∧ off < 0x42000 then (s.area (16 + (off - 0x41000) / 0x40)).reg ((off - 0x41000) % 0x40)
  else if 0x70000 ≤ off ∧ off < 0x71600 then s.mem.ctr.reg (off - 0x70000)
  else if 0x20100 ≤ off ∧ off < 0x20500 then s.mgmt.bufferReg (off - 0x20100)
  else if 0x10008 ≤ off ∧ off < 0x10048 then word (vget s.mgmt.clsTol ((off - 0x10008) / 8) 0).toNat
  else if 0x10100 ≤ off ∧ off < 0x10180 then s.islandReg ((off - 0x10100) / 8)
  else
    match off with
    | 0x00000 => s.mgmt.statusReg
    | 0x10000 => word s.mgmt.devTol.toNat
    | 0x10048 => word s.mgmt.capW.toNat
    | 0x20008 => s.mgmt.mailboxReg
    | 0x30000 => fields [(36, s.links.apBase.toNat), (1, b2n s.links.ats), (0, b2n s.links.apEn)]
    | 0x30100 => fields [(48, s.links.domid.toNat), (32, s.links.self.toNat), (0, b2n s.links.domEn)]
    | 0x30108 => fields [(15, s.links.domTab.toNat)]
    | 0x30110 => fields [(13, s.links.collBase.toNat)]
    | 0x50000 => fields [(48, s.hm.parkTo.toNat), (32, s.hm.pdelta.toNat), (0, s.hm.ageUs.toNat)]
    | 0x50008 => fields [(21, s.hm.recBase.toNat), (0, s.hm.recSize.toNat)]
    | 0x50010 => fields [(21, s.hm.saveBase.toNat), (0, s.hm.saveSize.toNat)]
    | 0x50018 => fields [(12, s.hm.parkBase.toNat), (4, s.hm.parkVec.toNat), (0, s.hm.parkSize.toNat)]
    | 0x50020 => word s.hm.parkTail.toNat
    | 0x50028 => word s.hm.parkHead.toNat
    | 0x50030 => s.taskCtlReg .pf
    | 0x60000 => fields [(52, s.mem.domAsid.toNat), (16, s.mem.asBase.toNat), (0, b2n s.mem.asEn)]
    | 0x60008 => fields [(12, s.mem.fltBase.toNat), (4, s.mem.fltVec.toNat), (0, s.mem.fltSize.toNat)]
    | 0x60010 => word s.mem.fltTail.toNat
    | 0x60018 => word s.mem.fltHead.toNat
    | 0x60030 => fields [(32, s.mem.tlbDone.toNat), (0, b2n (!s.mem.tlbReqs.isEmpty))]
    | 0x60040 => fields [(12, s.mem.tideBase.toNat)]
    | 0x60048 => fields [(16, b2n s.mem.tideLoading), (8, b2n s.mem.tideLevel), (0, s.mem.tidePhase.toNat)]
    | _ => 0

/-- A read of BAR0 of a VF: its areas, task_ctl, and the mirror of the status register (R29, R71). -/
def State.vfRead (s : State) (n off : Nat) : Word :=
  if off % 8 ≠ 0 ∨ n = 0 ∨ 16 < n then 0
  else if off < 0x100 then (s.area (16 + 4 * (n - 1) + off / 0x40)).reg (off % 0x40)
  else
    match off with
    | 0xf008 => s.taskCtlReg (.vf n)
    | 0xf010 => s.mgmt.statusReg
    | _ => 0

/-- A 64-bit read of a function from its BAR0. -/
def State.regRead (s : State) (fn : Fn) (off : Nat) : Word :=
  match fn with
  | .pf => s.pfRead off
  | .vf n => s.vfRead n off

end Sys2Proof.Machine
end

