-- ==== Sys2Proof/Safety.lean ====
section
/-! DEFINITION. The terms that claims use: when the fields of a word can be used at once, what its tables say of its result, what
counts as a sound state, and when an instruction completes. -/

namespace Sys2Proof.Machine

/-! ## Answers -/

/-- A step that answers a next state: no fault, no refusal. -/
def stepsOn (s : State) : Prop := ∃ t, step s = .next t

/-- An instruction that answers a next state. -/
def completes (i : Instr) (s : State) : Prop := ∃ t, exec i s = .next t

/-- The instruction has retired in the state `t`: its warp is there and counts one instruction more. -/
def retiredIn (c : Ctx) (t : State) : Prop := ∃ y, t.warp? c.w = some y ∧ y.retired = c.x.retired + 1

/-! ## Fields that can be used at once (R189, R196, R201, R202, R213) -/

/-- A source field passes Table 7.3 and waits for nothing: a live register of the allotment with no uninit lane read as floating point, a
predicate, a k register, a special, or a queue of the warp's own with a Ready entry at position `pos`. -/
def State.srcReady (s : State) (c : Ctx) (act : Mask) (u : SrcUse) (pos : Nat) : Bool :=
  match opdOf c.w.access u.fld.toNat with
  | .v n => (match c.x.v[n]? with | some r => !r.released && (!u.flt || r.uninit &&& act == 0) | none => false) && !s.vBusy c n
  | .a n => !s.aBusy c n
  | .pop q | .peek q =>
    (match c.t.queues[q]? with
      | some y => y.owner + 1 == c.w.idx && y.dir != .ret &&
        (match y.entries[pos]? with | some e => e.st == .ready && e.psec == 0 | none => false)
      | none => false)
  | .bad _ => false
  | _ => true

/-- Every source field can be read now. -/
def State.srcsReady (s : State) (c : Ctx) (act : Mask) (us : List SrcUse) : Bool :=
  (us.zip (popPositions c.w.access us [])).all fun x => s.srcReady c act x.1 x.2

/-- A destination field of data can be written now: a register of the allotment, `zero`, or a return queue of the warp's own with room once
the word's own pops are done, or with no consumer left. -/
def State.dstReady (s : State) (c : Ctx) (us : List SrcUse) (d : Fld) : Bool :=
  match opdOf c.w.access d.toNat with
  | .v n => n < c.x.v.length && !s.vBusy c n
  | .a n => !s.aBusy c n
  | .pop q =>
    (match c.t.queues[q]? with
      | some y => y.owner + 1 == c.w.idx && y.dir == .ret &&
        (match (c.afterReads us).t.queues[q]? with
          | some z => (c.afterReads us).t.noConsumer z || z.hasRoom 1
          | none => true)
      | none => false)
  | .spec n => n == 0
  | _ => false

/-- The consumer count is allowed, and every field can be used now. -/
def State.fieldsReady (s : State) (c : Ctx) (d : Fld) (cc : BitVec 2) (g : Guard) (us : List SrcUse) : Bool :=
  ccOk c.w.access cc d && s.srcsReady c (c.x.active g) us && s.dstReady c us d

/-- Where a ready destination field of data writes. -/
def dstOf (access : Bool) (d : Fld) : Dst :=
  match opdOf access d.toNat with
  | .v n => .v n
  | .a n => .a n
  | .pop q => .push q
  | _ => .zero

/-- The context after a write of data to a ready destination: the active lanes of the register merged with what it kept, its consumer count
set, its uninit marks cleared; or a whole entry pushed with zero in the inactive lanes; or nothing (R193, R195, R202, R262). -/
def Ctx.written (c : Ctx) (d : Dst) (act : Mask) (x : Image) (cc : BitVec 2) : Ctx :=
  match d with
  | .v n => { c with x := { c.x with v := c.x.v.modify n fun r => r.write act x cc }.note [n] }
  | .a n => { c with x := { c.x with a := vset c.x.a n (mergeLanes act x (vget c.x.a n 0)) }.note [n] }
  | .push q => (match c.t.queues[q]? with | some y => { c with t := c.t.push q y (Entry.ready (mergeLanes act x 0)) } | none => c)
  | _ => c

/-! ## Tables 10.2, 10.4 and 11.1 -/

/-- The fields of a comparison word. -/
def elemC (f : AluCmp) (flt : Bool) : Elem := { ty := f.ty, d := f.d, us := [⟨f.a, flt⟩, ⟨f.b, flt⟩], cc := f.cc, g := f.g, uni := f.uni }

/-- The fields of a `vfclass` word. -/
def elemL (f : AluClass) : Elem := { ty := f.ty, d := f.d, us := [⟨f.a, true⟩], cc := f.cc, g := f.g, uni := f.uni }

/-- The exact value that Tables 10.2 and 10.4 give a word for one element, to be narrowed to the type: `a`, `b` and `c` are the operands as
integers of the type, `p`, `q` and `r` the same as patterns. -/
def intResult (i : Instr) (x : List Nat) : Option (Elem × Int) :=
  let p := arg x 0; let q := arg x 1; let r := arg x 2
  match i with
  | .kadd f | .vadd f => some (elem2 f false, intVal f.ty p + intVal f.ty q)
  | .ksub f | .vsub f => some (elem2 f false, intVal f.ty p - intVal f.ty q)
  | .kmul f | .vmul f => some (elem2 f false, intVal f.ty p * intVal f.ty q)
  | .vmulh f => some (elem2 f false, (intVal f.ty p * intVal f.ty q) / (2 ^ Ty.width f.ty : Nat))
  | .kmad f | .vmad f => some (elem3 f false, intVal f.ty p * intVal f.ty q + intVal f.ty r)
  | .kdiv f | .vdiv f => some (elem2 f false, if intVal f.ty q = 0 then -1 else (intVal f.ty p).tdiv (intVal f.ty q))
  | .kmod f => some (elem2 f false, if intVal f.ty q = 0 then intVal f.ty p else (intVal f.ty p).tmod (intVal f.ty q))
  | .vadds f => some (elem2 f false, satInt (Ty.signed f.ty) (Ty.width f.ty) (intVal f.ty p + intVal f.ty q))
  | .vsubs f => some (elem2 f false, satInt (Ty.signed f.ty) (Ty.width f.ty) (intVal f.ty p - intVal f.ty q))
  | .kmin f | .vmin f => some (elem2 f false, min (intVal f.ty p) (intVal f.ty q))
  | .kmax f | .vmax f => some (elem2 f false, max (intVal f.ty p) (intVal f.ty q))
  | .vabs f => some (elem1 f false, (intVal f.ty p).natAbs)
  | .vneg f => some (elem1 f false, -(intVal f.ty p))
  | .kand f | .vand f => some (elem2 f false, (p &&& q : Nat))
  | .kor f | .vor f => some (elem2 f false, (p ||| q : Nat))
  | .kxor f | .vxor f => some (elem2 f false, (p ^^^ q : Nat))
  | .vnot f => some (elem1 f false, -1 - (p : Int))
  | .kshl f | .vshl f => some (elem2 f false, if Ty.width f.ty ≤ q then 0 else (p * 2 ^ q : Nat))
  | .kshr f | .vshr f => some (elem2 f false, (p / 2 ^ q : Nat))
  | .ksar f | .vsar f => some (elem2 f false, sextN (Ty.width f.ty) p / (2 ^ min q (Ty.width f.ty) : Nat))
  | .vrot f => some (elem2 f false, (p * 2 ^ (q % Ty.width f.ty) + p / 2 ^ (Ty.width f.ty - q % Ty.width f.ty) : Nat))
  | .kclz f | .vclz f => some (elem1 f false, (((List.range (Ty.width f.ty)).filter fun n => p < 2 ^ n).length : Nat))
  | .kpopc f | .vpopc f => some (elem1 f false, (((List.range (Ty.width f.ty)).filter p.testBit).length : Nat))
  | .ksel f | .vsel f => some (elem3 f false, (if r = 0 then q else p : Nat))
  | .kmov f => some (elem1 f false, p)
  | .kmovi f | .vmovi f => some (elemI f, if Ty.signed f.ty ∨ f.ty = 13 then f.imm.toInt else (f.imm.toNat : Int))
  | .kcmp f => some (elemC f false, if iCond f.cond.toNat (intVal f.ty p) (intVal f.ty q) then 1 else 0)
  | _ => none

/-- A word of the uniform scalar set (0x020 to 0x033). -/
def isScalar : Instr → Bool
  | .kmov _ | .kmovi _ | .kadd _ | .ksub _ | .kmul _ | .kmad _ | .kdiv _ | .kmod _ | .kand _ | .kor _ | .kxor _ | .kshl _ | .kshr _ | .ksar _
  | .kcmp _ | .ksel _ | .kmin _ | .kmax _ | .kclz _ | .kpopc _ => true
  | _ => false

/-- The result and the flags that Table 11.1 gives a word for one element; the class of R304. -/
def fltResult (i : Instr) (x : List Nat) : Option (Elem × Nat × Nat) :=
  let p := arg x 0; let q := arg x 1; let r := arg x 2
  match i with
  | .vfadd f => some (elem2 f true, (fmtOf f.ty).add 0 p q)
  | .vfsub f => some (elem2 f true, (fmtOf f.ty).add 0 p ((fmtOf f.ty).flip q))
  | .vfmul f => some (elem2 f true, (fmtOf f.ty).mul 0 p q)
  | .vfma f => some (elem3 f true, (fmtOf f.ty).fma 0 p q r)
  | .vfms f => some (elem3 f true, (fmtOf f.ty).fma 0 p q ((fmtOf f.ty).flip r))
  | .vfnma f => some (elem3 f true, (fmtOf f.ty).fma 0 ((fmtOf f.ty).flip p) q r)
  | .vfmin f => some (elem2 f true, (fmtOf f.ty).minMax false p q)
  | .vfmax f => some (elem2 f true, (fmtOf f.ty).minMax true p q)
  | .vfabs f => some (elem1 f true, p % 2 ^ ((fmtOf f.ty).eb + (fmtOf f.ty).fb), 0)
  | .vfneg f => some (elem1 f true, (fmtOf f.ty).flip p, 0)
  | .vfclass f => if Fld.isPred f.d then none else some (elemL f, 2 ^ (fmtOf f.ty).cls p, 0)
  | _ => none

/-- The condition and the flags that a comparison or classification raises for one element, and whether `.any` is set: `vcmp` (R292), `vfcmp` (R303), `vfclass`
with a mask (R304). -/
def cmpResult (i : Instr) (x : List Nat) : Option (Elem × Bool × Bool × Nat) :=
  match i with
  | .vcmp f => some (elemC f false, f.any, iCond f.cond.toNat (intVal f.ty (arg x 0)) (intVal f.ty (arg x 1)), 0)
  | .vfcmp f =>
    let a := (fmtOf f.ty).val (arg x 0)
    let b := (fmtOf f.ty).val (arg x 1)
    some (elemC f true, f.any, fCond f.cond.toNat a b, if a.isSnan || b.isSnan then fInv else 0)
  | .vfclass f => if Fld.isPred f.d then some (elemL f, f.any, f.mask.getLsbD ((fmtOf f.ty).cls (arg x 0)), 0) else none
  | _ => none

/-- The elements of the source fields at sub-element `j` of lane `t`. -/
def srcEls (c : Ctx) (e : Elem) (t j : Nat) : List Nat := (srcVals c e.ty e.us).map fun x => subEl (Ty.width e.ty) (lane x t) j

/-- The elements of the uniform source fields at sub-element `j` (R263). -/
def uniEls (c : Ctx) (e : Elem) (j : Nat) : List Nat := e.us.map fun u => subEl (Ty.width e.ty) (uniVal c e.ty u.fld) j

/-- Every field of a uniform word names what R263 allows. -/
def uniFields (e : Elem) : Bool := uniDstOk e.d && e.us.all fun u => uniSrcOk u.fld
/-- A predicate as a destination field: the register, under the lanes that may be written. -/
def Ctx.writtenPred (c : Ctx) (d : Fld) (act bits : Mask) : Ctx := { c with x := c.x.writePred (d.toNat - 1728) act bits }

/-- A context whose instruction raises floating-point flags (R229). -/
def Ctx.flagged (c : Ctx) (n : Nat) : Ctx := { c with x := c.x.addFlags n }

/-- A context whose warp has a new long-latency instruction at position 0 of its window, with a token and a lookahead (R250, R256); one that pushes, or writes nothing, is
complete at its trap point. -/
def Ctx.withLong (c : Ctx) (d : Dst) (tok : Nat) (la : BitVec 4) : Ctx :=
  let done : Bool := match d with | .push _ | .zero => true | _ => false
  { c with x := c.x.issueLong { tok := tok, done := done, left := if done then none else some (la.toNat + 1), load := false, grid := false } }

/-- A state with its next token used up. -/
def State.tokTaken (s : State) : State := { s with mem := { s.mem with nextTok := s.mem.nextTok + 1 } }

/-- The OR of the flags of every sub-element of the active lanes. -/
def flagsOver (act : Mask) (w : Nat) (f : Nat → Nat → Nat) : Nat := laneFlags act fun t => subFlags w fun j => f t j

/-! ## Table 11.3: the long-latency words -/

/-- The fields of a long-latency word of one source. -/
def elemL1 (f : Long1) : Elem := { ty := f.ty, d := f.d, us := [⟨f.a, true⟩], cc := f.cc, g := f.g, uni := false }

/-- The fields, the lookahead, the result and the flags of a long-latency word for one element. -/
def longResult (i : Instr) (x : List Nat) : Option (Elem × BitVec 4 × Nat × Nat) :=
  let p := arg x 0
  match i with
  | .vfrcp f => some (elemL1 f, f.la, (fmtOf f.ty).apply .rcp p)
  | .vfrsq f => some (elemL1 f, f.la, (fmtOf f.ty).apply .rsq p)
  | .vfsqrt f => some (elemL1 f, f.la, (fmtOf f.ty).apply .sqrt p)
  | .vfexp2 f => some (elemL1 f, f.la, (fmtOf f.ty).apply .exp2 p)
  | .vflog2 f => some (elemL1 f, f.la, (fmtOf f.ty).apply .log2 p)
  | .vfsin f => some (elemL1 f, f.la, (fmtOf f.ty).apply .sin p)
  | .vfcos f => some (elemL1 f, f.la, (fmtOf f.ty).apply .cos p)
  | .vftanh f => some (elemL1 f, f.la, (fmtOf f.ty).apply .tanh p)
  | .vfsig f => some (elemL1 f, f.la, (fmtOf f.ty).apply .sig p)
  | .vfdiv f =>
    some ({ ty := f.ty, d := f.d, us := [⟨f.a, true⟩, ⟨f.b, true⟩], cc := f.cc, g := f.g, uni := false }, f.la, (fmtOf f.ty).div p (arg x 1))
  | _ => none

/-! ## Conversions (R307 to R314) -/

/-- The fields of a conversion word: source and destination types, fields, part, and the lookahead of a long-latency one. -/
structure Conv where
  sty  : BitVec 4
  dty  : BitVec 4
  d    : Fld
  us   : List SrcUse
  cc   : BitVec 2
  g    : Guard
  part : Nat
  la   : Option (BitVec 4)
  deriving DecidableEq, Repr

/-- The fields of each conversion word. -/
def convOf : Instr → Option Conv
  | .vcvt f => some { sty := f.st, dty := f.ty, d := f.d, us := [⟨f.a, true⟩], cc := f.cc, g := f.g, part := f.part.toNat, la := some f.la }
  | .vcvti f => some { sty := f.st, dty := f.ty, d := f.d, us := [⟨f.a, false⟩], cc := f.cc, g := f.g, part := f.part.toNat, la := none }
  | .vcvtf f => some { sty := f.st, dty := f.ty, d := f.d, us := [⟨f.a, false⟩], cc := f.cc, g := f.g, part := f.part.toNat, la := none }
  | .vqnt f =>
    some { sty := f.st, dty := f.ty, d := f.d, us := [⟨f.a, true⟩, ⟨f.b, true⟩], cc := f.cc, g := f.g, part := f.part.toNat, la := some f.la }
  | .vdqnt f =>
    some { sty := f.st, dty := f.ty, d := f.d, us := [⟨f.a, false⟩, ⟨f.b, true⟩], cc := f.cc, g := f.g, part := f.part.toNat, la := none }
  | _ => none

/-- The result and the flags of a conversion word for one element `x`, under the lane `b` of its scale operand. -/
def convEl (i : Instr) (x : Nat) (b : Word) : Nat × Nat :=
  match i with
  | .vcvt f => cvtElem f.st f.ty f.rm.toNat f.sf x
  | .vcvti f => (toN (Ty.width f.ty) (if f.sat then satInt (Ty.signed f.ty) (Ty.width f.ty) (intVal f.st x) else intVal f.st x), 0)
  | .vcvtf f => intToFloat (fmtOf f.ty) f.rm.toNat (intVal f.st x)
  | .vqnt f => quantElem f.st f.ty x (fieldOf b 0 16) (fieldOf b 16 (Ty.width f.ty))
  | .vdqnt f => dequantElem f.ty x (fieldOf b 0 16) (fieldOf b 16 (Ty.width f.st))
  | _ => (0, 0)

/-- The scale operand of a conversion word, zero when it has none. -/
def convScale (c : Ctx) (v : Conv) : Image :=
  match v.us with
  | [_, b] => scaleVal c b.fld (secondPos c v.us)
  | _ => 0

/-- The first source operand of a conversion word. -/
def convSrc (c : Ctx) (v : Conv) : Image :=
  match v.us with
  | a :: _ => srcVal c v.sty a.fld 0
  | _ => 0

/-- The source element that R307 gives the destination element `j`, if it writes one: `m` elements from `part * m` of the narrower side. -/
def Conv.from (v : Conv) (j : Nat) : Option Nat :=
  let ws := Ty.width v.sty
  let wd := Ty.width v.dty
  let m := 64 / max ws wd
  if wd < ws then (if v.part * m ≤ j ∧ j < v.part * m + m then some (j - v.part * m) else none)
  else if j < m then some (if ws < wd then v.part * m + j else j)
  else none

/-- Whether a conversion word takes its sources into the running maximum (R239). -/
def convUpdates : Instr → Bool
  | .vcvt f => !Ty.float f.ty || decide (Ty.width f.ty < Ty.width f.st)
  | .vqnt _ => true
  | _ => false

/-! ## Rounding (Table 8.3) -/

/-- A pattern of a format that is neither an infinity nor a NaN. -/
def Fmt.finite (f : Fmt) (p : Nat) : Bool := match f.val p with | .fin _ _ _ => true | _ => false

/-- The value of a finite pattern as a multiple of 2^q, for a `q` no larger than the smallest exponent of the format. -/
def Fmt.at (f : Fmt) (p : Nat) (q : Int) : Int := match f.val p with | .fin n m e => finAt n m e q | _ => 0

/-- A finite pattern `r` is the rounding of `x`, both in multiples of 2^q, that Table 8.3 gives: among the finite patterns the nearest, and of two at one distance
the even one; or the nearest one not beyond `x`, toward zero, toward -infinity or toward +infinity. -/
def Fmt.isRounding (f : Fmt) (rm : Nat) (x q : Int) (r : Nat) : Prop :=
  ∀ p, p < 2 ^ f.width → f.finite p = true →
    match rm with
    | 0 => (f.at r q - x).natAbs ≤ (f.at p q - x).natAbs ∧ ((f.at r q - x).natAbs = (f.at p q - x).natAbs → f.at p q ≠ f.at r q → r % 2 = 0)
    | 1 => (f.at r q).natAbs ≤ x.natAbs ∧ (0 ≤ f.at r q * x) ∧ ((f.at p q).natAbs ≤ x.natAbs → (f.at p q).natAbs ≤ (f.at r q).natAbs)
    | 2 => f.at r q ≤ x ∧ (f.at p q ≤ x → f.at p q ≤ f.at r q)
    | _ => x ≤ f.at r q ∧ (x ≤ f.at p q → f.at r q ≤ f.at p q)

/-! ## Traps of operand fields (Table 7.3) -/

/-- The trap that a source field `u` of a word raises when the fields before it pass; `pos` entries of its queue are taken before it. -/
def srcFault (c : Ctx) (act : Mask) (u : SrcUse) (pos : Nat) : Option TrapReq :=
  let f := u.fld.toNat
  let q := (f - 1536) % 64
  if c.w.idx = 0 then
    if f < 64 ∨ (1664 ≤ f ∧ f < 1743) then none
    else some { cause := if 1536 ≤ f ∧ f < 1664 then .queueDirection else .illegalOperand, reg := f }
  else if f < 1536 then
    match c.x.v[f]? with
    | none => some { cause := .illegalOperand, reg := f }
    | some r =>
      if r.released then some { cause := .releasedRegister, reg := f }
      else if u.flt ∧ r.uninit &&& act ≠ 0 then some { cause := .uninitialised, reg := f, lanes := r.uninit &&& act }
      else none
  else if f < 1664 then
    match c.t.queues[q]? with
    | none => some { cause := .illegalOperand, reg := f }
    | some x =>
      if x.owner + 1 ≠ c.w.idx then some { cause := .queueOwner, reg := f }
      else if x.dir = .ret then some { cause := .queueDirection, reg := f }
      else
        match x.entries[pos]? with
        | none => if c.t.exhausted q x then some { cause := .queueExhausted, reg := f } else none
        | some e =>
          match e.st with
          | .ready => if e.psec = 0 then none else some { cause := .poisonedEntry, reg := f, sub := Cause.uncorrectable.code }
          | .poisoned w => some { cause := .poisonedEntry, reg := f, sub := w.code }
          | _ => none
  else if 1743 ≤ f then some { cause := .illegalOperand, reg := f }
  else none

/-- The entry that a source field needs, if it needs one of a queue that the warp may pop, is Ready or Poisoned, or can never come (R202). -/
def srcThere (c : Ctx) (u : SrcUse) (pos : Nat) : Bool :=
  let f := u.fld.toNat
  let q := (f - 1536) % 64
  if c.w.idx = 0 ∨ f < 1536 ∨ 1664 ≤ f then true
  else
    match c.t.queues[q]? with
    | none => true
    | some x =>
      if x.owner + 1 ≠ c.w.idx ∨ x.dir = .ret then true
      else
        match x.entries[pos]? with
        | none => c.t.exhausted q x
        | some e => match e.st with | .issued | .pending => false | _ => true

/-- No source field waits for an entry. -/
def srcsThere (c : Ctx) (us : List SrcUse) : Bool := (us.zip (popPositions c.w.access us [])).all fun x => srcThere c x.1 x.2

/-- The trap that a destination field of data raises: a register above the allotment, a queue that is no return queue of the warp's own, a `k` register, a
predicate, or a value that names nothing. -/
def dstFault (c : Ctx) (d : Fld) : Option TrapReq :=
  let f := d.toNat
  let q := (f - 1536) % 64
  let bad : Option TrapReq := some { cause := .illegalOperand, reg := f }
  if f = 1736 then none
  else if c.w.idx = 0 then (if f < 64 then none else if 1536 ≤ f ∧ f < 1664 then some { cause := .queueDirection, reg := f } else bad)
  else if f < 1536 then (if f < c.x.v.length then none else bad)
  else if f < 1664 then
    match c.t.queues[q]? with
    | none => bad
    | some x =>
      if x.owner + 1 ≠ c.w.idx then some { cause := .queueOwner, reg := f }
      else if x.dir = .ret ∧ f < 1600 then none
      else some { cause := .queueDirection, reg := f }
  else bad

/-- The trap that the D field of a word raises: `k` and `p` say whether the word may write a `k` register or a predicate, `v` whether it may write data. -/
def dstTrap (c : Ctx) (k p v : Bool) (d : Fld) : Option TrapReq :=
  if (k && Fld.isK d) || (p && Fld.isPred d) then none
  else if v ∨ d = 1736 then dstFault c d
  else some { cause := if c.w.idx = 0 ∧ 1536 ≤ d.toNat ∧ d.toNat < 1664 then .queueDirection else .illegalOperand, reg := d.toNat }

/-- A word of one kind of read and no uniform form, as the fields of an element-wise one. -/
def plain (ty : BitVec 4) (d : Fld) (us : List Fld) (cc : BitVec 2) (g : Guard) : Elem :=
  { ty := ty, d := d, us := us.map fun f => ⟨f, false⟩, cc := cc, g := g, uni := false }

/-- The fields of each word whose operands Table 7.3 checks one by one, and what its D may name: a `k` register, a predicate, data. That `vscan` and `vmatch` refuse
`zero` is stated with their results. -/
def opFields (i : Instr) : Option (Elem × Bool × Bool × Bool) :=
  match i with
  | .vmov f => some (elem1 f false, false, false, true)
  | .vshfl f => some (plain f.ty f.d [f.a, f.b] f.cc f.g, false, false, true)
  | .vbcast f => some (plain f.ty f.d [f.a] f.cc f.g, false, false, true)
  | .vperm f => some (plain f.ty f.d [f.a, f.b, f.c] f.cc f.g, false, false, true)
  | .vpack f | .vunpk f => some (plain f.ty f.d [f.a] f.cc f.g, false, false, true)
  | .vred f => some (plain f.ty f.d [f.a] f.cc f.g, true, false, true)
  | .vscan f => if f.d = 1736 then none else some (plain f.ty f.d [f.a] f.cc f.g, false, false, true)
  | .vtopk f => some (plain f.ty f.d [f.a] f.cc f.g, false, false, true)
  | .vballot f => some (plain f.ty f.d [f.a] f.cc f.g, true, true, false)
  | .vmatch f => if f.d = 1736 then none else some (plain f.ty f.d [f.a] f.cc f.g, false, false, true)
  | .amaxr f => some (plain 13 f.d [] f.cc f.g, true, false, true)
  | _ =>
    if isScalar i then none
    else
      match intResult i [], fltResult i [], longResult i [], cmpResult i [], convOf i with
      | some x, _, _, _, _ => some (x.1, false, false, true)
      | _, some x, _, _, _ => some (x.1, false, false, true)
      | _, _, some x, _, _ => some (x.1, false, false, true)
      | _, _, _, some x, _ => some (x.1, false, true, true)
      | _, _, _, _, some v => some ({ ty := v.sty, d := v.d, us := v.us, cc := v.cc, g := v.g, uni := false }, false, false, true)
      | _, _, _, _, _ => none

/-- The entries of a field's queue that the fields before it take (R202). -/
def takenBefore (pre : List SrcUse) (u : SrcUse) : Nat := pre.countP fun x => x.fld.toNat = 1536 + (u.fld.toNat - 1536) % 64

/-! ## Frames -/

/-- The units and parts of the device that a word of a warp that touches registers and its team's queues alone leaves as they were. -/
structure State.sameOutside (s t : State) (w : WarpId) : Prop where
  mgmt    : t.mgmt = s.mgmt
  islands : t.islands = s.islands
  links   : t.links = s.links
  areas   : t.areas = s.areas
  slices  : t.slices = s.slices
  sent    : t.sent = s.sent
  mem     : { t.mem with nextTok := s.mem.nextTok } = s.mem
  bytes   : ∀ a, readCell t.mem.ram.cells a = readCell s.mem.ram.cells a
  hm      : { t.hm with teams := s.hm.teams } = s.hm
  cores   : ∀ n, { t.core n with parts := (s.core n).parts, tender := (s.core n).tender } = s.core n
  teams   : ∀ n, n ≠ w.team → t.team? n = s.team? n
  warps   : ∀ n, n ≠ w.idx → t.warp? { w with idx := n } = s.warp? { w with idx := n }

/-- What a register holds for a program: its data and its uninit marks. -/
def VReg.seen (r : VReg) : Image × Mask := (r.data, r.uninit)

/-- What a word whose one destination field is `d` leaves of its warp: every other `v`, `a`, `k` and `p` register, the tile-control, trap-information and window
registers, the live mask, the active mask and its stacks, and the trap frame. -/
structure Warp.framed (x y : Warp) (access : Bool) (d : Fld) : Prop where
  v     : ∀ n, access = true ∨ d.toNat ≠ n → (y.v[n]?).map VReg.seen = (x.v[n]?).map VReg.seen
  len   : y.v.length = x.v.length
  a     : ∀ n, access = false ∨ d.toNat ≠ n → vget y.a n 0 = vget x.a n 0
  k     : ∀ n, d.toNat ≠ 1664 + n → vget y.k n 0 = vget x.k n 0
  p     : ∀ n, d.toNat ≠ 1728 + n → vget y.p n 0 = vget x.p n 0
  tc    : y.tc = x.tc
  tw    : y.tw = x.tw
  tinfo : y.tinfo = x.tinfo
  live  : y.live = x.live
  m     : y.m = x.m
  rpc   : y.rpc = x.rpc
  stack : y.pstack = x.pstack
  calls : y.cstack = x.cstack
  frame : y.frame = x.frame
  mode  : y.matrix = x.matrix

/-- The destination field of a word that writes one register or queue field and nothing else but fflags and amax. -/
def dataDst : Instr → Option Fld
  | .kmov f | .kclz f | .kpopc f | .vabs f | .vneg f | .vnot f | .vclz f | .vpopc f | .vmov f | .vfabs f | .vfneg f
  | .vpack f | .vunpk f | .vballot f | .vmatch f => some f.d
  | .kmovi f | .vmovi f => some f.d
  | .kadd f | .ksub f | .kmul f | .kdiv f | .kmod f | .kand f | .kor f | .kxor f | .kshl f | .kshr f | .ksar f | .kmin f | .kmax f
  | .vadd f | .vsub f | .vmul f | .vmulh f | .vdiv f | .vadds f | .vsubs f | .vmin f | .vmax f | .vand f | .vor f | .vxor f
  | .vshl f | .vshr f | .vsar f | .vrot f | .vfadd f | .vfsub f | .vfmul f | .vfmin f | .vfmax f => some f.d
  | .kmad f | .ksel f | .vmad f | .vsel f | .vfma f | .vfms f | .vfnma f | .vperm f => some f.d
  | .kcmp f | .vcmp f | .vfcmp f => some f.d
  | .vfclass f => some f.d
  | .vfrcp f | .vfrsq f | .vfsqrt f | .vfexp2 f | .vflog2 f | .vfsin f | .vfcos f | .vftanh f | .vfsig f => some f.d
  | .vfdiv f => some f.d
  | .vcvt f => some f.d
  | .vcvti f => some f.d
  | .vcvtf f => some f.d
  | .vqnt f => some f.d
  | .vdqnt f => some f.d
  | .amaxr f => some f.d
  | .vbcast f => some f.d
  | .vred f | .vscan f => some f.d
  | .vtopk f => some f.d
  | .vmovx f => some f.d
  | _ => none

/-- The destination writes flags of R229: the floating-point words and the conversions. -/
def setsFlags : Instr → Bool
  | .vfadd _ | .vfsub _ | .vfmul _ | .vfma _ | .vfms _ | .vfnma _ | .vfmin _ | .vfmax _ | .vfcmp _
  | .vfrcp _ | .vfrsq _ | .vfsqrt _ | .vfdiv _ | .vfexp2 _ | .vflog2 _ | .vfsin _ | .vfcos _ | .vftanh _ | .vfsig _
  | .vcvt _ | .vcvtf _ | .vqnt _ | .vdqnt _ | .vred _ | .vscan _ => true
  | _ => false

/-- The words that write the running maximum (R239, R315). -/
def setsAmax : Instr → Bool
  | .vcvt _ | .vqnt _ | .amaxr _ => true
  | _ => false
/-! ## What a step leaves noted (R185, R206, R207) -/

/-- No agent is current; each team's records of a loss of decoupling and of a deadlock agree with its queues and warps; every warp whose next clause can
begin has the moment from which it could. -/
def State.settled (s : State) : Prop :=
  s.cur = none ∧
  ∀ t ∈ s.hm.teams, t.lod.inLoss = t.inLoss ∧ t.deadAt.isSome = t.deadlocked ∧
    ∀ y ∈ t.warps.zipIdx, s.eligible t { team := t.num, idx := y.2 } y.1 = true → y.1.elig.isSome = true

/-! ## A port given up (R186) -/

/-- A warp holds no port of its core; every other warp holds on every core the ports that it held. -/
def State.portGivenUp (s t : State) (w : WarpId) : Prop :=
  (∀ p, (t.core (s.coreOf w.team)).holder p ≠ some w) ∧ ∀ k p v, (s.core k).holder p = some v → v ≠ w → (t.core k).holder p = some v
/-! ## Cross-lane words (R316 to R325) -/

/-- Position `d` of a type of width `w` lies in an active lane. -/
def posActive (w : Nat) (act : Mask) (d : Nat) : Bool := mbit act (d / (64 / w))

/-- The elements of the active positions of the sub-group of size `g` that holds position `d`, ascending (R322). -/
def activeEls (w g : Nat) (act : Mask) (x : Image) (d : Nat) : List Nat :=
  ((List.range g).map (groupBase g d + ·)).filter (posActive w act) |>.map (posEl w x)

/-- How many active positions of its sub-group come before position `d`. -/
def rankOf (w g : Nat) (act : Mask) (d : Nat) : Nat :=
  (((List.range g).map (groupBase g d + ·)).filter fun i => posActive w act i && i < d).length

/-- A fold from the left (R323); none of an empty list. -/
def foldLeft (op : Nat → Nat → Nat) : List Nat → Option Nat
  | [] => none
  | x :: r => some (r.foldl op x)

/-- The flags of the combines that reduce each sub-group by the tree of R322. -/
def redFlags (op : Nat → Nat → Nat × Nat) (w g : Nat) (act : Mask) (x : Image) : Nat :=
  (List.range (posCount w / g)).foldl (fun a k => a ||| (redTree op 10 (activeEls w g act x (g * k)) 0).2) 0

/-- The flags of the combines that scan a list from the left (R323): of each element after the first with what those before it come to. -/
def scanFlags (op : Nat → Nat → Nat × Nat) (l : List Nat) : Nat :=
  (List.range (l.length - 1)).foldl (fun a n => a ||| (op ((foldLeft (fun x y => (op x y).1) (l.take (n + 1))).getD 0) (l.getD (n + 1) 0)).2) 0

/-- The flags of a scan of every sub-group; the exclusive form does not combine the last element. -/
def scanAllFlags (op : Nat → Nat → Nat × Nat) (w g : Nat) (ex : Bool) (act : Mask) (x : Image) : Nat :=
  (List.range (posCount w / g)).foldl (fun a k =>
    let l := activeEls w g act x (g * k)
    a ||| scanFlags op (if ex then l.dropLast else l)) 0

/-- Position `i` ranks before position `j` among the active positions of a sub-group (R324): by key, NaNs last, ties by position. -/
def ahead (ty : BitVec 4) (lo : Bool) (x : Image) (i j : Nat) : Bool :=
  ranksBefore ty lo (posEl (Ty.width ty) x i) i (posEl (Ty.width ty) x j) j

/-- Position `d` is among the `k` first of its sub-group (R324). -/
def chosen (ty : BitVec 4) (lo : Bool) (g k : Nat) (act : Mask) (x : Image) (d : Nat) : Bool :=
  (((List.range g).map (groupBase g d + ·)).filter fun i => posActive (Ty.width ty) act i && ahead ty lo x i d).length < k

/-- A context whose register or queue has been written with an image, and flags raised. -/
def Ctx.wrote (c : Ctx) (us : List SrcUse) (d : Fld) (act : Mask) (x : Image) (cc : BitVec 2) : Ctx :=
  (c.afterReads us).written (dstOf c.w.access d) act x cc
/-! ## Matrix mode (R210 to R213, R326 to R343) -/

/-- The data of a warp's registers. -/
def Warp.imgs (x : Warp) (rs : List Nat) : List Image := rs.map fun n => ((x.v[n]?).map (·.data)).getD 0

/-- Every register of a run is live, with no uninit mark, and waits for no grid step (R213, Table 12.3). -/
def State.tileReady (s : State) (c : Ctx) (rs : List Nat) : Bool :=
  rs.all fun n => (match c.x.v[n]? with | some r => !r.released && r.uninit == 0 | none => false) && !s.vBusy c n

/-- The accumulator that tile-control register `n` names is legal: matrix mode, role 3, a base that is a multiple of 64 with 64 registers (Table 12.3). -/
def Ctx.accOk (c : Ctx) (n : Nat) : Bool :=
  c.x.matrix && tcRole (c.x.tcReg n) == 3 && tcBase (c.x.tcReg n) % 64 == 0 && decide (tcBase (c.x.tcReg n) + 64 ≤ c.x.v.length)

/-- The tiles, the format block and the queue of an `mxacc` or `mxsub` pass checks 3 to 9 of Table 12.3. -/
def Ctx.tilesOk (c : Ctx) (f : MxF) : Bool :=
  let a := c.x.tcReg f.tca.toNat
  let b := c.x.tcReg f.tcb.toNat
  let base := tcBase (c.x.tcReg f.tcd.toNat)
  tcRole a == 1 && gridFmt (tcFmt a).toNat && decide (tcBase a + nA a ≤ c.x.v.length) && !overlap (tcBase a) (nA a) base 64 &&
    tcRole b == 2 && gridFmt (tcFmt b).toNat && tcK b == tcK a && decide (tcBase b < 1600) && pairOk (tcFmt a) (tcFmt b) &&
    f.fe == pairQuant (tcFmt a) (tcFmt b) && (!f.fe || fbOk (vget c.t.fb f.fb.toNat 0) (tcFmt a) (tcFmt b) (tcK a)) &&
    (if 1536 ≤ tcBase b then
      match c.t.queues[tcBase b - 1536]? with
      | some q => q.owner + 1 == c.w.idx && q.dir != .ret && decide (nB b ≤ q.depth) &&
          (List.range (nB b)).all fun i => match q.entries[i]? with | some e => e.st == .ready && e.psec == 0 | none => false
      | none => false
    else decide (tcBase b + nB b ≤ c.x.v.length) && !overlap (tcBase b) (nB b) base 64)

/-- The registers that an `mxacc` or `mxsub` reads: A, B when it is in registers, the accumulator. -/
def Ctx.mxRegs (c : Ctx) (f : MxF) : List Nat :=
  let a := c.x.tcReg f.tca.toNat
  let b := c.x.tcReg f.tcb.toNat
  regRun (tcBase a) (nA a) ++ (if 1536 ≤ tcBase b then [] else regRun (tcBase b) (nB b)) ++ regRun (tcBase (c.x.tcReg f.tcd.toNat)) 64

/-- The images of tile B: its registers, or the first entries of its queue. -/
def Ctx.mxB (c : Ctx) (f : MxF) : List Image :=
  let b := c.x.tcReg f.tcb.toNat
  if 1536 ≤ tcBase b then (List.range (nB b)).map fun i => (((c.t.queues[tcBase b - 1536]?).bind (·.entries[i]?)).map (·.data)).getD 0
  else c.x.imgs (regRun (tcBase b) (nB b))

/-- The context after an `mxacc` or `mxsub` has read its tiles: reads counted, a queue's entries popped (R195, R337). -/
def Ctx.mxRead (c : Ctx) (f : MxF) : Ctx :=
  let d := c.countRegs (c.mxRegs f)
  let b := c.x.tcReg f.tcb.toNat
  if 1536 ≤ tcBase b then { d with t := popAll d.t (List.replicate (nB b) (tcBase b - 1536)) } else d

/-- The scales and zero points that an `mxacc` or `mxsub` reads, none when neither tile is quantised. -/
def State.mxQuant (s : State) (c : Ctx) (f : MxF) : Except Stop (Option Quant) :=
  let a := c.x.tcReg f.tca.toNat
  let o := if f.oe then (c.x.kreg f.ko.toNat).toNat else 0
  if f.fe then (quantOf (s.blockOf c) (vget c.t.fb f.fb.toNat 0) f.fb.toNat (tcFmt a) (tcFmt (c.x.tcReg f.tcb.toNat)) (tcK a) o).map some else .ok none

/-- A queue with `n` Issued entries more at its tail (R200). -/
def Queue.issued (q : Queue) (n : Nat) : Queue := { q with entries := q.entries ++ List.replicate n { st := .issued, data := 0, psec := 0 } }
/-! ## Memory words (R346 to R376) -/

/-- Nothing holds the memory words of the warp (no load that it waits for, no gather that slices still read for), none has begun, and no fault of one of its accesses is
outstanding or has failed. -/
def State.memFree (s : State) (c : Ctx) : Prop :=
  s.gathering c.t.core c.w c.x = false ∧ c.x.holdLd = [] ∧ c.x.begun = none ∧ c.x.failed = [] ∧ (s.core c.t.core).warpFault c.w = none

/-- The same, for a word that may have begun to wait as a release. -/
def State.memOpen (s : State) (c : Ctx) : Prop :=
  s.gathering c.t.core c.w c.x = false ∧ c.x.holdLd = [] ∧ (c.x.begun = none ∨ c.x.begun = some .released) ∧ c.x.failed = [] ∧
    (s.core c.t.core).warpFault c.w = none

/-- A core differs from another in what is on its way to it, and in the loads of `mcast` words, whose lines a slice has read, alone (R138, R357). -/
def Core.onlyTraffic (c d : Core) : Prop :=
  d = { c with arriving := d.arriving, loads := d.loads } ∧ c.arriving <+: d.arriving ∧
    d.loads.filter (·.dst != .caches) = c.loads.filter (·.dst != .caches)

/-- A state differs from another in what the slices hold, in what the counters count, and in what is on its way to the cores, alone: what the service of an access at the home slices
changes (R129, R139, R154). -/
def State.onlyTraffic (s t : State) : Prop :=
  t = { s with slices := t.slices, cores := t.cores, mem := { s.mem with ctr := t.mem.ctr } } ∧ ∀ n, (s.core n).onlyTraffic (t.core n)

/-- A core's L1 holds no clean sector: each valid one has been written whole (R166). -/
def State.noClean (s : State) (core : Nat) : Prop :=
  ∀ ln i, i < 8 → ((s.core core).line ln).valid.getLsbD i = true → ((s.core core).line ln).dirtyIn i = 0xffff

/-- The kind and the fields of each load word. -/
def loadOf : Instr → Option (LoadKind × MemF)
  | .ldq f => some ({ regs := false, queues := true, sh := false, acq := none }, f)
  | .lda f => some ({ regs := true, queues := false, sh := false, acq := none }, f)
  | .lds f => some ({ regs := true, queues := true, sh := true, acq := none }, f)
  | .ldacq f => some ({ regs := true, queues := true, sh := f.sh, acq := some f.scope }, f)
  | _ => none

/-- The kind and the fields of each store word. -/
def storeOf : Instr → Option (StoreKind × MemF)
  | .sta f => some ({ regs := true, queues := false, sh := false, rel := none }, f)
  | .stq f => some ({ regs := false, queues := true, sh := false, rel := none }, f)
  | .sts f => some ({ regs := true, queues := true, sh := true, rel := none }, f)
  | .strel f => some ({ regs := true, queues := f.sh, sh := f.sh, rel := some f.scope }, f)
  | _ => none

/-- Every lane passes its checks (R149, R352). -/
def lanesPass (rs : List LaneChk) : Prop := chkFail rs = none ∧ chkFaults rs = []

/-- A lane of a load from shared memory that stands in range and is not poisoned. -/
def sharedGood (b : Block) (z o : Nat) : Bool := b.inShared o z && !b.sharedPoison o z

/-- The byte that a core's own accesses see at an address of home memory when its L1 holds it written, or a store request of the core carries it to its home slice:
the place where a stored byte stands until it is acknowledged (R126, R166). -/
def State.storedAt (s : State) (core pa : Nat) (v : Byte) : Prop :=
  (((s.core core).line (lineOf pa)).dirty.getLsbD (pa % 128) = true ∧ ((s.core core).line (lineOf pa)).byte pa = v) ∨
  ∃ tok parts p w, SliceReq.store core tok parts p w ∈ (s.slice (sliceOf (lineOf pa))).queue ∧ (pa, v) ∈ parts.flatten

/-- The requests that wait at the slices still do, in their order; what a change has added among them are stores of the given bytes, or of bytes that the core's L1 held written
(of a line evicted: R126). -/
def State.addsStores (s t : State) (core : Nat) (bs : List Host.Cell) : Prop :=
  ∀ n, (s.slice n).queue.Sublist (t.slice n).queue ∧
    ∀ r ∈ (t.slice n).queue, r ∈ (s.slice n).queue ∨ ∃ tok parts p w, r = SliceReq.store core tok parts p w ∧
      ∀ x ∈ parts.flatten, x ∈ bs ∨ (((s.core core).line (lineOf x.1)).dirty.getLsbD (x.1 % 128) = true ∧ ((s.core core).line (lineOf x.1)).byte x.1 = x.2)

/-- An L1 line of a core is as it was, or has been evicted: nothing of it is valid, and the bytes that it held written stand at their home slice or on their way there (R126). -/
def State.keepsLine (s t : State) (core ln : Nat) : Prop :=
  (t.core core).line ln = (s.core core).line ln ∨
  (((t.core core).line ln).valid = 0 ∧ ∀ i < 128, ((s.core core).line ln).dirty.getLsbD i = true → t.storedAt core (ln + i) (((s.core core).line ln).byte (ln + i)))

/-- No earlier load of the warp's path still waits for one of the bytes (R165). -/
def State.readsDone (s : State) (c : Ctx) (pas : List Nat) : Prop :=
  ∀ l ∈ (s.core c.t.core).loads, l.w = c.w → c.x.unordered l.tok = false → ∀ n ∈ l.need, n.pa ∉ pas

/-- A queue field of a word of the access warp that names a queue with one of the directions it takes (R351, R367). -/
def Ctx.queueAt (c : Ctx) (f : Fld) (ok : Queue → Bool) (q : Nat) (x : Queue) : Prop :=
  f.toNat = 1536 + q ∧ q < 64 ∧ c.t.queues[q]? = some x ∧ ok x = true

/-- The trap of a field that must name a queue of one of the directions `ok` (R351, R367; Table 7.3, rows 3 and 4); a peek value names its queue too. -/
def queueFault (t : Team) (f : Fld) (ok : Queue → Bool) : Option TrapReq :=
  let n := f.toNat
  let bad : Option TrapReq := some { cause := .illegalOperand, reg := n }
  let dir : Option TrapReq := some { cause := .queueDirection, reg := n }
  if 1536 ≤ n ∧ n < 1600 then (match t.queues[n - 1536]? with | none => bad | some x => if ok x then none else dir)
  else if 1600 ≤ n ∧ n < 1664 then (if n - 1600 < t.queues.length then dir else bad)
  else bad

/-- The warp of a context with its word retired as a long-latency one that is complete at its trap point (R351). -/
def Ctx.longDone (c : Ctx) (tok : Nat) : Ctx :=
  { c with x := c.x.issueLong { tok := tok, done := true, left := none, load := false, grid := false } }

/-- A remote window: the device, the base, and every address up to 2^52 (R57, R350). -/
def Window.toDevice (dev va : Nat) : Window := { va := va, pa := 0, limit := 2 ^ 52 - va, write := true, replica := false, remote := some dev, dom := true }

/-- The units outside the teams and the ports of the cores stay as they were. -/
structure State.sameUnits (s t : State) : Prop where
  mgmt    : t.mgmt = s.mgmt
  islands : t.islands = s.islands
  links   : t.links = s.links
  areas   : t.areas = s.areas
  slices  : t.slices = s.slices
  sent    : t.sent = s.sent
  mem     : t.mem = s.mem
  hm      : { t.hm with teams := s.hm.teams } = s.hm

/-- Elements performed one after another on home memory (R134): the memory, the old value of each that met no poison, and those that met poison. -/
def Ram.performs (r : Ram) : List AtomElem → Ram × List (AtomElem × Nat) × List AtomElem
  | [] => (r, [], [])
  | e :: es =>
    match r.rmw e with
    | none => let x := r.performs es; (x.1, x.2.1, e :: x.2.2)
    | some (m, old) => let x := m.performs es; (x.1, (e, old) :: x.2.1, x.2.2)

/-- The kind of the fault that what has joined one, a load apart, still meets when it is checked again (R151). -/
def State.meetsStill (s : State) (core : Nat) (f : FaultSlot) : Joined → Option Nat
  | .load _ => none
  | .warp w a => s.stillFaults core f w.team a
  | .fetch w => s.stillFaults core f w.team .load
  | .cmd t _ _ a => s.stillFaults core f t a
  | .walk t _ _ a => s.stillFaults core f t a

/-- The rows of Table 1.16 for a command word: the command, its code, the stages in which it runs, and whether an argument has a bit set that it does not use. -/
def mbRow (w : Word) (i : Instr) (code : Nat) (ss : List Stage) (unused : Bool) : Prop :=
  let any : Bool := fieldOf w 16 48 != 0
  (i = .readIdentityCertificate w ∧ code = 0x01 ∧ ss = [.firmware, .running, .recovery] ∧ unused = any) ∨
  (i = .readAliasCertificate w ∧ code = 0x02 ∧ ss = [.firmware, .running] ∧ unused = any) ∨
  (i = .attest w ∧ code = 0x03 ∧ ss = [.firmware, .running] ∧ unused = any) ∨
  (i = .raiseFuseSvn w ∧ code = 0x04 ∧ ss = [.running] ∧ unused = any) ∨
  (i = .readConfiguration w ∧ code = 0x05 ∧ ss = [.firmware, .running, .recovery] ∧ unused = any) ∨
  (i = .imageBegin w ∧ code = 0x10 ∧ ss = [.running, .recovery] ∧ unused = (fieldOf w 17 15 != 0)) ∨
  (i = .imageChunk w ∧ code = 0x11 ∧ ss = [.running, .recovery] ∧ unused = (fieldOf w 26 6 != 0)) ∨
  (i = .imageCommit w ∧ code = 0x12 ∧ ss = [.running, .recovery] ∧ unused = (fieldOf w 17 47 != 0))

/-- One sector of the output of a copy or of a row gather that meets no failure (R389, R390): its place before and after, what was read for it, and the state that follows. Where a row of
a gather begins its index is read; an index at or above the number of rows gives zeros and counts as a miss; each sector goes to its place in memory, or is kept for an entry. -/
structure State.copiesSector (s : State) (t : Team) (c : Cmd) (stop : Nat) (p p' : CopyPos) (bs : List (Byte × Bool)) (v : State) : Prop where
  off : p'.off = p.off + min 16 (stop - p.off)
  index :
    let row := fieldOf (vget c.q 4 0) 32 16
    (c.kind = 1 ∨ p.off % row ≠ 0 → p'.idx = p.idx ∧ p'.misses = p.misses) ∧
    (c.kind ≠ 1 → p.off % row = 0 → ∃ ib, (∀ x ∈ ib, x.2 = false) ∧ p'.idx = leNat (ib.map (·.1)) ∧
      s.engRead (.cmd t.num c.e c.seq) (s.spaceOf t.num) (fieldOf (vget c.q 5 0) 0 52 + 4 * (p.off / row)) 4 = .bytes ib ∧
      p'.misses = p.misses + if fieldOf (vget c.q 4 0) 0 32 ≤ p'.idx then 1 else 0)
  read :
    let row := fieldOf (vget c.q 4 0) 32 16
    let n := min 16 (stop - p.off)
    let src := fieldOf (vget c.q 2 0) 0 52
    if c.kind ≠ 1 ∧ fieldOf (vget c.q 4 0) 0 32 ≤ p'.idx then bs = List.replicate n (0, false)
    else s.copyRead t c ((vget c.q 2 0).getLsbD 52) (if c.kind = 1 then src + p.off else src + p'.idx * row + p.off % row) n = .bytes bs
  write :
    let row := fieldOf (vget c.q 4 0) 32 16
    let dst := fieldOf (vget c.q 3 0) 0 52
    let i := p.off / row
    let at_ := if c.kind = 1 then dst + p.off else dst + i * fieldOf (vget c.q 6 0) 0 32 + 16 * ((p.off % row / 16) ^^^ (i % 2 ^ fieldOf (vget c.q 6 0) 32 4))
    let after (w : State) : State := w.copyServed t c { p' with off := p.off } (min 16 (stop - p.off))
    if (vget c.q 3 0).getLsbD 53 = true then v = after s
    else ∃ w, s.copyWrite t c ((vget c.q 3 0).getLsbD 52) at_ bs = .ok w ∧ v = (after w).doneReading (.cmd t.num c.e c.seq)

end Sys2Proof.Machine
end

