-- ==== Sys2Proof/Certificates/Slice0/Obligations.lean ====
section
/-! DEFINITION. The statements for the provers. Each is a claim about the machine; its docstring names the rules of spec/ it formalises. -/

open Sys2Proof Sys2Proof.Machine

/-- O1. For every well-formed instruction of a warp, with every operand at every value its word admits, the decoder reads from the word that encodes it
that instruction. (R255, R258, R261, R264, R265.) -/
def Obligations.RoundTripWords : Prop :=
  ∀ (i : Instr) (w : Word), i.wf = true → encode i = some w → decodeWord w = .ok i

/-- O2. For every well-formed Lighter or Pilot instruction the micro-decoder of its unit reads from the word that encodes it that instruction. (R393,
R399.) -/
def Obligations.RoundTripMicroWords : Prop :=
  (∀ (i : Instr) (w : BitVec 32), i.wf = true → encodeX i = some w → decodeX w = some i) ∧
  (∀ (i : Instr) (w : BitVec 32), i.wf = true → encodeP i = some w → decodeP w = some i)

/-- O3. Words that the spec writes out with their assembly (Examples 9.1, 10.1, 11.1, 11.2, 12.1, 13.1, and the tables of examples) decode to those
instructions: vfadd, rep, vfrcp, vmovi, vcvt, vred, mrmask, mxacc, atom and push. (R255, R265, R284, R291, R309, R322, R345, R349, R354, R374.) -/
def Obligations.DecodeSpecWords : Prop :=
  decodeWord 0x4050280101900000 = .ok (.vfadd { ty := 10, d := 40, a := 8, b := 100, cc := 0, g := ⟨0, false⟩, uni := false }) ∧
  decodeWord 0x058e020200000000 = .ok (.rep { n := 7, sd := 1, sa := 1, sb := 0, sc := 0 }) ∧
  decodeWord 0x48501402a0008000 = .ok (.vfrcp { ty := 10, d := 20, a := 21, la := 2, cc := 0, g := ⟨0, false⟩ }) ∧
  decodeWord 0x2c988a0000000380 = .ok (.vmovi { ty := 3, d := 138, imm := 7, cc := 0, g := ⟨0, false⟩, uni := false }) ∧
  decodeWord 0x60480a0080044500 = .ok (.vcvt { ty := 9, d := 10, a := 4, part := 1, la := 1, sf := false, rm := 0, st := 10, cc := 0, g := ⟨0, false⟩ }) ∧
  decodeWord 0x72d01e0100000100 = .ok (.vred { ty := 10, d := 30, a := 8, ex := false, op := 0, gs := 2, cc := 0, g := ⟨0, false⟩ }) ∧
  decodeWord 0x8406c1c040000800 = .ok (.mrmask { d := 1729, a := 1538, off := 16, g := ⟨0, false⟩ }) ∧
  decodeWord 0x8200000032480980 = .ok (.mxacc { tcd := 0, tca := 1, oe := true, ko := 9, tcb := 2, la := 0, fe := true, fb := 3, g := ⟨0, false⟩ }) ∧
  decodeWord 0xa530079880240080 = .ok (.atom { ty := 6, d := 7, scope := 2, order := 3, off := 4, b := 9, la := 0, sh := false, op := 0, tw := 1, g := ⟨0, false⟩ }) ∧
  decodeWord 0xe006c1d200000500 = .ok (.push { d := 1729, a := 1680, la := 0, e := 10, g := ⟨0, false⟩ })

/-- O4. At a turn of a warp that can issue and whose islands are awake, the word at its slot of its open clause, or under rep that word with its fields
stepped as often as it has run already (D, A, B and C modulo 2048, the C7 of a long-latency word modulo 128), decoded afresh each time, is checked as
R269 says: when it passes, the step is exec of the instruction it decodes to with the warp current, followed by what every step notes, unless an
island whose shared memory that instruction reaches sleeps, which the step then wakes; when it fails checks 1 to 4 it raises the trap that they name:
"illegal clause" for a class field of 15, or a class that the clause or the warp has not, "reserved opcode" for an opcode or a field that no table
lists, and "illegal operand" for a uniform word of an execute warp whose D with a count is a register (log entry 108); a rep word that does not decode
meets the rules of R266 first (log entry 36). A warp whose lookahead has run out stalls. The fetch of a word from the line that the warp holds changes
nothing. (R20, R248, R257, R264, R265, R266, R267, R268, R269, R288.) -/
def Obligations.StepRunsDecodedWord : Prop :=
  (∀ (s : State) (r : List Turn) (w : WarpId) (c : Ctx) (k : Task) (l : CodeLine) (word : Word) (i : Instr),
    s.turns = .run (.warp w) :: r → ({ s with turns := r, cur := some (.warp w) } : State).ctx? = some c →
    c.t.st = .resident → c.x.awake = true → c.x.clause.isSome = true → c.x.resumed = false → c.x.lookaheadOut = false → c.x.repLeft = 0 →
    s.task? c.t.task = some k → 0 ≤ c.x.wordOff c.x.slot → c.x.wordOff c.x.slot < k.launch.csize → c.x.wordOff c.x.slot % 8 = 0 →
    ({ s with turns := r } : State).asleep (islandsOf c) = false →
    c.x.code = some l → l.va = (k.code + (c.x.wordOff c.x.slot).toNat) / 128 * 128 → l.wordAt (k.code + (c.x.wordOff c.x.slot).toNat) = .ok word →
    wordCheck c.w.access ((c.x.clause.map (·.cls)).getD 7) word = .ok i →
    ({ s with turns := r } : State).asleep (({ s with turns := r } : State).wordIslands c i) = false →
    step s = match exec i { s with turns := r, cur := some (.warp w) } with
      | .next t => .next t.settle
      | .fault f => .fault f
      | .refused m => .refused m) ∧
  (∀ (s s2 : State) (r : List Turn) (w : WarpId) (c c2 : Ctx) (v : Word),
    let s0 : State := { s with turns := r, cur := some (.warp w) }
    s.turns = .run (.warp w) :: r → s0.ctx? = some c → c.t.st = .resident → c.x.awake = true → c.x.clause.isSome = true → c.x.resumed = false →
    s0.asleep (islandsOf c) = false →
    (c.x.lookaheadOut = true → step s = .next (s0.stallWarp w .look).settle) ∧
    (c.x.lookaheadOut = false →
      (c.x.repLeft = 0 ∧ s0.fetch c (c.x.hdr + 8 * (c.x.slot + 1)) = (s2, .ok v) ∨
        ∃ s1 c1 word p f, c.x.repLeft ≠ 0 ∧ 0 < c.x.slot ∧ s0.fetch c (c.x.hdr + 8 * (c.x.slot + 1)) = (s1, .ok word) ∧ s1.ctx? = some c1 ∧
          s1.fetch c1 (c.x.hdr + 8 * c.x.slot) = (s2, .ok p) ∧ decodeWord p = .ok (.rep f) ∧ v = stepWord word f (f.n.toNat + 1 - c.x.repLeft)) →
      s2.ctx? = some c2 →
      let chk := wordCheck c2.w.access ((c2.x.clause.map (·.cls)).getD 7) v
      (∀ i, chk = .ok i →
        step s = if s2.asleep (s2.wordIslands c2 i) then .next (s2.wakeIslands (s2.wordIslands c2 i)).settle else match exec i s2 with
          | .next t => .next t.settle
          | .fault f => .fault f
          | .refused m => .refused m) ∧
      (∀ q, chk = .error (.trap q) → Dec.opcode v ≠ 0x00b → step s = .next (s2.raise w q).settle) ∧
      (∀ q, chk = .error (.trap q) → Dec.opcode v = 0x00b →
        (c2.x.count ≤ c2.x.slot + 1 → step s = .next (s2.raise w { cause := .illegalClause }).settle) ∧
        (∀ s3 n, c2.x.slot + 1 < c2.x.count → s2.fetch c2 (c2.x.hdr + 8 * (c2.x.slot + 2)) = (s3, .ok n) →
          step s = .next (s3.raise w { cause := if noRepOp (Dec.opcode n) then .illegalClause else .reservedOpcode }).settle)))) ∧
  (∀ (access : Bool) (cls : Nat) (w : Word),
    let op := Dec.opcode w
    let kind (k : Nat) : Prop := k = 5 ∨ k = cls ∧ (access = false ∨ cls ≠ 0 ∨ (0x020 ≤ op ∧ op ≤ 0x033) ∨ (0x040 ≤ op ∧ op ≤ 0x059))
    (Dec.fld w 60 4 = 0xf#4 → wordCheck access cls w = .error (.trap { cause := .illegalClause })) ∧
    (Dec.fld w 60 4 ≠ 0xf#4 → opcodeClass op = none → wordCheck access cls w = .error (.trap { cause := .reservedOpcode })) ∧
    (∀ k, Dec.fld w 60 4 ≠ 0xf#4 → opcodeClass op = some k →
      (¬ kind k → wordCheck access cls w = .error (.trap { cause := .illegalClause })) ∧
      (∀ i, kind k → decodeWord w = .ok i → wordCheck access cls w = .ok i) ∧
      (∀ e, kind k → decodeWord w = .error e → wordCheck access cls w =
        .error (.trap (if looseK access w then { cause := .illegalOperand, reg := (Dec.fld w 40 11).toNat } else { cause := .reservedOpcode }))))) ∧
  (∀ (w : Word) (f : RepF) (r : Nat),
    let x := w.toNat; let y := (stepWord w f r).toNat
    ((bitsOf y 40 11 : Nat) : Int) = ((bitsOf x 40 11 : Nat) + r * f.sd.toInt) % 2048 ∧ ((bitsOf y 29 11 : Nat) : Int) = ((bitsOf x 29 11 : Nat) + r * f.sa.toInt) % 2048 ∧
    ((bitsOf y 18 11 : Nat) : Int) = ((bitsOf x 18 11 : Nat) + r * f.sb.toInt) % 2048 ∧ bitsOf y 51 13 = bitsOf x 51 13 ∧ bitsOf y 0 7 = bitsOf x 0 7 ∧
    (longForm (Dec.opcode w) = true → bitsOf y 14 4 = bitsOf x 14 4 ∧ ((bitsOf y 7 7 : Nat) : Int) = ((bitsOf x 7 7 : Nat) + r * f.sc.toInt) % 128) ∧
    (longForm (Dec.opcode w) = false → ((bitsOf y 7 11 : Nat) : Int) = ((bitsOf x 7 11 : Nat) + r * f.sc.toInt) % 2048))

/-- O5. A warp that holds no line of code, whose code address translates to home memory, fetches a line: the one that home memory holds, or, only where
the core has kept an older content of it, one of those (log entry 100). Where it has kept none and the sector is not poisoned, the word is the little-
endian word of the eight bytes of home memory. The warp keeps the line; home memory, every other warp and the warp's registers stay. (R182, R248,
R433.) -/
def Obligations.FetchReadsHomeMemory : Prop :=
  ∀ (s : State) (c : Ctx) (k : Task) (off f : Nat) (big wr rep : Bool),
    s.ctx? = some c → s.task? c.t.task = some k → off < k.launch.csize → off % 8 = 0 → c.x.code = none → k.code + off < 2 ^ 52 →
    s.xlat (s.spaceOf c.w.team).core (s.spaceOf c.w.team).asid (k.code + off) = .leaf f big wr rep →
    isHbm (leafPa f big (k.code + off) / 128 * 128) = true →
    (k.code + off) % 8 = 0 → c.x.failed = [] →
    ∃ l, (s.fetch c off).2 = l.wordAt (k.code + off) ∧ (s.fetch c off).1.warp? c.w = some { c.x with code := some l } ∧
      (s.fetch c off).1.mem.ram = s.mem.ram ∧ (∀ w, w ≠ c.w → (s.fetch c off).1.warp? w = s.warp? w) ∧
      (l.bytes = BitVec.ofNat 1024 (s.mem.ram.num (leafPa f big (k.code + off) / 128 * 128) 128) ∨
        ∃ o ∈ (s.core c.t.core).codes, o.pa = leafPa f big (k.code + off) / 128 * 128 ∧ l.bytes = o.bytes ∧ l.poison = o.poison) ∧
      ((∀ o ∈ (s.core c.t.core).codes, o.pa ≠ leafPa f big (k.code + off) / 128 * 128) →
        s.mem.ram.poisonedAt (leafPa f big (k.code + off) / 128 * 128 + (k.code + off) % 128) = false →
        (s.fetch c off).2 = .ok (word (s.mem.ram.num (leafPa f big (k.code + off) / 128 * 128 + (k.code + off) % 128) 8)))

/-- O6. (The model's own: log entry 1.) At a turn that names a device event whose islands are awake the step is exec of that event, and while one of them
sleeps the step wakes it (R20); at a turn of a Lighter or a Pilot walk whose program counter holds a micro-word, the step is exec of what it decodes
to with that agent current; at a turn of time the counters advance, at one of an eviction or of a storage error the line or the sector changes, at one
of a resizing the size of BAR2 (R47), and no instruction runs; after each, what every step notes is noted. (R248, R393, R400.) -/
def Obligations.StepRunsTurn : Prop :=
  (∀ (s t : State) (r : List Turn) (i : Instr), s.turns = .event i :: r → isEvent i = true → ({ s with turns := r } : State).asleep (({ s with turns := r } : State).eventIslands i) = false → exec i { s with turns := r } = .next t → step s = .next t.settle) ∧
  (∀ (s : State) (r : List Turn) (i : Instr), s.turns = .event i :: r → ({ s with turns := r } : State).asleep (({ s with turns := r } : State).eventIslands i) = true →
    step s = .next (({ s with turns := r } : State).wakeIslands (({ s with turns := r } : State).eventIslands i)).settle) ∧
  (∀ (s : State) (r : List Turn) (n : Option Nat) (ns : Nat), s.turns = .elapse n ns :: r → step s = .next (({ s with turns := r } : State).elapse n ns).settle) ∧
  (∀ (s : State) (r : List Turn) (c pa : Nat), s.turns = .evict c pa :: r → step s = .next (({ s with turns := r } : State).evict c pa).settle) ∧
  (∀ (s : State) (r : List Turn) (c : Option Nat) (pa : Nat), s.turns = .upset c pa :: r → step s = .next (({ s with turns := r } : State).upset c pa).settle) ∧
  (∀ (s : State) (r : List Turn) (n : Nat), s.turns = .bar2 n :: r → step s = .next (({ s with turns := r } : State).resizeBar2 n).settle) ∧
  (∀ (s u : State) (r : List Turn) (core : Nat) (t : Team) (c : Cmd) (m : Lighter) (i : Instr),
    s.turns = .run (.lighter core) :: r → ({ s with turns := r, cur := some (.lighter core) } : State).lighter? = some (t, c, m) →
    ({ s with turns := r, cur := some (.lighter core) } : State).readingHost (.cmd t.num c.e c.seq) = false → m.run < c.ilim →
    ({ s with turns := r } : State).asleep [6 * core] = false → (m.prog[m.pc.toNat]?).bind decodeX = some i → exec i { s with turns := r, cur := some (.lighter core) } = .next u → step s = .next u.settle) ∧
  (∀ (s u : State) (r : List Turn) (n : Nat) (q : BitVec 32) (key : Nat) (t : Team) (c : Cmd) (p : PilotRun) (w : Walk) (i : Instr),
    s.turns = .run (.pilot n q key) :: r → ({ s with turns := r, cur := some (.pilot n q key) } : State).pilot? = some (t, c, p, w) →
    ({ s with turns := r, cur := some (.pilot n q key) } : State).readingHost (walkReader t c w.key) = false →
    (p.prog[w.pc.toNat]?).bind decodeP = some i → exec i { s with turns := r, cur := some (.pilot n q key) } = .next u → step s = .next u.settle)

/-- O7. From any state at all, also one that no run reaches, a step neither faults nor refuses: every word traps, stalls or has its effect, and every
event happens or does not. (R214, R215, R269.) -/
def Obligations.StepAlwaysAnswers : Prop :=
  ∀ s : State, stepsOn s

/-- O8. After every step no agent is current, one more step has passed, every warp whose next clause can begin has an eligibility time, and each team's
record of a loss of decoupling and of a possible deadlock agrees with its queues and warps. (R185, R206, R207.) -/
def Obligations.StepSettles : Prop :=
  ∀ s t : State, step s = .next t → t.settled ∧ t.tick = s.tick + 1

/-- O9. In the state at reset no agent is current, the notes of every team agree with its state (there is none), and home memory lists nothing, so that
every byte of it reads 0. (That memory is all zeros at reset is the model's choice: log entry 4.) (R185.) -/
def Obligations.ResetSettled : Prop :=
  State.reset.settled ∧ State.reset.mem.ram.wf = true ∧ ∀ a, readCell State.reset.mem.ram.cells a = 0

/-- O10. If home memory lists its bytes at rising addresses, none of them zero, and its poisoned sectors rising, it still does after any step. (R28, R90,
R122, R123.) -/
def Obligations.StepKeepsMemoryCanonical : Prop :=
  ∀ s t : State, s.mem.ram.wf = true → step s = .next t → t.mem.ram.wf = true

/-- O11. A store to home memory reads back, leaves every other byte as it was, marks the sectors whose data is poisoned, clears the mark of a sector it
writes whole with good data, and leaves any other sector's mark. (R123.) -/
def Obligations.StoresKeepAndReadBack : Prop :=
  ∀ (r : Ram) (bs : List Host.Cell) (bad : Nat → Bool), r.wf = true →
    (r.store bs bad).wf = true ∧
    (∀ a, (∀ b ∈ bs, b.1 ≠ a) → readCell (r.store bs bad).cells a = readCell r.cells a) ∧
    (∀ a v pre post, bs = pre ++ (a, v) :: post → (∀ b ∈ post, b.1 ≠ a) → readCell (r.store bs bad).cells a = v) ∧
    (∀ sec, (∃ b ∈ bs, b.1 / 16 = sec) →
      ((r.store bs bad).poison.contains sec = true ↔
        bad sec = true ∨ (r.poison.contains sec = true ∧ ∃ i, i < 16 ∧ ∀ b ∈ bs, b.1 ≠ 16 * sec + i))) ∧
    (∀ sec, (∀ b ∈ bs, b.1 / 16 ≠ sec) → ((r.store bs bad).poison.contains sec = true ↔ r.poison.contains sec = true))

/-- O12. A trap raised with a handler, outside it and with every earlier instruction complete, leaves the warp with the four registers of Tables 7.9 to
7.12, the trap frame of M, rpc and both stacks, and the pc at the header traph; every other register, the active mask, the matrix mode and the retired
count stay, and every other warp, memory and the rest of the device stay. When traph is 0 or the warp runs its handler and every earlier instruction
is complete, a raised trap leaves no such team; no other team, no island and nothing of the management controller changes. While an earlier
instruction of the warp has not completed, a raised trap is held with the values its registers will take and the warp keeps everything; the warp does
not issue; once every earlier instruction has completed, TRAP_DELIVERY does what the trap would have done at once. (R214, R215, R216, R219, R289, R92,
R217.) -/
def Obligations.TrapsTaken : Prop :=
  (
    ∀ (s : State) (w : WarpId) (x : Warp) (q : TrapReq),
      s.warp? w = some x → s.traph w.team ≠ 0 → x.inHandler = false → s.quiet w = true →
      ∃ y, (s.raise w q).warp? w = some y ∧
        y.tinfo = #v[word (q.sub % 256 * 2 ^ 48 + q.cause.code * 2 ^ 40 + q.cause.cls * 2 ^ 36 + x.slot % 16 * 2 ^ 32 + x.repLeft % 128 * 2 ^ 25 + 2 ^ 24 +
            b2n q.nxt * 2 ^ 23 + b2n (w.idx == 0) * 2 ^ 16 + q.reg % 2048),
          word (x.hdr % 2 ^ 32).toNat, word (if q.cause.cls = 4 then q.va % 2 ^ 52 else 0), word q.lanes.toNat] ∧
        y.frame = some { m := x.m, rpc := x.rpc, pstack := x.pstack, cstack := x.cstack, wrote := x.wrote } ∧
        y.hdr = (s.traph w.team : Nat) ∧ y.slot = 0 ∧ y.clause = none ∧ y.inHandler = true ∧
        y.v = x.v ∧ y.a = x.a ∧ y.k = x.k ∧ y.p = x.p ∧ y.tc = x.tc ∧ y.tw = x.tw ∧ y.m = x.m ∧ y.rpc = x.rpc ∧ y.pstack = x.pstack ∧ y.cstack = x.cstack ∧
        y.live = x.live ∧ y.matrix = x.matrix ∧ y.fflags = x.fflags ∧ y.amax = x.amax ∧ y.retired = x.retired ∧
        s.sameOutside (s.raise w q) w ∧ ∀ t, s.team? w.team = some t → ∃ u, (s.raise w q).team? w.team = some u ∧ u.queues = t.queues) ∧
  (
    ∀ (s : State) (w : WarpId) (x : Warp) (q : TrapReq),
      s.warp? w = some x → (s.traph w.team = 0 ∨ x.inHandler = true) → s.quiet w = true →
      (s.raise w q).team? w.team = none ∧ (∀ n, n ≠ w.team → (s.raise w q).team? n = s.team? n) ∧ (s.raise w q).mgmt = s.mgmt ∧
        (s.raise w q).islands = s.islands) ∧
  (
    (∀ (s : State) (w : WarpId) (x : Warp) (q : TrapReq), s.warp? w = some x → s.quiet w = false →
      (s.raise w q).warp? w = some { x with trap := some (x.trapInfo q), stall := none } ∧ s.sameOutside (s.raise w q) w) ∧
    (∀ (s : State) (n j : Nat) (x : Warp) (i : TrapInfo), s.warp? ⟨n, j⟩ = some x → x.trap = some i → s.quiet ⟨n, j⟩ = true →
      exec (.trapDelivery n j) s = .next (s.deliverTrap ⟨n, j⟩ i)) ∧
    (∀ (x : Warp), x.trap.isSome = true → x.awake = false))

/-- O13. A word of Tables 10.4, 11.1 or 11.3, a comparison or classification, a conversion, vmov, a cross-lane word or amaxr, whose consumer count is
allowed and whose fields wait for nothing (no register for an interlock, no queue for an entry: R202) traps on the first of its fields, D before A, B
and C (R269 and log entry 33, DEDUCED), that fails Table 7.3, with that row's cause and the field's number: a register above the allotment, released
or uninitialised, a queue that is missing, not the warp's own, of the wrong direction or exhausted, an entry that is poisoned, a field that names
nothing, a k register or a predicate as D of a word that writes none; of the access warp, a v register it has not or a queue. A consumer count on a D
that is no v register raises "reserved opcode". Nothing else changes but by taking the trap. A uniform scalar word, or a word of Tables 10.4 or 11.1,
a comparison or vmov with its uniform bit set, without a consumer count, raises "illegal operand" with the number of its first field, D before A, B
and C, that R263 does not allow: D neither a k register nor zero, a source neither a k register nor a special (also where an access warp's word names
a queue: log entry 110, DEDUCED). (R194, R196, R201, R202, R204, R260, R264, R269, R263, R290.) -/
def Obligations.OperandTraps : Prop :=
  (
    ∀ (i : Instr) (s : State) (c : Ctx) (e : Elem) (k p v : Bool),
      opFields i = some (e, k, p, v) → e.uni = false → s.ctx? = some c →
      (ccOk c.w.access e.cc e.d = false → exec i s = .next (s.raise c.w { cause := .reservedOpcode })) ∧
      (ccOk c.w.access e.cc e.d = true → s.fieldBusy c e.d = false → (∀ u ∈ e.us, s.fieldBusy c u.fld = false) → srcsThere c e.us = true →
        (∀ q, dstTrap c k p v e.d = some q → exec i s = .next (s.raise c.w q)) ∧
        (dstTrap c k p v e.d = none → ∀ pre u post q, e.us = pre ++ u :: post → s.srcsReady c (c.x.active e.g) pre = true →
          srcFault c (c.x.active e.g) u (takenBefore pre u) = some q → exec i s = .next (s.raise c.w q)))) ∧
  (
    ∀ (i : Instr) (s : State) (c : Ctx) (e : Elem),
      ((∃ v, intResult i [] = some (e, v) ∧ (isScalar i = true ∨ e.uni = true ∧ e.cc = 0)) ∨ (∃ v, fltResult i [] = some (e, v) ∧ e.uni = true ∧ e.cc = 0) ∨
        (∃ v, cmpResult i [] = some (e, v) ∧ e.uni = true ∧ e.cc = 0) ∨ (∃ f, i = .vmov f ∧ e = elem1 f false ∧ e.uni = true ∧ e.cc = 0)) →
      s.ctx? = some c →
      (¬ ((1664 ≤ e.d.toNat ∧ e.d.toNat < 1728) ∨ e.d.toNat = 1736) →
        exec i s = .next (s.raise c.w { cause := .illegalOperand, reg := e.d.toNat })) ∧
      (((1664 ≤ e.d.toNat ∧ e.d.toNat < 1728) ∨ e.d.toNat = 1736) → ∀ pre u post, e.us = pre ++ u :: post →
        (∀ x ∈ pre, (1664 ≤ x.fld.toNat ∧ x.fld.toNat < 1728) ∨ (1736 ≤ x.fld.toNat ∧ x.fld.toNat < 1743)) →
        ¬ ((1664 ≤ u.fld.toNat ∧ u.fld.toNat < 1728) ∨ (1736 ≤ u.fld.toNat ∧ u.fld.toNat < 1743)) →
        exec i s = .next (s.raise c.w { cause := .illegalOperand, reg := u.fld.toNat })))

/-- O14. When a word of the scalar, vector, conversion or cross-lane sets whose one destination is field D retires, every v, a, k and predicate register
but D's, the tile-control, window and trap-information registers, the path state and the mode stay; fflags stays unless the word is a floating-point
one, amax unless it is vcvt, vqnt or amaxr; of the team only its queues change, never their number; every byte of memory, every other warp and team
and every other unit of the device stay. (A counted read of R195 lowers a source's consumer count and may release it: its data stays.) When such a
word neither retires nor takes a trap, its warp stalls or its trap is held: every register, the fflags, amax, every queue, every byte of memory and
every other warp stay as they were. (R195, R214, R229, R239, R262, R186.) -/
def Obligations.DataWordFrame : Prop :=
  (
    ∀ (i : Instr) (s t : State) (c : Ctx) (d : Fld), dataDst i = some d → s.ctx? = some c → exec i s = .next t → retiredIn c t →
      s.sameOutside t c.w ∧
      ∃ y u, t.warp? c.w = some y ∧ c.x.framed y c.w.access d ∧ (setsFlags i = false → y.fflags = c.x.fflags) ∧ (setsAmax i = false → y.amax = c.x.amax) ∧
        t.team? c.w.team = some u ∧ u.queues.length = c.t.queues.length ∧ { u with warps := c.t.warps, queues := c.t.queues } = c.t) ∧
  (
    ∀ (i : Instr) (s t : State) (c : Ctx) (d : Fld) (y : Warp), dataDst i = some d → s.ctx? = some c → exec i s = .next t →
      t.warp? c.w = some y → y.retired = c.x.retired → y.inHandler = c.x.inHandler → s.traph c.w.team ≠ 0 →
      s.sameOutside t c.w ∧ y.v = c.x.v ∧ y.a = c.x.a ∧ y.k = c.x.k ∧ y.p = c.x.p ∧ y.tinfo = c.x.tinfo ∧ y.fflags = c.x.fflags ∧ y.amax = c.x.amax ∧
        y.m = c.x.m ∧ y.rpc = c.x.rpc ∧ y.pstack = c.x.pstack ∧ y.cstack = c.x.cstack ∧ y.hdr = c.x.hdr ∧ y.slot = c.x.slot ∧
        ∃ u, t.team? c.w.team = some u ∧ u.queues = c.t.queues)

/-- O15. A uniform scalar word whose fields name k registers and specials retires; when its condition holds, its k register takes the exact value of Table
10.2 narrowed to the type and extended to 64 bits by the type's signedness (nothing for zero); when it fails, no register changes. (R221, R222, R223,
R263, R279, R290, R291, R292.) -/
def Obligations.ScalarResults : Prop :=
  ∀ (i : Instr) (s : State) (c : Ctx) (e : Elem) (v : Int),
    intResult i [] = some (e, v) → isScalar i = true → i.wf = true → s.ctx? = some c → uniFields e = true →
    ∃ r : Int, intResult i (uniEls c e 0) = some (e, r) ∧
      exec i s = .next (s.retireWarp c.w
        (if c.x.cond e.g then c.x.writeK e.d (BitVec.ofInt 64 (intVal e.ty (toN (Ty.width e.ty) r))) else c.x))

/-- O16. A vector integer word of a well-formed type whose fields can all be used retires, its reads counted and its entries popped, and writes to its
destination under its active lanes an image each of whose elements is the exact value of Table 10.4 narrowed to the type. (R193, R202, R221, R222,
R223, R224, R262, R291, R293.) -/
def Obligations.VectorIntegerResults : Prop :=
  ∀ (i : Instr) (s : State) (c : Ctx) (e : Elem) (v : Int),
    intResult i [] = some (e, v) → isScalar i = false → i.wf = true → e.uni = false → s.ctx? = some c → s.fieldsReady c e.d e.cc e.g e.us = true →
    ∃ X : Image, exec i s = .next (s.retireCtx ((c.afterReads e.us).written (dstOf c.w.access e.d) (c.x.active e.g) X e.cc)) ∧
      ∀ t < 32, ∀ j < 64 / Ty.width e.ty, ∃ r : Int,
        intResult i (srcEls c e t j) = some (e, r) ∧ subEl (Ty.width e.ty) (lane X t) j = toN (Ty.width e.ty) r

/-- O17. A vector floating-point word of Table 11.1, or vfclass to a register, whose fields can all be used retires and writes under its active lanes the
result of each element; fflags gains the OR of the flags of the elements of the active lanes. The rounding of an exact value that is not zero to f16,
bf16 or f32: a finite result is, under rne, the nearest representable value, the even one of two at the same distance, and under rtz, rdn and rup the
nearest one toward zero, -infinity or +infinity, subnormal values among them; inexact is raised exactly when it differs from the exact value; under
rne the result is an infinity of the value's sign exactly when its magnitude lies at or above the midpoint of the largest finite value and the next
power of two, and overflow and inexact are then raised; underflow comes only with inexact. The sum, the product and the fused product and sum of
finite values are that rounding of their exact value, with the sign of zero of Table 8.4; a quotient and a square root are the rounding of a value
that agrees with the exact one in at least two bits more than a significand, and beyond them in whether anything follows, and a rounding with
something that follows is that of the middle of its interval. (R224, R226, R229, R262, R301, R302, R304, R225, R227, R305.) -/
def Obligations.VectorFloatResults : Prop :=
  (
    ∀ (i : Instr) (s : State) (c : Ctx) (e : Elem) (v : Nat × Nat),
      fltResult i [] = some (e, v) → i.wf = true → e.uni = false → s.ctx? = some c → s.fieldsReady c e.d e.cc e.g e.us = true →
      ∃ X : Image, exec i s = .next (s.retireCtx (((c.afterReads e.us).written (dstOf c.w.access e.d) (c.x.active e.g) X e.cc).flagged
          (flagsOver (c.x.active e.g) (Ty.width e.ty) fun t j => ((fltResult i (srcEls c e t j)).map (·.2.2)).getD 0))) ∧
        ∀ t < 32, ∀ j < 64 / Ty.width e.ty, ∃ r g : Nat,
          fltResult i (srcEls c e t j) = some (e, r, g) ∧ subEl (Ty.width e.ty) (lane X t) j = r % 2 ^ Ty.width e.ty) ∧
  (
    ∀ (f : Fmt) (rm : Nat) (neg : Bool) (m : Nat) (e : Int), f ∈ [fmtOf 8, fmtOf 9, fmtOf 10] → rm < 4 → 0 < m →
      let r := f.round rm false neg m e false; let q := min e (f.emin - f.fb); let x := finAt neg m e q
      (f.finite r.1 = true → r.1 < 2 ^ f.width ∧ f.isRounding rm x q r.1 ∧ (Nat.testBit r.2 4 = true ↔ f.at r.1 q ≠ x) ∧ Nat.testBit r.2 2 = (r.2 == fOvf + fInx)) ∧
      (rm = 0 → (f.finite r.1 = false ↔ f.at f.maxFin q + 2 ^ ((f.bias : Int) + 1 - q).toNat ≤ 2 * x.natAbs)) ∧
      (f.finite r.1 = false → r = (f.sign neg + f.inf, fOvf + fInx)) ∧
      (Nat.testBit r.2 3 = true → Nat.testBit r.2 4 = true) ∧
      (2 ^ (f.fb + 2) ≤ m → f.round rm false neg m e true = f.round rm false neg (2 * m + 1) (e - 1) false) ∧
      ∀ (a b c m1 m2 m3 : Nat) (n1 n2 n3 : Bool) (e1 e2 e3 : Int), f.val a = .fin n1 m1 e1 → f.val b = .fin n2 m2 e2 → f.val c = .fin n3 m3 e3 →
        (let q := min e1 e2; let x := finAt n1 m1 e1 q + finAt n2 m2 e2 q
          f.add rm a b = if x = 0 then (f.sign (if n1 = n2 then n1 else decide (rm = 2)), 0) else f.round rm false (decide (x < 0)) x.natAbs q false) ∧
        f.mul rm a b = (if m1 * m2 = 0 then (f.sign (n1 != n2), 0) else f.round rm false (n1 != n2) (m1 * m2) (e1 + e2) false) ∧
        (let q := min (e1 + e2) e3; let x := finAt (n1 != n2) (m1 * m2) (e1 + e2) q + finAt n3 m3 e3 q
          f.fma rm a b c = if x = 0 then (f.sign (if (n1 != n2) = n3 then n3 else decide (rm = 2)), 0) else f.round rm false (decide (x < 0)) x.natAbs q false) ∧
        (0 < m1 → 0 < m2 → ∃ (n : Nat) (k : Int) (st : Bool), f.div a b = f.round 0 false (n1 != n2) n k st ∧ 2 ^ (f.fb + 2) ≤ n ∧ k ≤ e1 - e2 ∧
          (let z := m1 * 2 ^ (e1 - e2 - k).toNat; n * m2 ≤ z ∧ z < (n + 1) * m2 ∧ (st = false ↔ z = n * m2))) ∧
        (0 < m1 → n1 = false → ∃ (n : Nat) (k : Int) (st : Bool), f.apply .sqrt a = f.round 0 false false n k st ∧ 2 ^ (f.fb + 2) ≤ n ∧ 2 * k ≤ e1 ∧
          (let z := m1 * 2 ^ (e1 - 2 * k).toNat; n * n ≤ z ∧ z < (n + 1) * (n + 1) ∧ (st = false ↔ z = n * n))))

/-- O18. A word of Tables 10.4 or 11.1 with its uniform bit set, no consumer count and fields that R263 allows retires; when its condition holds, its k
register takes the packed results of one lane of the k sources and fflags the OR of their flags; when it fails, no register changes. (R259, R263,
R279, R293, R301.) -/
def Obligations.UniformResults : Prop :=
  ∀ (i : Instr) (s : State) (c : Ctx) (e : Elem),
    i.wf = true → e.uni = true → e.cc = 0 → s.ctx? = some c → uniFields e = true →
    (∀ v, intResult i [] = some (e, v) → isScalar i = false →
      ∃ X : Word, exec i s = .next (s.retireWarp c.w (if c.x.cond e.g then c.x.writeK e.d X else c.x)) ∧
        ∀ j < 64 / Ty.width e.ty, ∃ r : Int, intResult i (uniEls c e j) = some (e, r) ∧ subEl (Ty.width e.ty) X j = toN (Ty.width e.ty) r) ∧
    (∀ v, fltResult i [] = some (e, v) →
      ∃ X : Word, exec i s = .next (s.retireWarp c.w (if c.x.cond e.g then (c.x.writeK e.d X).addFlags
          (subFlags (Ty.width e.ty) fun j => ((fltResult i (uniEls c e j)).map (·.2.2)).getD 0) else c.x)) ∧
        ∀ j < 64 / Ty.width e.ty, ∃ r g : Nat, fltResult i (uniEls c e j) = some (e, r, g) ∧ subEl (Ty.width e.ty) X j = r % 2 ^ Ty.width e.ty)

/-- O19. vmov with fields that can all be used retires and writes every active lane of its destination with that lane of its source, whatever its type; in
its uniform form its k register takes the k source when its condition holds. vballot with a source that can be read retires and writes the mask of the
active lanes whose 64 bits are not zero to its k register, to the active bits of its predicate (not p0), or nowhere for zero; any other destination,
once its source waits for nothing, raises "illegal operand", or "queue direction" where an access warp names a queue (the rows of Table 7.3). With
every earlier instruction complete, amaxr writes amax to its k register or to the active lanes of its destination when its condition holds, and clears
it when its clear bit says so; amaxc clears it when its condition holds; neither has an effect when it fails. (R259, R262, R263, R293, R260, R325,
R239, R240, R315.) -/
def Obligations.MoveVoteAndMaximum : Prop :=
  (
    ∀ (f : Alu1) (s : State) (c : Ctx), s.ctx? = some c →
      (f.uni = false → s.fieldsReady c f.d f.cc f.g [⟨f.a, false⟩] = true →
        ∃ X : Image, exec (.vmov f) s = .next (s.retireCtx ((c.afterReads [⟨f.a, false⟩]).written (dstOf c.w.access f.d) (c.x.active f.g) X f.cc)) ∧
          ∀ t < 32, lane X t = lane (srcVal c f.ty f.a 0) t) ∧
      (f.uni = true → f.cc = 0 → uniFields (elem1 f false) = true →
        exec (.vmov f) s = .next (s.retireWarp c.w (if c.x.cond f.g then c.x.writeK f.d (uniVal c f.ty f.a) else c.x)))) ∧
  (
    ∀ (f : Alu1) (s : State) (c : Ctx), s.ctx? = some c → f.cc = 0 →
      let us : List SrcUse := [⟨f.a, false⟩]; let act := c.x.active f.g
      (s.srcsReady c act us = true →
        ∃ b : Mask, (∀ t < 32, (mbit b t = true ↔ mbit act t = true ∧ lane (srcVal c f.ty f.a 0) t ≠ 0)) ∧
          (Fld.isK f.d = true → exec (.vballot f) s = .next (s.retireCtx (let d := c.afterReads us; { d with x := d.x.writeK f.d (word b.toNat) }))) ∧
          (Fld.isPred f.d = true → exec (.vballot f) s = .next (s.retireCtx ((c.afterReads us).writtenPred f.d act b))) ∧
          (f.d = 1736 → exec (.vballot f) s = .next (s.retireCtx (c.afterReads us)))) ∧
      (s.fieldBusy c f.d = false → s.fieldBusy c f.a = false → srcsThere c us = true → (f.d.toNat < 1664 ∨ 1736 < f.d.toNat) →
        exec (.vballot f) s = .next (s.raise c.w
          { cause := if c.w.idx = 0 ∧ 1536 ≤ f.d.toNat ∧ f.d.toNat < 1664 then .queueDirection else .illegalOperand, reg := f.d.toNat }))) ∧
  (
    (∀ (f : AmaxF) (s : State) (c : Ctx), s.ctx? = some c → s.quiet c.w = true →
      (s.fieldsReady c f.d f.cc f.g [] = true → ∃ X : Image, (∀ t < 32, lane X t = c.x.amax) ∧
        exec (.amaxr f) s = .next (if c.x.cond f.g then
          s.retireCtx (let d := (c.afterReads []).written (dstOf c.w.access f.d) (c.x.active f.g) X f.cc
            { d with x := { d.x with amax := if f.clr then 0 else c.x.amax } })
          else s.retireWarp c.w c.x)) ∧
      (Fld.isK f.d = true → f.cc = 0 →
        exec (.amaxr f) s = .next (if c.x.cond f.g then
          s.retireCtx { c with x := { c.x.writeK f.d c.x.amax with amax := if f.clr then 0 else c.x.amax } } else s.retireWarp c.w c.x))) ∧
    (∀ (g : Guard) (s : State) (c : Ctx), s.ctx? = some c → s.quiet c.w = true →
      exec (.amaxc g) s = .next (s.retireWarp c.w (if c.x.cond g then { c.x with amax := 0 } else c.x))))

/-- O20. vcmp, vfcmp and vfclass with a predicate destination write in its active lanes whether all elements of the lane hold, or with .any one of them,
and nothing to p0; vcmp and vfcmp with a data destination write all ones or all zeros in each element; in their uniform form the k register takes
those elements; fflags gains the flags of the elements compared. (R229, R260, R262, R292, R294, R303, R304.) -/
def Obligations.CompareResults : Prop :=
  ∀ (i : Instr) (s : State) (c : Ctx) (e : Elem) (any b : Bool) (n : Nat),
    cmpResult i [] = some (e, any, b, n) → i.wf = true → s.ctx? = some c →
    (e.uni = false → Fld.isPred e.d = true → e.cc = 0 → s.srcsReady c (c.x.active e.g) e.us = true →
      ∃ bits : Mask, exec i s = .next (s.retireCtx (((c.afterReads e.us).writtenPred e.d (c.x.active e.g) bits).flagged
          (flagsOver (c.x.active e.g) (Ty.width e.ty) fun t j => ((cmpResult i (srcEls c e t j)).map (·.2.2.2)).getD 0))) ∧
        ∀ t < 32, (mbit bits t = true ↔
          if any then ∃ j < 64 / Ty.width e.ty, ∃ m, cmpResult i (srcEls c e t j) = some (e, any, true, m)
          else ∀ j < 64 / Ty.width e.ty, ∃ m, cmpResult i (srcEls c e t j) = some (e, any, true, m))) ∧
    (e.uni = false → s.fieldsReady c e.d e.cc e.g e.us = true →
      ∃ X : Image, exec i s = .next (s.retireCtx (((c.afterReads e.us).written (dstOf c.w.access e.d) (c.x.active e.g) X e.cc).flagged
          (flagsOver (c.x.active e.g) (Ty.width e.ty) fun t j => ((cmpResult i (srcEls c e t j)).map (·.2.2.2)).getD 0))) ∧
        ∀ t < 32, ∀ j < 64 / Ty.width e.ty, ∃ h m, cmpResult i (srcEls c e t j) = some (e, any, h, m) ∧
          subEl (Ty.width e.ty) (lane X t) j = if h then 2 ^ Ty.width e.ty - 1 else 0) ∧
    (e.uni = true → e.cc = 0 → uniFields e = true →
      ∃ X : Word, exec i s = .next (s.retireWarp c.w (if c.x.cond e.g then (c.x.writeK e.d X).addFlags
          (subFlags (Ty.width e.ty) fun j => ((cmpResult i (uniEls c e j)).map (·.2.2.2)).getD 0) else c.x)) ∧
        ∀ j < 64 / Ty.width e.ty, ∃ h m, cmpResult i (uniEls c e j) = some (e, any, h, m) ∧
          subEl (Ty.width e.ty) X j = if h then 2 ^ Ty.width e.ty - 1 else 0)

/-- O21. A long-latency floating-point word whose fields can all be used retires, writes under its active lanes the result of each element, raises their
flags, and stands at position 0 of its warp's window with a lookahead of la plus one words, not yet complete; one that pushes into a return queue is
complete at its trap point (R250), and so is one with D zero, which writes nothing (log entry 22, DEDUCED). (R229, R241, R250, R256, R257, R305.) -/
def Obligations.LongFloatResults : Prop :=
  ∀ (i : Instr) (s : State) (c : Ctx) (e : Elem) (la : BitVec 4) (v : Nat × Nat),
    longResult i [] = some (e, la, v) → i.wf = true → s.ctx? = some c → s.fieldsReady c e.d e.cc e.g e.us = true →
    ∃ X : Image, exec i s = .next (s.tokTaken.retireCtx ((((c.afterReads e.us).written (dstOf c.w.access e.d) (c.x.active e.g) X e.cc).flagged
        (flagsOver (c.x.active e.g) (Ty.width e.ty) fun t j => ((longResult i (srcEls c e t j)).map (·.2.2.2)).getD 0)).withLong (dstOf c.w.access e.d) s.mem.nextTok la)) ∧
      ∀ t < 32, mbit (c.x.active e.g) t = true → ∀ j < 64 / Ty.width e.ty, ∃ r g : Nat,
        longResult i (srcEls c e t j) = some (e, la, r, g) ∧ subEl (Ty.width e.ty) (lane X t) j = r % 2 ^ Ty.width e.ty

/-- O22. A conversion or quantisation word whose fields can all be used retires and writes under its active lanes, at each element of its destination type
that R307 gives a source element, the conversion of that element, and zero at every other; fflags gains the flags of the conversions of the active
lanes, and amax takes the sources of those words that R239 names; vcvt and vqnt are long-latency (complete at the trap point where D is a return queue
or zero: R250, log entry 22, DEDUCED). (A special, sub or a predicate as scale operand: log entry 131, DEDUCED.) (R229, R231, R232, R233, R236, R237,
R239, R307, R309, R310, R311, R312.) -/
def Obligations.ConversionResults : Prop :=
  ∀ (i : Instr) (s : State) (c : Ctx) (v : Conv), convOf i = some v → i.wf = true → s.ctx? = some c → s.fieldsReady c v.d v.cc v.g v.us = true →
    ∃ (X : Image) (fl : Nat),
      let d := ((c.afterReads v.us).written (dstOf c.w.access v.d) (c.x.active v.g) X v.cc).flagged fl
      let a := { d with x := if convUpdates i then { d.x with amax := amaxOver v.sty (c.x.active v.g) (convSrc c v) d.x.amax } else d.x }
      exec i s = .next (match v.la with
        | some la => s.tokTaken.retireCtx (a.withLong (dstOf c.w.access v.d) s.mem.nextTok la)
        | none => s.retireCtx a) ∧
      fl = flagsOver (c.x.active v.g) (max (Ty.width v.sty) (Ty.width v.dty)) (fun t j =>
        (convEl i (subEl (Ty.width v.sty) (lane (convSrc c v) t)
          (if Ty.width v.sty < Ty.width v.dty then v.part * (64 / max (Ty.width v.sty) (Ty.width v.dty)) + j else j)) (lane (convScale c v) t)).2) ∧
      ∀ t < 32, ∀ j < 64 / Ty.width v.dty, subEl (Ty.width v.dty) (lane X t) j =
        match v.from j with
        | some n => (convEl i (subEl (Ty.width v.sty) (lane (convSrc c v) t) n) (lane (convScale c v) t)).1 % 2 ^ Ty.width v.dty
        | none => 0

/-- O23. In every integer type kdiv, kmod and vdiv complete with a quotient rounded toward zero and a remainder with the sign of the dividend, so that
dividend = quotient times divisor plus remainder; a zero divisor gives a quotient of all ones and the dividend as remainder; the most negative value
divided by -1 gives itself and remainder 0; none of these traps (the Tender's forms are vdiv and the uniform words themselves on an access warp).
(R223.) -/
def Obligations.DivisionRule : Prop :=
  (∀ (ty : BitVec 4) (a b : Nat), Ty.int ty = true →
    let x := intVal ty a; let y := intVal ty b; let q := iDiv ty a b; let r := iMod ty a b
    (y = 0 → q = 2 ^ Ty.width ty - 1 ∧ intVal ty r = x) ∧
    (y ≠ 0 → ¬ (Ty.signed ty = true ∧ x = -(2 ^ (Ty.width ty - 1) : Nat) ∧ y = -1) →
      x = intVal ty q * y + intVal ty r ∧ (intVal ty r).natAbs < y.natAbs ∧ (intVal ty r = 0 ∨ (intVal ty r < 0 ↔ x < 0))) ∧
    (Ty.signed ty = true → x = -(2 ^ (Ty.width ty - 1) : Nat) → y = -1 → intVal ty q = x ∧ intVal ty r = 0)) ∧
  (∀ (f : Alu2) (s : State) (c : Ctx), Ty.int f.ty = true → s.ctx? = some c → uniFields (elem2 f false) = true → c.x.cond f.g = true →
    let a := subEl (Ty.width f.ty) (uniVal c f.ty f.a) 0; let b := subEl (Ty.width f.ty) (uniVal c f.ty f.b) 0
    exec (.kdiv f) s = .next (s.retireWarp c.w (c.x.writeK f.d (BitVec.ofInt 64 (intVal f.ty (iDiv f.ty a b))))) ∧
    exec (.kmod f) s = .next (s.retireWarp c.w (c.x.writeK f.d (BitVec.ofInt 64 (intVal f.ty (iMod f.ty a b)))))) ∧
  (∀ (f : Alu2) (s : State) (c : Ctx), Ty.int f.ty = true → s.ctx? = some c → f.uni = false →
    s.fieldsReady c f.d f.cc f.g [⟨f.a, false⟩, ⟨f.b, false⟩] = true →
    ∃ X : Image, exec (.vdiv f) s = .next (s.retireCtx (c.wrote [⟨f.a, false⟩, ⟨f.b, false⟩] f.d (c.x.active f.g) X f.cc)) ∧
      ∀ t < 32, ∀ j < 64 / Ty.width f.ty, subEl (Ty.width f.ty) (lane X t) j =
        iDiv f.ty (arg (srcEls c (elem2 f false) t j) 0) (arg (srcEls c (elem2 f false) t j) 1))

/-- O24. After the reads of an execute warp's word each register has lost one from its consumer count for each source field that names it, is released
when that count reached zero, and keeps its data and marks, and a persistent register stays; each queue has lost from its head as many entries as
fields pop it, in order; a write sets the count, makes the register live, clears the uninit marks of the lanes written and keeps the other lanes of a
live register, and of a released one those that are uninitialised and go on reading as the marker (R194; what the others hold is a free value). (R193,
R195, R199, R202.) -/
def Obligations.CountedReadsAndPops : Prop :=
  (∀ (c : Ctx) (us : List SrcUse), c.w.idx ≠ 0 →
    (∀ (n : Nat) (r : VReg), c.x.v[n]? = some r → n < 1536 →
      let k := us.countP fun u => u.fld.toNat = n
      ∃ r', (c.afterReads us).x.v[n]? = some r' ∧ r'.data = r.data ∧ r'.uninit = r.uninit ∧ r'.count.toNat = r.count.toNat - k ∧
        r'.released = (r.released && (k == 0 || r.count == 0) || (r.count != 0 && decide (r.count.toNat ≤ k)) )) ∧
    (∀ (n : Nat) (q : Queue), c.t.queues[n]? = some q → n < 64 →
      ∃ q', (c.afterReads us).t.queues[n]? = some q' ∧ q'.entries = q.entries.drop (us.countP fun u => u.fld.toNat = 1536 + n) ∧
        q'.dir = q.dir ∧ q'.owner = q.owner ∧ q'.depth = q.depth)) ∧
  (∀ (r : VReg) (act : Mask) (x : Image) (cc : BitVec 2),
    (r.write act x cc).count = cc ∧ (r.write act x cc).released = false ∧
    ∀ t < 32, lane (r.write act x cc).data t = (if mbit act t then lane x t else lane r.kept t) ∧
      mbit (r.write act x cc).uninit t = (mbit r.uninit t && !mbit act t)) ∧
  (∀ r : VReg, r.released = false → r.kept = r.data) ∧
  (∀ (r : VReg) (t : Nat), t < 32 → mbit r.uninit t = true → lane r.kept t = lane r.data t)

/-- O25. vperm with fields that can all be used retires, and each active lane of D takes lane i of A, or lane i - 32 of B, for the i in bits 5 to 0 of
that lane of C, whether that table lane is active or not. (R320.) -/
def Obligations.PermuteLanes : Prop :=
  ∀ (f : Alu3) (s : State) (c : Ctx), s.ctx? = some c →
    let us : List SrcUse := [⟨f.a, false⟩, ⟨f.b, false⟩, ⟨f.c, false⟩]
    s.fieldsReady c f.d f.cc f.g us = true →
    ∃ X : Image, exec (.vperm f) s = .next (s.retireCtx (c.wrote us f.d (c.x.active f.g) X f.cc)) ∧
      ∀ t < 32, ∃ A B C, srcVals c f.ty us = [A, B, C] ∧
        lane X t = (let i := (lane C t).toNat % 64; if i < 32 then lane A i else lane B (i - 32))

/-- O26. A well-formed cross-lane word whose fields can all be used retires and writes under its active lanes (vpack under all): vshfl the element that
the index names in the sub-group, and its predicate the lanes with an index outside; vbcast the element at its position; vpack the active positions
dense and zero after them, vunpk the reverse; vred the tree of each sub-group's active elements; vscan the fold from the left up to each position;
vtopk all ones where selected; vmatch the mask of active lanes with an equal lane. fflags gains the flags of the combines that vred and vscan make.
vscan and vmatch to zero, once their source waits for nothing, raise "illegal operand" (the model's reading: log entry 37, DEDUCED). (The special lane
as index of vshfl: log entry 132, DEDUCED.) (R316, R317, R318, R319, R321, R322, R323, R324, R325.) -/
def Obligations.CrossLaneResults : Prop :=
  (∀ (f : ShflF) (s : State) (c : Ctx), Instr.wf (.vshfl f) = true → s.ctx? = some c →
    let us : List SrcUse := [⟨f.a, false⟩, ⟨f.b, false⟩]; let w := Ty.width f.ty; let g := 2 ^ f.gs.toNat; let act := c.x.active f.g
    s.fieldsReady c f.d f.cc f.g us = true →
    ∃ (X A B : Image) (out : Mask), srcVals c f.ty us = [A, B] ∧
      exec (.vshfl f) s = .next (s.retireCtx (let d := c.wrote us f.d act X f.cc
        if f.pe then { d with x := d.x.writePred f.pn.toNat act out } else d)) ∧
      (∀ d < posCount w, posEl w X d = if posEl w B d < g then posEl w A (groupBase g d + posEl w B d) else posEl w A d) ∧
      ∀ t < 32, (mbit out t = true ↔ ∃ e < 64 / w, g ≤ posEl w B (64 / w * t + e))) ∧
  (∀ (f : BcastF) (s : State) (c : Ctx), Instr.wf (.vbcast f) = true → s.ctx? = some c →
    let us : List SrcUse := [⟨f.a, false⟩]; let w := Ty.width f.ty
    s.fieldsReady c f.d f.cc f.g us = true →
    ∃ X : Image, exec (.vbcast f) s = .next (s.retireCtx (c.wrote us f.d (c.x.active f.g) X f.cc)) ∧
      ∀ d < posCount w, posEl w X d = posEl w (srcVal c f.ty f.a 0) (groupBase (2 ^ f.gs.toNat) d + f.pos.toNat)) ∧
  (∀ (f : Alu1) (s : State) (c : Ctx), s.ctx? = some c →
    let us : List SrcUse := [⟨f.a, false⟩]; let w := Ty.width f.ty; let act := c.x.active f.g; let A := srcVal c f.ty f.a 0
    let E := (List.range (posCount w)).filter (posActive w act)
    s.fieldsReady c f.d f.cc f.g us = true →
    (∃ X : Image, exec (.vpack f) s = .next (s.retireCtx (c.wrote us f.d allLanes X f.cc)) ∧
      ∀ d < posCount w, posEl w X d = match E[d]? with | some p => posEl w A p | none => 0) ∧
    (∃ X : Image, exec (.vunpk f) s = .next (s.retireCtx (c.wrote us f.d act X f.cc)) ∧
      ∀ i p, E[i]? = some p → posEl w X p = posEl w A i) ∧
    (f.d ≠ 1736 → ∃ X : Image, exec (.vmatch f) s = .next (s.retireCtx (c.wrote us f.d act X f.cc)) ∧
      ∀ t < 32, (lane X t).toNat < 2 ^ 32 ∧ ∀ u < 32, ((lane X t).getLsbD u = true ↔ mbit act u = true ∧ lane A u = lane A t))) ∧
  (∀ (f : RedF) (s : State) (c : Ctx), s.ctx? = some c →
    let us : List SrcUse := [⟨f.a, false⟩]; let w := Ty.width f.ty; let g := 2 ^ f.gs.toNat; let act := c.x.active f.g; let A := srcVal c f.ty f.a 0
    let op := combine f.ty f.op.toNat
    (Instr.wf (.vred f) = true → s.fieldsReady c f.d f.cc f.g us = true →
      ∃ X : Image, exec (.vred f) s = .next (s.retireCtx ((c.wrote us f.d act X f.cc).flagged (redFlags op w g act A))) ∧
        ∀ d < posCount w, posEl w X d = (redTree op 10 (activeEls w g act A d) 0).1.headD (identOf f.ty f.op.toNat) % 2 ^ w) ∧
    (Instr.wf (.vred f) = true → s.srcsReady c act us = true → Fld.isK f.d = true → f.cc = 0 →
      ∃ X : Word, exec (.vred f) s = .next (s.retireCtx (let d := (c.afterReads us).flagged (redFlags op w g act A)
          { d with x := d.x.writeK f.d X })) ∧
        ∀ j < 64 / w, subEl w X j = (redTree op 10 (activeEls w g act A j) 0).1.headD (identOf f.ty f.op.toNat) % 2 ^ w) ∧
    (Instr.wf (.vscan f) = true → s.fieldsReady c f.d f.cc f.g us = true → f.d ≠ 1736 →
      ∃ X : Image, exec (.vscan f) s = .next (s.retireCtx ((c.wrote us f.d act X f.cc).flagged (scanAllFlags op w g f.ex act A))) ∧
        ∀ d < posCount w, posActive w act d = true →
          posEl w X d = (foldLeft (fun a b => (op a b).1) ((activeEls w g act A d).take (rankOf w g act d + if f.ex then 0 else 1))).getD
            (identOf f.ty f.op.toNat) % 2 ^ w)) ∧
  (∀ (f : TopkF) (s : State) (c : Ctx), Instr.wf (.vtopk f) = true → s.ctx? = some c →
    let us : List SrcUse := [⟨f.a, false⟩]; let w := Ty.width f.ty; let act := c.x.active f.g
    s.fieldsReady c f.d f.cc f.g us = true →
    ∃ X : Image, exec (.vtopk f) s = .next (s.retireCtx (c.wrote us f.d act X f.cc)) ∧
      ∀ d < posCount w, posEl w X d = if chosen f.ty f.lo (2 ^ f.gs.toNat) f.k.toNat act (srcVal c f.ty f.a 0) d then 2 ^ w - 1 else 0) ∧
  (∀ (f : RedF) (s : State) (c : Ctx), s.ctx? = some c → f.d = 1736 → f.cc = 0 → s.fieldBusy c f.a = false → srcsThere c [⟨f.a, false⟩] = true →
    exec (.vscan f) s = .next (s.raise c.w { cause := .illegalOperand, reg := 1736 })) ∧
  (∀ (f : Alu1) (s : State) (c : Ctx), s.ctx? = some c → f.d = 1736 → f.cc = 0 → s.fieldBusy c f.a = false → srcsThere c [⟨f.a, false⟩] = true →
    exec (.vmatch f) s = .next (s.raise c.w { cause := .illegalOperand, reg := 1736 }))

/-- O27. A word that retires stores its warp with one more instruction retired, at the next slot of its clause, or at the same slot with one repetition
fewer under rep, or, after the last word, at the next header with no clause open and its port given up, every other warp keeping its own (that each
repetition counts one: log entry 15, DEDUCED); a transfer stores it at the target header with no clause open and its port given up; nothing outside
the warp changes. (R186, R248, R265, R281.) -/
def Obligations.WordEnds : Prop :=
  ∀ (s : State) (w : WarpId) (y x : Warp) (h : Int), s.warp? w = some y →
    (∃ z, (s.retireWarp w x).warp? w = some z ∧ z.retired = x.retired + 1 ∧ z.v = x.v ∧ z.a = x.a ∧ z.k = x.k ∧ z.p = x.p ∧ z.tc = x.tc ∧ z.tw = x.tw ∧
      z.tinfo = x.tinfo ∧ z.m = x.m ∧ z.rpc = x.rpc ∧ z.pstack = x.pstack ∧ z.cstack = x.cstack ∧ z.live = x.live ∧ z.frame = x.frame ∧
      (1 < x.repLeft → z.repLeft = x.repLeft - 1 ∧ z.slot = x.slot ∧ z.hdr = x.hdr) ∧
      (x.repLeft ≤ 1 → x.slot + 1 < x.count → z.slot = x.slot + 1 ∧ z.repLeft = 0 ∧ z.hdr = x.hdr ∧ z.clause = x.clause) ∧
      (x.repLeft ≤ 1 → x.count ≤ x.slot + 1 → z.slot = 0 ∧ z.hdr = x.hdr + 8 * (x.count + 1) ∧ z.clause = none ∧ z.elig = none)) ∧
    (x.repLeft ≤ 1 → x.count ≤ x.slot + 1 → s.portGivenUp (s.retireWarp w x) w) ∧
    s.portGivenUp (s.transfer w x h) w ∧
    s.sameOutside (s.retireWarp w x) w ∧
    (∃ z, (s.transfer w x h).warp? w = some z ∧ z.retired = x.retired + 1 ∧ z.hdr = h ∧ z.slot = 0 ∧ z.clause = none ∧ z.repLeft = 0 ∧ z.v = x.v ∧ z.a = x.a ∧
      z.k = x.k ∧ z.p = x.p ∧ z.tc = x.tc ∧ z.tw = x.tw ∧ z.tinfo = x.tinfo ∧ z.m = x.m ∧ z.rpc = x.rpc ∧ z.pstack = x.pstack ∧ z.cstack = x.cstack ∧
      z.live = x.live ∧ z.frame = x.frame) ∧
    s.sameOutside (s.transfer w x h) w

/-- O28. brc, call, ret, jmpi with a k field, exit, yield, spin, reconv and eret raise "illegal clause" when they are not the last word of their clause;
bra and loop run at any place, and when taken leave the clause for their target, so the words after them are not issued. (R280.) -/
def Obligations.PositionRule : Prop :=
  ∀ (s : State) (c : Ctx), s.ctx? = some c →
    (c.x.slot + 1 < c.x.count →
      (∀ f, exec (.brc f) s = .next (s.raise c.w { cause := .illegalClause })) ∧ (∀ f, exec (.call f) s = .next (s.raise c.w { cause := .illegalClause })) ∧
      (∀ g, exec (.ret g) s = .next (s.raise c.w { cause := .illegalClause })) ∧
      (∀ f, Fld.isK f.a = true → exec (.jmpi f) s = .next (s.raise c.w { cause := .illegalClause })) ∧
      (∀ g, exec (.exit g) s = .next (s.raise c.w { cause := .illegalClause })) ∧ (∀ g, exec (.yield g) s = .next (s.raise c.w { cause := .illegalClause })) ∧
      (∀ g, exec (.spin g) s = .next (s.raise c.w { cause := .illegalClause })) ∧ (∀ g, exec (.reconv g) s = .next (s.raise c.w { cause := .illegalClause })) ∧
      (∀ g, exec (.eret g) s = .next (s.raise c.w { cause := .illegalClause }))) ∧
    (∀ f, c.x.condAll f.all f.g = true → ∃ t y, exec (.bra f) s = .next t ∧ t.warp? c.w = some y ∧ y.hdr = c.x.hdr + 8 * f.disp.toInt ∧ y.slot = 0 ∧
      y.clause = none) ∧
    (∀ f, Fld.isK f.d = true → c.x.cond f.g = true → vget c.x.k (f.d.toNat - 1664) 0 ≠ 1 → ∃ t y, exec (.loop f) s = .next t ∧ t.warp? c.w = some y ∧
      y.hdr = c.x.hdr + 8 * f.disp.toInt ∧ y.slot = 0 ∧ y.clause = none)

/-- O29. Each transfer whose condition holds, at a legal place, continues at its target: bra and call at hdr + 8 disp, call pushing the next header unless
sixteen are held, ret at the offset it pops unless there is none, jmpi at its register's value unless it is above 32 bits or no multiple of 8, loop
when its counter less one is not zero, so that a counter of 0 wraps to 2^64 - 1 and branches; each whose condition (R279) fails retires in place, and
a loop then keeps its counter; jmpi and loop with a field that is no k register raise "illegal operand" with its number at any place of their clause
and whatever their condition (for jmpi before its place is looked at: log entry 34, DEDUCED); M, rpc and the path stack stay. (R248, R279, R281, R282,
R283.) -/
def Obligations.UniformTransfers : Prop :=
  ∀ (s : State) (c : Ctx), s.ctx? = some c →
    (∀ f : BraF, exec (.bra f) s = .next (if c.x.condAll f.all f.g then s.transfer c.w c.x (c.x.hdr + 8 * f.disp.toInt) else s.retireWarp c.w c.x)) ∧
    (∀ f : BraF, c.x.count ≤ c.x.slot + 1 → exec (.call f) s = .next
      (if c.x.condAll f.all f.g then
        if c.x.cstack.length < 16 then s.transfer c.w { c.x with cstack := (c.x.hdr + 8 * (c.x.count + 1)) :: c.x.cstack } (c.x.hdr + 8 * f.disp.toInt)
        else s.raise c.w { cause := .illegalClause }
      else s.retireWarp c.w c.x)) ∧
    (∀ g : Guard, c.x.count ≤ c.x.slot + 1 →
      (c.x.cond g = false → exec (.ret g) s = .next (s.retireWarp c.w c.x)) ∧
      (c.x.cond g = true → c.x.cstack = [] → exec (.ret g) s = .next (s.raise c.w { cause := .illegalClause })) ∧
      (∀ h r, c.x.cond g = true → c.x.cstack = h :: r → exec (.ret g) s = .next (s.transfer c.w { c.x with cstack := r } h))) ∧
    (∀ f : JmpiF, Fld.isK f.a = true → c.x.count ≤ c.x.slot + 1 →
      let t := (vget c.x.k (f.a.toNat - 1664) 0).toNat
      exec (.jmpi f) s = .next
        (if c.x.condAll f.all f.g then
          if t < 2 ^ 32 ∧ t % 8 = 0 then s.transfer c.w c.x t else s.raise c.w { cause := .illegalClause, reg := f.a.toNat }
        else s.retireWarp c.w c.x)) ∧
    (∀ f : LoopF, Fld.isK f.d = true →
      let n := vget c.x.k (f.d.toNat - 1664) 0 - 1
      exec (.loop f) s = .next
        (if c.x.cond f.g then
          if n = 0 then s.retireWarp c.w (c.x.writeK f.d n) else s.transfer c.w (c.x.writeK f.d n) (c.x.hdr + 8 * f.disp.toInt)
        else s.retireWarp c.w c.x)) ∧
    (∀ f : JmpiF, Fld.isK f.a = false → exec (.jmpi f) s = .next (s.raise c.w { cause := .illegalOperand, reg := f.a.toNat })) ∧
    (∀ f : LoopF, Fld.isK f.d = false → exec (.loop f) s = .next (s.raise c.w { cause := .illegalOperand, reg := f.d.toNat }))

/-- O30. At the end of its clause brc goes to its target when no thread of M fails, to the next header when none passes; else, with at most 30 path-stack
entries, it pushes the merge entry and above it the deferred path (marked with the moment, by which the orders of R162 are kept: log entry 76, DESIGN
CHOICE), and goes on at the target with the threads that pass and the join as rejoin point; with more it raises "illegal clause". (R162, R284.) -/
def Obligations.PathDivision : Prop :=
  ∀ (s : State) (c : Ctx) (f : BrcF), s.ctx? = some c → c.x.count ≤ c.x.slot + 1 →
    let T := c.x.m &&& c.x.guard f.g
    let F := c.x.m &&& ~~~(c.x.guard f.g)
    let join := c.x.hdr + 8 * f.jdisp.toInt
    exec (.brc f) s = .next
      (if F = 0 then s.transfer c.w c.x (c.x.hdr + 8 * f.tdisp.toInt)
       else if T = 0 then s.retireWarp c.w c.x
       else if 30 < c.x.pstack.length then s.raise c.w { cause := .illegalClause }
       else s.transfer c.w { c.x with
          m := T, rpc := some join
          pstack := { pc := c.x.hdr + 8 * (c.x.count + 1), mask := F, rpc := some join, tok := some s.mem.nextTok } :: { pc := join, mask := c.x.m, rpc := c.x.rpc } :: c.x.pstack }
        (c.x.hdr + 8 * f.tdisp.toInt))

/-- O31. At the end of its clause, when the rejoin point is the header of its own clause and the path stack holds an entry, reconv takes the entry's mask
and rejoin point, and goes on at the next header when the entry's pc is that header's clause, else at the entry's pc; when the rejoin point is
another, or none, it only retires. A path that had still to run is not ordered with those taken since its divergence (R162); after a reconvergence at
its own header, and after reconv without an entry of it, the accesses of every path are ordered with what follows. (Its predicate has no effect: log
entry 16, DEDUCED.) A header with its flag does the same before its clause issues. (R162, R252, R285.) -/
def Obligations.Reconvergence : Prop :=
  (∀ (s : State) (c : Ctx) (g : Guard), s.ctx? = some c → c.x.count ≤ c.x.slot + 1 →
    (c.x.rpc ≠ some c.x.hdr → exec (.reconv g) s = .next (s.retireWarp c.w { c.x with others := [] })) ∧
    (c.x.rpc = some c.x.hdr → c.x.pstack = [] → exec (.reconv g) s = .next (s.retireWarp c.w c.x)) ∧
    (∀ e r, c.x.rpc = some c.x.hdr → c.x.pstack = e :: r →
      exec (.reconv g) s = .next
        (if e.pc = c.x.hdr then s.retireWarp c.w { c.x with m := e.mask, rpc := e.rpc, pstack := r, others := [] }
         else s.transfer c.w { c.x with m := e.mask, rpc := e.rpc, pstack := r, others := c.x.othersAt e r s.mem.nextTok } e.pc)) ∧
    (∀ e r, e.tok = none → c.x.othersAt e r s.mem.nextTok = c.x.others.filter fun o => o.2.2 ≤ r.length) ∧
    (∀ e r n, e.tok = some n → c.x.othersAt e r s.mem.nextTok = c.x.others ++ [(n, s.mem.nextTok, r.length)])) ∧
  (∀ (s : State) (core : Nat) (p : Port) (t : Team) (w : WarpId) (x : Warp) (h : Word) (e : PathEntry) (r : List PathEntry),
    hdrFault t w h = none → x.resumed = false → h.getLsbD 32 = true → x.rpc = some x.hdr → x.pstack = e :: r →
    s.openHeader core p t w x h =
      if e.pc = x.hdr then
        s.beginClause core p w { x with m := e.mask, rpc := e.rpc, pstack := r, others := [] } { cls := fieldOf h 57 3, count := fieldOf h 53 4 + 1 }
      else s.setWarp w (Warp.goto { x with m := e.mask, rpc := e.rpc, pstack := r, others := x.othersAt e r s.mem.nextTok } e.pc))

/-- O32. At the end of its clause and with every earlier instruction complete, exit removes the threads of M that pass from L, M and every path-stack
entry; with threads of M left it goes on at the next header; else it goes on with the first entry that has threads left; with none, its warp has
ended, has given up its port, the grid and its place among those waiting, and has an empty path stack. With an earlier instruction still to complete
it waits. (R204, R210, R278, R286.) -/
def Obligations.ExitWord : Prop :=
  ∀ (s : State) (c : Ctx) (g : Guard), s.ctx? = some c → c.x.count ≤ c.x.slot + 1 →
    (s.quiet c.w = false → exec (.exit g) s = .next (s.stallWarp c.w (.quiet c.w.idx))) ∧
    (s.quiet c.w = true →
      let X := c.x.m &&& c.x.guard g
      let x := { c.x with
        live := c.x.live &&& ~~~X, m := c.x.m &&& ~~~X, pstack := c.x.pstack.map fun e => { e with mask := e.mask &&& ~~~X } }
      (x.m ≠ 0 → exec (.exit g) s = .next (s.retireWarp c.w x)) ∧
      (x.m = 0 → ∀ pre e r, x.pstack = pre ++ e :: r → (∀ d ∈ pre, d.mask = 0) → e.mask ≠ 0 →
        exec (.exit g) s = .next (s.transfer c.w { x with m := e.mask, rpc := e.rpc, pstack := r, others := x.othersAt e r s.mem.nextTok } e.pc)) ∧
      (x.m = 0 → (∀ d ∈ x.pstack, d.mask = 0) →
        ∃ t y, exec (.exit g) s = .next t ∧ t.warp? c.w = some y ∧ y.ended = true ∧ y.m = 0 ∧ y.live = c.x.live &&& ~~~X ∧ y.pstack = [] ∧ y.clause = none ∧
          y.retired = c.x.retired + 1 ∧ y.awake = false ∧ t.mem = s.mem ∧
          (c.t.core < 64 → c.x.partOf < 32 →
            ((t.core c.t.core).part c.x.partOf).grid ≠ some c.w ∧ c.w ∉ ((t.core c.t.core).part c.x.partOf).waiters ∧
            ((t.core c.t.core).part c.x.partOf).holder ≠ some c.w)))

/-- O33. yield and nop only go on (yield at the end of its clause); spin does too and, when its condition holds, keeps its warp from being eligible until
SPIN_TIMEOUT or another warp's clause on its port; rep, not the last word and before a word that a prefix may stand before and whose stepped fields it
uses, makes the next word issue n + 1 times. (That rep itself is not counted in retired is log entry 15, and that the fields it steps are those of the
word's layout log entry 35, both DEDUCED.) trap n raises cause 0x06 and bpt n cause 0x07 with the number n, nxt 1 and lane 0 when their condition
holds, and retire when it fails. eret, at the end of its clause and in a handler, restores M, rpc and both stacks of the trap frame less the threads
that have exited, clears inh, and resumes at the header and slot that R216 gives; outside a handler it raises "illegal clause". (R279, R287, R288,
R216, R219, R289.) -/
def Obligations.HintAndTrapWords : Prop :=
  (
    ∀ (s : State) (c : Ctx), s.ctx? = some c →
      (∀ g : Guard, exec (.nop g) s = .next (s.retireWarp c.w c.x)) ∧
      (∀ g : Guard, c.x.count ≤ c.x.slot + 1 → exec (.yield g) s = .next (s.retireWarp c.w c.x)) ∧
      (∀ g : Guard, c.x.count ≤ c.x.slot + 1 → exec (.spin g) s = .next (s.retireWarp c.w { c.x with spinning := c.x.cond g })) ∧
      (∀ (n j : Nat) (x : Warp), s.warp? ⟨n, j⟩ = some x → ∃ t, exec (.spinTimeout n j) s = .next t ∧ t.warp? ⟨n, j⟩ = some { x with spinning := false }) ∧
      (∀ (f : RepF) (word : Word), c.x.slot + 1 < c.x.count → s.fetch c (c.x.hdr + 8 * (c.x.slot + 2)) = (s, .ok word) →
        noRepOp (Dec.opcode word) = false → stepsOk f word = true →
        ∃ t y, exec (.rep f) s = .next t ∧ t.warp? c.w = some y ∧ y.slot = c.x.slot + 1 ∧ y.repLeft = f.n.toNat + 1 ∧ y.hdr = c.x.hdr ∧ y.v = c.x.v ∧
          y.retired = c.x.retired ∧ s.sameOutside t c.w)) ∧
  (
    ∀ (s : State) (c : Ctx), s.ctx? = some c →
      (∀ f : CodeF, exec (.trap f) s = .next
        (if c.x.cond f.g then s.raise c.w { cause := .userTrap, reg := f.n.toNat, nxt := true, lanes := 1 } else s.retireWarp c.w c.x)) ∧
      (∀ f : CodeF, exec (.bpt f) s = .next
        (if c.x.cond f.g then s.raise c.w { cause := .breakpoint, reg := f.n.toNat, nxt := true, lanes := 1 } else s.retireWarp c.w c.x)) ∧
      (∀ g : Guard, c.x.count ≤ c.x.slot + 1 → c.x.cond g = false → exec (.eret g) s = .next (s.retireWarp c.w c.x)) ∧
      (∀ g : Guard, c.x.count ≤ c.x.slot + 1 → c.x.cond g = true → c.x.inHandler = false →
        exec (.eret g) s = .next (s.raise c.w { cause := .illegalClause })) ∧
      (∀ (g : Guard) (h : Word) (f : TrapFrame), c.x.count ≤ c.x.slot + 1 → c.x.cond g = true → c.x.inHandler = true → c.x.frame = some f →
        s.fetch c (fieldOf (vget c.x.tinfo 1 0) 0 32 : Nat) = (s, .ok h) → fieldOf h 60 4 = 15 →
        let n := fieldOf h 53 4 + 1
        let hpc := fieldOf (vget c.x.tinfo 1 0) 0 32
        let slot := fieldOf (vget c.x.tinfo 0 0) 32 4
        let rep := fieldOf (vget c.x.tinfo 0 0) 25 7
        let nxt := (vget c.x.tinfo 0 0).getLsbD 23
        slot < n →
        ∃ t y, exec (.eret g) s = .next t ∧ t.warp? c.w = some y ∧ y.m = f.m &&& c.x.live ∧ y.rpc = f.rpc ∧ y.cstack = f.cstack ∧
          y.pstack = f.pstack.map (fun e => { e with mask := e.mask &&& c.x.live }) ∧ y.inHandler = false ∧ y.v = c.x.v ∧ y.k = c.x.k ∧ y.p = c.x.p ∧
          y.a = c.x.a ∧ s.sameOutside t c.w ∧
          (nxt = false → y.hdr = hpc ∧ y.slot = slot ∧ y.repLeft = rep) ∧
          (nxt = true → 2 ≤ rep → y.hdr = hpc ∧ y.slot = slot ∧ y.repLeft = rep - 1) ∧
          (nxt = true → rep < 2 → slot + 1 < n → y.hdr = hpc ∧ y.slot = slot + 1 ∧ y.repLeft = 0) ∧
          (nxt = true → rep < 2 → slot + 1 = n → y.hdr = hpc + 8 * (n + 1) ∧ y.slot = 0 ∧ y.repLeft = 0 ∧ y.resumed = false)))

/-- O34. rgn only records its request. rgrow and rshrink, when every earlier instruction is complete and their condition holds, change the allotment by 32
times their count or leave it, and say which in every bit of their predicate: rgrow adds registers of the marker within 1,536 and the core's 16,384,
rshrink takes none below 32 and none of a live accumulator. rkill releases the registers it names. vmovx reads and vstx writes, for each active lane,
that lane of the register its index names. (That a special as their index or data is read as type 7, an unsigned 64-bit number, is log entry 18,
DEDUCED.) vmovx with fields that can all be used traps at its lowest active lane whose index is at or above the allotment ("illegal operand", the
index or 2047) or names a released register ("released register", its number), and reports every active lane that fails with that cause. (R193, R194,
R296, R297, R299, R300, R215.) -/
def Obligations.RegisterManagement : Prop :=
  (
    ∀ (s : State) (c : Ctx), s.ctx? = some c →
      (∀ f : RgnF, f.a.toNat < 1536 → f.a.toNat < c.x.v.length → ∃ t y, exec (.rgn f) s = .next t ∧ t.warp? c.w = some y ∧ y.v = c.x.v ∧
        y.retired = c.x.retired + 1 ∧ s.sameOutside t c.w) ∧
      (∀ f : DAF, Fld.isPred f.d = true ∨ f.d = 1736 → c.x.cond f.g = false → exec (.rgrow f) s = .next (s.retireWarp c.w c.x) ∧
        exec (.rshrink f) s = .next (s.retireWarp c.w c.x)) ∧
      (∀ f : DAF, Fld.isPred f.d = true ∨ f.d = 1736 → c.x.cond f.g = true → s.quiet c.w = true →
        let n := 32 * f.a.toNat
        let u := c.x.v.length
        let say (x : Warp) (ok : Bool) : Warp := if Fld.isPred f.d then x.writePred (f.d.toNat - 1728) allLanes (if ok then allLanes else 0) else x
        exec (.rgrow f) s = .next (s.retireWarp c.w
          (if u + n ≤ 1536 ∧ s.coreSum c.t.core + n ≤ 16384 then say { c.x with v := c.x.v ++ List.replicate n VReg.fresh } true else say c.x false)) ∧
        exec (.rshrink f) s = .next (s.retireWarp c.w
          (if n + 32 ≤ u ∧ (List.range n).all (fun i => !s.liveAcc c (u - n + i)) = true then say { c.x with v := c.x.v.take (u - n) } true else say c.x false))) ∧
      (∀ f : RkillF, f.a.toNat < 1536 → f.a.toNat < c.x.v.length → c.x.cond f.g = true → s.quiet c.w = true →
        ∃ v : List VReg, exec (.rkill f) s = .next (s.retireWarp c.w { c.x with v := v }) ∧ v.length = c.x.v.length ∧
          ∀ n r, c.x.v[n]? = some r → v[n]? = some (if f.a.toNat ≤ n ∧ n ≤ f.a.toNat + f.count.toNat then { r with count := 0, released := true } else r)) ∧
      (∀ f : MovxF, c.w.idx ≠ 0 → s.fieldsReady c f.d f.cc f.g [⟨f.a, false⟩] = true →
        let act := c.x.active f.g
        let idx (t : Nat) : Nat := (lane (srcVal c 7 f.a 0) t).toNat
        (∀ t < 32, mbit act t = true → ∃ r, c.x.v[idx t]? = some r ∧ r.released = false ∧ s.vBusy c (idx t) = false) →
        ∃ (X : Image) (d : Ctx), exec (.vmovx f) s = .next (s.retireCtx (d.written (dstOf c.w.access f.d) act X f.cc)) ∧ d.w = c.w ∧
          (∀ t < 32, mbit act t = true → ∃ r, c.x.v[idx t]? = some r ∧ lane X t = lane r.data t) ∧
          (∀ n : Nat, (d.x.v[n]?).map VReg.seen = (c.x.v[n]?).map VReg.seen) ∧ d.x.a = c.x.a ∧ d.x.k = c.x.k ∧ d.x.p = c.x.p) ∧
      (∀ f : ABF, c.w.idx ≠ 0 → s.srcsReady c (c.x.active f.g) [⟨f.a, false⟩, ⟨f.b, false⟩] = true →
        let act := c.x.active f.g
        let us : List SrcUse := [⟨f.a, false⟩, ⟨f.b, false⟩]
        ∀ A B, srcVals c 7 us = [A, B] →
        (∀ t < 32, mbit act t = true → (lane A t).toNat < c.x.v.length ∧ s.vBusy c (lane A t).toNat = false) →
        ∃ t y, exec (.vstx f) s = .next t ∧ t.warp? c.w = some y ∧ y.retired = c.x.retired + 1 ∧ y.v.length = c.x.v.length ∧ s.sameOutside t c.w ∧
          (∀ j < 32, mbit act j = true → ∃ r, y.v[(lane A j).toNat]? = some r ∧ lane r.data j = lane B j ∧ r.count = 0 ∧ r.released = false ∧
            mbit r.uninit j = false) ∧
          (∀ n : Nat, (∀ j < 32, mbit act j = true → (lane A j).toNat ≠ n) → (y.v[n]?).map VReg.seen = (c.x.v[n]?).map VReg.seen))) ∧
  (
    ∀ (s : State) (c : Ctx) (f : MovxF) (j : Nat), s.ctx? = some c → c.w.idx ≠ 0 → s.fieldsReady c f.d f.cc f.g [⟨f.a, false⟩] = true →
      let act := c.x.active f.g
      let idx (t : Nat) : Nat := (lane (srcVal c 7 f.a 0) t).toNat
      let good (t : Nat) : Prop := ∃ r, c.x.v[idx t]? = some r ∧ r.released = false
      j < 32 → mbit act j = true → (∀ t < j, mbit act t = true → good t) →
      (c.x.v[idx j]? = none → ∃ lanes : Mask, (∀ t < 32, mbit lanes t = true ↔ mbit act t = true ∧ c.x.v[idx t]? = none) ∧
        exec (.vmovx f) s = .next (s.raise c.w { cause := .illegalOperand, reg := min (idx j) 2047, lanes := lanes })) ∧
      (∀ r, c.x.v[idx j]? = some r → r.released = true →
        ∃ lanes : Mask, (∀ t < 32, mbit lanes t = true ↔ mbit act t = true ∧ ∃ q, c.x.v[idx t]? = some q ∧ q.released = true) ∧
          exec (.vmovx f) s = .next (s.raise c.w { cause := .releasedRegister, reg := idx j, lanes := lanes })))

/-- O35. At the end of its clause and with every earlier instruction complete, mmode.on of a warp outside matrix mode takes the grid of its partition when
it is free and no warp waits, and enters matrix mode; else it joins those waiting, once, without its port, and does not issue; mmode.off leaves the
mode and frees the grid; either only retires when the mode is already so; GRID_GRANT gives a free grid to the warp that has waited longest. With the
warp's grid instructions complete, tcset writes its tile-control register from a k register or zero, reserved bits zero, and tcget a k register from
it, when the condition holds; mrmask with a source register or queue that can be read writes its predicate with the 32 bits at its byte offset when
its condition holds (nothing to p0); a field of another kind raises "illegal operand". (R210, R326, R279, R329, R344.) -/
def Obligations.GridClaimAndTileControl : Prop :=
  (
    (∀ (s : State) (c : Ctx), s.ctx? = some c → c.x.count ≤ c.x.slot + 1 → c.t.core < 64 → c.x.partOf < 32 →
      (c.x.matrix = true → exec .mmodeOn s = .next (s.retireWarp c.w c.x)) ∧
      (c.x.matrix = false → s.quiet c.w = true → (s.partOf c).grid = none → (s.partOf c).waiters = [] →
        ∃ t y, exec .mmodeOn s = .next t ∧ t.warp? c.w = some y ∧ y.matrix = true ∧ y.retired = c.x.retired + 1 ∧
          ((t.core c.t.core).part c.x.partOf).grid = some c.w) ∧
      (c.x.matrix = false → s.quiet c.w = true → (∃ v, (s.partOf c).grid = some v ∧ v ≠ c.w) → c.w ∉ (s.partOf c).waiters →
        ∃ t y, exec .mmodeOn s = .next t ∧ t.warp? c.w = some y ∧ y.gridWait = true ∧ y.awake = false ∧ y.retired = c.x.retired ∧
          ((t.core c.t.core).part c.x.partOf).waiters = (s.partOf c).waiters ++ [c.w] ∧ ((t.core c.t.core).part c.x.partOf).holder ≠ some c.w) ∧
      (c.x.matrix = false → exec .mmodeOff s = .next (s.retireWarp c.w c.x)) ∧
      (c.x.matrix = true → s.quiet c.w = true → (s.partOf c).grid = some c.w →
        ∃ t y, exec .mmodeOff s = .next t ∧ t.warp? c.w = some y ∧ y.matrix = false ∧ y.retired = c.x.retired + 1 ∧
          ((t.core c.t.core).part c.x.partOf).grid = none)) ∧
    (∀ (s : State) (n p : Nat) (w : WarpId) (r : List WarpId) (x : Warp), n < 64 → p < 32 →
      ((s.core n).part p).grid = none → ((s.core n).part p).waiters = w :: r → s.warp? w = some x →
      ∃ t, exec (.gridGrant n p) s = .next t ∧ t.warp? w = some { x with gridWait := false } ∧ ((t.core n).part p).grid = some w ∧
        ((t.core n).part p).waiters = r)) ∧
  (
    ∀ (s : State) (c : Ctx), s.ctx? = some c →
      (∀ f : TcsetF, (s.partOf c).ops.any (·.w = c.w) = false →
        (Fld.isK f.a = true → exec (.tcset f) s = .next (s.retireWarp c.w (if c.x.cond f.g then
          { c.x with tc := vset c.x.tc f.n.toNat (vget c.x.k (f.a.toNat - 1664) 0 &&& 0xfff7ffff000007ff) } else c.x))) ∧
        (f.a = 1736 → exec (.tcset f) s = .next (s.retireWarp c.w (if c.x.cond f.g then { c.x with tc := vset c.x.tc f.n.toNat 0 } else c.x)))) ∧
      (∀ f : TcsetF, Fld.isK f.a = false → f.a ≠ 1736 → exec (.tcset f) s = .next (s.raise c.w { cause := .illegalOperand, reg := f.a.toNat })) ∧
      (∀ f : TcgetF, (s.partOf c).ops.any (·.w = c.w) = false → Fld.isK f.d = true ∨ f.d = 1736 →
        exec (.tcget f) s = .next (s.retireWarp c.w (if c.x.cond f.g then c.x.writeK f.d (vget c.x.tc f.n.toNat 0) else c.x))) ∧
      (∀ f : TcgetF, Fld.isK f.d = false → f.d ≠ 1736 → exec (.tcget f) s = .next (s.raise c.w { cause := .illegalOperand, reg := f.d.toNat })) ∧
      (∀ f : MrmaskF, Fld.isPred f.d = true → f.a.toNat < 1664 → s.srcsReady c (c.x.active f.g) [⟨f.a, false⟩] = true →
        ∃ bits : Mask, bits = (srcVal c 13 f.a 0).extractLsb' (8 * f.off.toNat) 32 ∧
          exec (.mrmask f) s = .next (s.retireCtx (if c.x.cond f.g then (c.afterReads [⟨f.a, false⟩]).writtenPred f.d allLanes bits
            else c.afterReads [⟨f.a, false⟩]))) ∧
      (∀ f : MrmaskF, Fld.isPred f.d = false → exec (.mrmask f) s = .next (s.raise c.w { cause := .illegalOperand, reg := f.d.toNat })) ∧
      (∀ f : MrmaskF, Fld.isPred f.d = true → 1664 ≤ f.a.toNat → exec (.mrmask f) s = .next (s.raise c.w { cause := .illegalOperand, reg := f.a.toNat })))

/-- O36. In matrix mode with a legal accumulator, tiles that can be read and a condition that holds, mzero, mnorm, mexp, mexp.to, mxacc, mxsub and mcvt
retire and put their step at the end of their partition's grid: each counts one read of every register of its tiles (mzero none), a queue-fed B tile
is popped, mxacc, mxsub and mcvt stand in the window with their lookahead; when the condition fails the reads are counted and, but for mxacc, mxsub
and mcvt, no step is made. mexp.to with a value outside -2048 to 2047 raises "tile" whatever its predicate (log entry 19, DEDUCED). Outside matrix
mode every grid instruction that names an accumulator and whose operand fields pass their checks raises "mode"; in it, one whose tile-control register
is no legal accumulator raises "tile" with that register's number. (R212, R326, R331, R335, R337, R338, R339, R340, R341, R342, R343.) -/
def Obligations.GridWords : Prop :=
  (
    ∀ (s : State) (c : Ctx), s.ctx? = some c →
      (∀ f : TileF, c.accOk f.n.toNat = true →
        let b := tcBase (c.x.tcReg f.n.toNat)
        exec (.mzero f) s = .next (if c.x.cond f.g then s.postGrid c f.n.toNat b .zero none else s.retireWarp c.w c.x)) ∧
      (∀ f : TileF, c.accOk f.n.toNat = true →
        let b := tcBase (c.x.tcReg f.n.toNat)
        s.tileReady c (regRun b 64) = true →
        let d := c.countRegs (regRun b 64)
        exec (.mnorm f) s = .next (if c.x.cond f.g then s.postGrid d f.n.toNat b .norm none else s.retireCtx d)) ∧
      (∀ f : MexpF, Fld.isK f.b = true → c.accOk f.n.toNat = true →
        let b := tcBase (c.x.tcReg f.n.toNat)
        let k := (vget c.x.k (f.b.toNat - 1664) 0).toInt
        s.tileReady c (regRun b 64) = true →
        let d := c.countRegs (regRun b 64)
        exec (.mexp f) s = .next (if c.x.cond f.g then s.postGrid d f.n.toNat b (.exp k) none else s.retireCtx d) ∧
        (-2048 ≤ k → k ≤ 2047 → exec (.mexpTo f) s = .next (if c.x.cond f.g then s.postGrid d f.n.toNat b (.expTo k) none else s.retireCtx d)) ∧
        (k < -2048 ∨ 2047 < k → exec (.mexpTo f) s = .next (s.raise c.w { cause := .tile, reg := f.n.toNat }))) ∧
      (∀ (f : MxF) (q : Option Quant), c.accOk f.tcd.toNat = true → c.tilesOk f = true → s.tileReady c (c.mxRegs f) = true → s.mxQuant c f = .ok q →
        let b := tcBase (c.x.tcReg f.tcd.toNat)
        let a := c.x.tcReg f.tca.toNat
        let act (neg : Bool) : GridAct := if c.x.cond f.g then
          .acc neg (tcK a) (tcFmt a) (tcFmt (c.x.tcReg f.tcb.toNat)) (c.x.imgs (regRun (tcBase a) (nA a))) (c.mxB f) q else .nothing
        exec (.mxacc f) s = .next (s.postGrid (c.mxRead f) f.tcd.toNat b (act false) (some f.la)) ∧
        exec (.mxsub f) s = .next (s.postGrid (c.mxRead f) f.tcd.toNat b (act true) (some f.la))) ∧
      (∀ f : McvtF, c.accOk f.n.toNat = true → ccOk c.w.access f.cc f.d = true →
        let b := tcBase (c.x.tcReg f.n.toNat)
        let rows := c.x.active f.g &&& c.x.pred (fieldOf (c.x.tcReg f.n.toNat) 48 3)
        let d := c.countRegs (regRun b 64)
        s.tileReady c (regRun b 64) = true →
        (f.d = 1736 → exec (.mcvt f) s = .next (s.postGrid d f.n.toNat b (.cvt .none f.ty f.rm f.sf rows) (some f.la))) ∧
        (c.w.idx ≠ 0 → f.d.toNat + Ty.width f.ty ≤ c.x.v.length → f.d.toNat < 1536 → overlap f.d.toNat (Ty.width f.ty) b 64 = false →
          (∀ n, f.d.toNat ≤ n → n < f.d.toNat + Ty.width f.ty → s.vBusy c n = false) → 0 < Ty.width f.ty →
          exec (.mcvt f) s = .next (s.postGrid d f.n.toNat b (.cvt (.regs f.d.toNat f.cc) f.ty f.rm f.sf rows) (some f.la))) ∧
        (∀ q, c.w.idx ≠ 0 → 1536 ≤ f.d.toNat → f.d.toNat < 1600 → c.t.queues[f.d.toNat - 1536]? = some q → q.owner + 1 = c.w.idx → q.dir = .ret →
          q.entries.length + Ty.width f.ty ≤ q.depth → c.t.noConsumer q = false →
          ∃ slots, slots.length = Ty.width f.ty ∧
            exec (.mcvt f) s = .next (s.postGrid { d with t := d.t.setQueue (f.d.toNat - 1536) (q.issued (Ty.width f.ty)) } f.n.toNat b
              (.cvt (.queue (f.d.toNat - 1536) slots) f.ty f.rm f.sf rows) (some f.la))))) ∧
  (
    ∀ (s : State) (c : Ctx), s.ctx? = some c → ∀ (i : Instr) (n : Nat),
      ((∃ f, i = .mzero f ∧ n = f.n.toNat) ∨ (∃ f, i = .mnorm f ∧ n = f.n.toNat) ∨ (∃ f, i = .mxacc f ∧ n = f.tcd.toNat) ∨
        (∃ f, i = .mxsub f ∧ n = f.tcd.toNat) ∨ (∃ f, i = .mexp f ∧ Fld.isK f.b = true ∧ n = f.n.toNat) ∨
        (∃ f, i = .mexpTo f ∧ Fld.isK f.b = true ∧ n = f.n.toNat) ∨
        (∃ f, i = .mcvt f ∧ ccOk c.w.access f.cc f.d = true ∧ s.fieldBusy c f.d = false ∧ dstFault c f.d = none ∧ n = f.n.toNat)) →
      (c.x.matrix = false → exec i s = .next (s.raise c.w { cause := .mode })) ∧
      (c.x.matrix = true → c.accOk n = false → exec i s = .next (s.raise c.w { cause := .tile, reg := n })))

/-- O37. The oldest step of a partition's grid leaves its accumulator's 64 registers with the elements of the tile that it computes, sign-extended, live,
with no uninit mark and count 0, its tile-control register with the exponent, fflags with the flags raised, and its instruction complete in the
window: zeros for mzero, the shifted tile for mnorm, the new exponent for mexp and mexp.to, the terms added in order for mxacc and mxsub; mcvt leaves
the tile and writes the converted rows to its registers, or the entries that it holds of its return queue, or nothing for zero, and raises the flags
of the conversions of those rows. The other steps stay in order. (R244, R335, R339, R340, R341, R342, R343.) -/
def Obligations.GridSteps : Prop :=
  ∀ (s : State) (n p : Nat) (o : GridOp) (r : List GridOp) (t : Team) (x : Warp), n < 64 → p < 32 →
    ((s.core n).part p).ops = o :: r → s.team? o.w.team = some t → t.warps[o.w.idx]? = some x →
    ∃ u y, exec (.gridStepDone n p) s = .next u ∧ ((u.core n).part p).ops = r ∧ u.warp? o.w = some y ∧
      (∀ l ∈ y.window, l.tok = o.tok → l.done = true) ∧ y.k = x.k ∧ y.p = x.p ∧ y.v.length = x.v.length ∧ u.mem = s.mem ∧
      (∀ T : Tile, (o.act = .zero ∧ T = { x.tile o.tcn o.base with ms := List.replicate 2048 (.fin 0) }) ∨ (o.act = .norm ∧ T = (x.tile o.tcn o.base).norm) ∨
          (∃ k, o.act = .exp k ∧ T = (x.tile o.tcn o.base).scale k) ∨ (∃ k, o.act = .expTo k ∧ T = (x.tile o.tcn o.base).scaleTo k) ∨
          (∃ neg k aTy bTy a b q, o.act = .acc neg k aTy bTy a b q ∧ T = (gridTerms neg k aTy bTy a b q).foldl Tile.add (x.tile o.tcn o.base)) →
        o.tcn < 16 → o.base + 64 ≤ x.v.length →
        (∀ j < 64, ∃ g, y.v[o.base + j]? = some g ∧ g.uninit = 0 ∧ g.count = 0 ∧ g.released = false ∧
          ∀ i < 32, lane g.data i = (T.ms.getD (32 * j + i) (.fin 0)).word) ∧
        (∀ m, m < o.base ∨ o.base + 64 ≤ m → y.v[m]? = x.v[m]?) ∧
        fieldOf (y.tcReg o.tcn) 52 12 = toN 12 T.e ∧ fieldOf (y.tcReg o.tcn) 0 52 = fieldOf (x.tcReg o.tcn) 0 52 ∧ y.fflags = x.fflags ||| word T.fl) ∧
      (∀ d cc ty rm sf rows, o.act = .cvt (.regs d cc) ty rm sf rows → d + Ty.width ty ≤ x.v.length →
        (∀ j < Ty.width ty, ∃ g g0, x.v[d + j]? = some g0 ∧ y.v[d + j]? = some g ∧
          g = g0.write rows (cvtImage (x.tile o.tcn o.base) ty rm.toNat sf rows j).1 cc) ∧
        (∀ m, m < d ∨ d + Ty.width ty ≤ m → y.v[m]? = x.v[m]?) ∧ y.tc = x.tc) ∧
      (∀ q slots ty rm sf rows z0, o.act = .cvt (.queue q slots) ty rm sf rows → slots.length = Ty.width ty → t.queues[q]? = some z0 →
        (slots.map fun a => z0.find a.1 a.2).Nodup →
        y.v = x.v ∧ y.tc = x.tc ∧ ∃ t' z, u.team? o.w.team = some t' ∧ t'.queues[q]? = some z ∧
          (∀ j a i e, slots[j]? = some a → z0.find a.1 a.2 = some i → z0.entries[i]? = some e → z.entries[i]? = some
            (if e.st = .issued ∨ e.st = .pending then Entry.ready (cvtImage (x.tile o.tcn o.base) ty rm.toNat sf rows j).1 else e)) ∧
          ∀ i, (∀ a ∈ slots, z0.find a.1 a.2 ≠ some i) → z.entries[i]? = z0.entries[i]?) ∧
      (∀ ty rm sf rows, o.act = .cvt .none ty rm sf rows → y.v = x.v ∧ y.tc = x.tc) ∧
      (∀ d ty rm sf rows, o.act = .cvt d ty rm sf rows → y.fflags = x.fflags |||
        word ((List.range (Ty.width ty)).foldl (fun n j => n ||| (cvtImage (x.tile o.tcn o.base) ty rm.toNat sf rows j).2) 0))

/-- O38. With nothing holding it, wset with a k register whose reserved bits are zero sets its window, when its condition holds, to what R146 finds at its
base in the team's space, or in the domain space when it names this device and the domain is enabled, or to a remote window of the device it names;
winv makes the limit of its window 0 and keeps its base; set reserved bits raise "illegal operand". sta, stq and strel through a window of another
device that can be reached, with data that can be read, aligned where they must be, retire. Each byte that an active lane stores, and no higher active
lane stores too, is in a remote write to that device, at its address, with its lane's poison (the model's reading: log 80), which a later release at
domain scope awaits; no new remote access holds anything else; home memory and every shared array stay. (R57, R146, R147, R350, R55, R59, R122, R158,
R176.) -/
def Obligations.WindowsAndRemoteStores : Prop :=
  (
    ∀ (s : State) (c : Ctx), s.ctx? = some c → s.gathering c.t.core c.w c.x = false → c.x.holdLd = [] →
      (∀ f : WsetF, Fld.isK f.a = true →
        let vb := vget c.x.k (f.a.toNat - 1664) 0
        let sp := s.spaceOf c.w.team
        let set (w : Window) : State := s.retireCtx (if c.x.cond f.g then { c with x := { c.x with tw := vset c.x.tw f.n.toNat w } } else c)
        (f.dom = false → fieldOf vb 52 12 = 0 → exec (.wset f) s = .next (set (s.fillWindow sp false (fieldOf vb 0 52)))) ∧
        (f.dom = false → fieldOf vb 52 12 ≠ 0 → exec (.wset f) s = .next (s.raise c.w { cause := .illegalOperand, reg := f.a.toNat - 1664 })) ∧
        (f.dom = true → fieldOf vb 62 2 = 0 → fieldOf vb 52 10 = s.links.self.toNat → s.links.domEn = true →
          exec (.wset f) s = .next (set (s.fillWindow sp true (fieldOf vb 0 52)))) ∧
        (f.dom = true → fieldOf vb 62 2 = 0 → ¬ (fieldOf vb 52 10 = s.links.self.toNat ∧ s.links.domEn = true) →
          exec (.wset f) s = .next (set (Window.toDevice (fieldOf vb 52 10) (fieldOf vb 0 52)))) ∧
        (f.dom = true → fieldOf vb 62 2 ≠ 0 → exec (.wset f) s = .next (s.raise c.w { cause := .illegalOperand, reg := f.a.toNat - 1664 }))) ∧
      (∀ f : WinvF, exec (.winv f) s = .next (s.retireCtx (if c.x.cond f.g then
        { c with x := { c.x with tw := vset c.x.tw f.n.toNat { c.x.win f.n with limit := 0 } } } else c)))) ∧
  (
    ∀ (i : Instr) (s s1 s2 : State) (c : Ctx) (k : StoreKind) (f : MemF) (d : StoreData) (dev : Nat), storeOf i = some (k, f) → s.ctx? = some c →
      s.memFree c → c.t.core < 64 → storeData c f.ty k.regs k.queues f.d = .ok d → k.sh = false → (s.effWin (c.x.win f.tw)).remote = some dev →
      s.domResolve dev = (none, s1) → lanesPass (s.remoteLanes c f dev k.rel.isSome true).1 → s1.storeGate c k = .ok (.go s2) →
      let va (j b : Nat) : Nat := (c.x.win f.tw).va + laneOff c f.off f.b j + b
      let last (j b : Nat) : Prop := j < 32 ∧ b < accSize f.ty ∧ mbit (c.x.active f.g) j = true ∧
        ∀ h, j < h → h < 32 → mbit (c.x.active f.g) h = true → ∀ e < accSize f.ty, va h e ≠ va j b
      ∃ t, exec i s = .next t ∧ retiredIn c t ∧ t.mem.ram = s.mem.ram ∧ t.hm.blocks = s.hm.blocks ∧
        (∀ j b, last j b → ∃ r ∈ t.links.remotes, ∃ data, r.dev = dev ∧ r.w = c.w ∧ r.op = .write data (d.psec.getLsbD (j / 2)) ∧ r.va ≤ va j b ∧
          data[va j b - r.va]? = some (imgByte d.img (8 * j + b)) ∧ ∃ a ∈ (t.core c.t.core).unacked, some a.tok = r.stok ∧ a.remote = true) ∧
        (∀ r ∈ t.links.remotes, (∀ q ∈ s2.links.remotes, q.tag ≠ r.tag) → r.dev = dev ∧ ∃ data bad, r.op = .write data bad ∧
          ∀ n < data.length, ∃ j b, last j b ∧ va j b = r.va + n ∧ data[n]? = some (imgByte d.img (8 * j + b))))

/-- O39. lda, lds and ldacq into an a register or zero, whose lanes pass, begin one load of the warp for that destination, with the word's type, each
lane's access and every byte that the L1 does not hold still needed (ldacq at a wide scope finds none there), and a byte that it holds only where its
line leaves the L1 between the reads of two lanes (log 137); when all bytes are there at once the word retires, or traps when one failed, else the
warp waits on that load. A sector that the L1 holds while an earlier load of the warp's path still waits for it stalls the word (the model's choice,
logs 22 and 28). The word whose load in progress has every byte, none of them failed, retires, writes to the active lanes each lane's value extended
by its type and nothing to the others (to zero, nothing), leaves no load in progress, and no clean sector in the L1 where it acquires at a wide scope;
lds from shared memory in range and not poisoned does so at once with the bytes at each lane's address; with no active lane no register changes.
(R126, R165, R166, R168, R169, R189, R349, R351, R352, R353.) -/
def Obligations.LoadIntoRegister : Prop :=
  (∀ (i : Instr) (s : State) (c : Ctx) (k : LoadKind) (f : MemF) (tok n : Nat) (l : PendLoad),
    loadOf i = some (k, f) → k.regs = true → s.ctx? = some c → s.gathering c.t.core c.w c.x = false → c.x.holdLd = [] →
    c.x.begun = some (.load tok) → c.t.core < 64 →
    (s.core c.t.core).load? tok = some l → l.performed = true → l.bad = [] → (l.dst = .none ∨ l.dst = .reg n) → n < 64 →
    ∃ t y, exec i s = .next t ∧ t.warp? c.w = some y ∧ y.retired = c.x.retired + 1 ∧
      (l.dst = .reg n → vget y.a n 0 = mergeLanes (c.x.active f.g) l.image (vget c.x.a n 0)) ∧
      (∀ m, (l.dst = .none ∨ m ≠ n) → vget y.a m 0 = vget c.x.a m 0) ∧ y.k = c.x.k ∧ y.p = c.x.p ∧ y.v = c.x.v ∧ y.tw = c.x.tw ∧ t.mem.ram = s.mem.ram ∧
      ((t.core c.t.core).load? tok = none) ∧ (∀ sc, k.acq = some sc → s.wide c sc = true → t.noClean c.t.core)) ∧
  (∀ (i : Instr) (s : State) (c : Ctx) (k : LoadKind) (f : MemF), loadOf i = some (k, f) → k.regs = true → s.ctx? = some c → s.memFree c →
    c.t.core < 64 → (f.d.toNat < 64 ∨ f.d = 1736) → Ty.mem f.ty = true → (k.sh = true ∨ (c.x.win f.tw).remote = none) →
    (∀ l ∈ (s.core c.t.core).loads, l.tok < s.mem.nextTok) →
    let s1 := s.acquireAt c k.acq
    let rs := s1.memLanes c f k.sh .load k.acq.isSome true
    let s2 := s1.loadHome c k rs
    lanesPass rs →
    (k.sh = false → s2.awaited c ((needOf rs).map (·.pa)) ≠ [] → exec i s = .next (s.stallWarp c.w (.bytes (s2.awaited c ((needOf rs).map (·.pa)))))) ∧
    (k.sh = true ∨ s2.awaited c ((needOf rs).map (·.pa)) = [] →
      ∃ t l, exec i s = .next t ∧ t.mem.ram = s.mem.ram ∧ t.hm.blocks = s.hm.blocks ∧ l.tok = s2.mem.nextTok ∧ l.w = c.w ∧
        l.dst = (if f.d.toNat < 64 then .reg f.d.toNat else .none) ∧ l.ty = some f.ty ∧ l.accs = accsOf rs ∧ l.faulted = [] ∧ l.later = [] ∧ l.gather = none ∧
        (k.sh = true → l.need = []) ∧
        (k.sh = false → (∀ n ∈ l.need, n ∈ needOf rs) ∧
          (∀ n ∈ needOf rs, (isHbm n.pa = true → (s2.core c.t.core).l1Hit n.pa = false → n ∈ l.need) ∧ (isHbm n.pa = false → (n ∈ l.need ↔ s.links.apEn = true)) ∧
            (isHbm n.pa = true → (s2.core c.t.core).l1Hit n.pa = true → n ∉ l.need → imgByte l.data n.pos = ((s2.core c.t.core).line (lineOf n.pa)).byte n.pa) ∧
            (isHbm n.pa = true → (s2.core c.t.core).l1Hit n.pa = true → n ∈ l.need → (t.core c.t.core).l1Hit n.pa = false ∧
              ∃ m ∈ needOf rs, m.pos / 8 ≠ n.pos / 8 ∧ isHbm m.pa = true ∧ (s2.core c.t.core).l1Hit m.pa = true)) ∧
          ∀ sc, k.acq = some sc → s.wide c sc = true → ∀ n ∈ needOf rs, (s2.core c.t.core).l1Hit n.pa = false) ∧
        (l.need ≠ [] → (t.core c.t.core).load? l.tok = some l ∧ ∃ y, t.warp? c.w = some y ∧ y.begun = some (.load l.tok) ∧ y.stall = some (.load l.tok) ∧
          y.retired = c.x.retired ∧ y.a = c.x.a) ∧
        (l.need = [] → l.bad = [] → ∃ y, t.warp? c.w = some y ∧ y.retired = c.x.retired + 1 ∧
          ∀ m, vget y.a m 0 = if f.d.toNat < 64 ∧ m = f.d.toNat then mergeLanes (c.x.active f.g) l.image (vget c.x.a m 0) else vget c.x.a m 0) ∧
        (l.need = [] → l.bad ≠ [] → ∃ (q : TrapReq) (s3 : State), l.trapReq = some q ∧ t = s3.raise c.w q ∧ s3.mem.ram = s.mem.ram ∧ s3.warp? c.w = s.warp? c.w))) ∧
  (∀ (s : State) (c : Ctx) (f : MemF), s.ctx? = some c → s.memFree c → c.t.core < 64 → f.d.toNat < 64 →
    (∀ l ∈ (s.core c.t.core).loads, l.tok < s.mem.nextTok) →
    let b := s.blockOf c
    let z := accSize f.ty
    b.shm ≤ 1920 → (∀ t < 32, mbit (c.x.active f.g) t = true → sharedGood b z (laneOff c f.off f.b t) = true) → Ty.mem f.ty = true →
    ∃ t y, exec (.lds f) s = .next t ∧ t.warp? c.w = some y ∧ y.retired = c.x.retired + 1 ∧
      (∀ j < 32, lane (vget y.a f.d.toNat 0) j = if mbit (c.x.active f.g) j then extWord f.ty (word (b.sharedNum (laneOff c f.off f.b j) z))
        else lane (vget c.x.a f.d.toNat 0) j) ∧
      (∀ m, m ≠ f.d.toNat → vget y.a m 0 = vget c.x.a m 0) ∧ y.k = c.x.k ∧ y.p = c.x.p ∧ t.mem.ram = s.mem.ram ∧ t.hm.blocks = s.hm.blocks)

/-- O40. ldq, lds and ldacq to a forward queue with room and a consumer retire and add one entry at its tail: Ready and zero with no active lane; Poisoned
with its cause when an active lane fails its check (where a lane meets a demand fault, the poison of another's data counts among the failures: the
model's reading, log 136); else Pending when a lane meets a demand fault and every faulting page has a slot, joined by a load in progress that lists
the lanes still to be performed, or Poisoned "fault failed" with no fault ring; else Issued, with a load in progress that will fill it. With too few
slots the word waits with those that there are. A full queue stalls the word, and so does a sector that the L1 holds while an earlier load of the
warp's path waits for it (log 28); with no consumer left it only retires; a misaligned lane of ldacq traps whatever another lane meets (the model's
reading, log 41). (R149, R150, R151, R199, R203, R351, R352, R353.) -/
def Obligations.LoadIntoQueue : Prop :=
  (∀ (i : Instr) (s : State) (c : Ctx) (k : LoadKind) (f : MemF) (q : Nat) (x : Queue),
    loadOf i = some (k, f) → k.queues = true → s.ctx? = some c → s.memFree c → c.t.core < 64 → (k.sh = true ∨ (c.x.win f.tw).remote = none) →
    c.queueAt f.d Queue.isForward q x →
    let s1 := s.acquireAt c k.acq
    let rs := s1.seePoison c.t.core (s1.memLanes c f k.sh .load k.acq.isSome true)
    let s2 := s1.tokTaken.loadHome c k rs
    let sp := s2.winSpace c f.tw
    let tok := s1.mem.nextTok
    let slot := x.slotOf x.entries.length
    (∀ r, (c.t.noConsumer x = true ∨ x.entries.length < x.depth) → chkFail (chkMisaligned rs) = some r → exec i s = .next (s.raise c.w r)) ∧
    (c.t.noConsumer x = true → chkMisaligned rs = [] → ∃ t u, exec i s = .next t ∧ retiredIn c t ∧ t.team? c.w.team = some u ∧ u.queues = c.t.queues) ∧
    (c.t.noConsumer x = false → x.depth ≤ x.entries.length → exec i s = .next (s.stallWarp c.w (.pushQ q))) ∧
    (c.t.noConsumer x = false → x.entries.length < x.depth → chkMisaligned rs = [] →
      (rs = [] → ∃ t u, exec i s = .next t ∧ retiredIn c t ∧ t.team? c.w.team = some u ∧
        u.queues = c.t.queues.set q { x with entries := x.entries ++ [{ st := .ready, data := 0, psec := 0 }] }) ∧
      (∀ r, chkFail rs = some r → ∃ t u, exec i s = .next t ∧ retiredIn c t ∧ t.team? c.w.team = some u ∧
        u.queues = c.t.queues.set q { x with entries := x.entries ++ [{ st := .poisoned r.cause, data := 0, psec := 0 }] }) ∧
      (rs ≠ [] → lanesPass rs → k.sh = false → s2.awaited c ((needOf rs).map (·.pa)) ≠ [] →
        exec i s = .next (s.stallWarp c.w (.bytes (s2.awaited c ((needOf rs).map (·.pa)))))) ∧
      (rs ≠ [] → lanesPass rs → (k.sh = true ∨ s2.awaited c ((needOf rs).map (·.pa)) = []) → ∃ t u, exec i s = .next t ∧ retiredIn c t ∧ t.team? c.w.team = some u ∧
        u.queues = c.t.queues.set q { x with entries := x.entries ++ [{ st := .issued, data := 0, psec := 0 }] } ∧
        (∃ l ∈ (t.core c.t.core).loads, l.tok = tok ∧ l.w = c.w ∧ l.dst = .entry q slot (x.gen slot) ∧ l.ty = some f.ty ∧ l.accs = accsOf rs ∧ l.faulted = []) ∧
        t.mem.ram = s.mem.ram) ∧
      (chkFail rs = none → chkFaults rs ≠ [] → s.noRing = true → ∃ t u, exec i s = .next t ∧ retiredIn c t ∧ t.team? c.w.team = some u ∧
        u.queues = c.t.queues.set q { x with entries := x.entries ++ [{ st := .poisoned .faultFailed, data := 0, psec := 0 }] }) ∧
      (chkFail rs = none → chkFaults rs ≠ [] → s.noRing = false → (s2.raiseFaults sp c.w.team (.load tok) (chkFaults rs)).2.1 = true →
        ∃ t u, exec i s = .next t ∧ retiredIn c t ∧ t.team? c.w.team = some u ∧
          u.queues = c.t.queues.set q { x with entries := x.entries ++ [{ st := .pending, data := 0, psec := 0 }] } ∧
          (∃ l ∈ (t.core c.t.core).loads, l.tok = tok ∧ l.w = c.w ∧ l.dst = .entry q slot (x.gen slot) ∧ l.ty = some f.ty ∧ l.accs = accsOf rs ∧
            l.faulted = accsOf (chkFaulted rs) ∧ l.later = accsOf ((chkPas rs).map Prod.fst) ∧ l.need = []) ∧
          t.mem.ram = s.mem.ram) ∧
      (chkFail rs = none → chkFaults rs ≠ [] → s.noRing = false → (s2.raiseFaults sp c.w.team (.load tok) (chkFaults rs)).2.1 = false →
        exec i s = .next ((s2.raiseFaults sp c.w.team (.warp c.w .load) (chkFaults rs)).2.2.stallWarp c.w .slots)))) ∧
  (∀ (s s' : State) (sp : Space) (team : Nat) (j : Joined) (ps : List (Page × Nat)) (is : List Nat), sp.core < 64 →
    s.raiseFaults sp team j ps = (is, true, s') → ∀ p ∈ ps, ∃ i fs, i < 32 ∧ vget (s'.core sp.core).faults i none = some fs ∧ fs.page = p.1 ∧ fs.asid = sp.asid ∧
      j ∈ fs.joined ∧ p.2 ≤ fs.kind)

/-- O41. sta, stq, sts and strel whose data can be read, whose lanes pass, whose release need not wait and whose bytes no earlier load of the warp still
waits for retire. The bytes that each active lane stores at its address (the highest lane to write a byte wins) stand, for global memory, in the
core's L1 or in a store request to their home slice; no byte of home memory has changed, no line of the L1 but theirs and those evicted for them, no
other core's L1, and the slices have received only stores of those bytes and of evicted ones; for shared memory every byte of the block's arrays but
theirs is as before. A byte of the host aperture goes, at its bus address, in a posted write to the host, or, while ATS has no translation of it, in
one held for the warp (logs 121 and 122), and the host receives nothing else; while the aperture is off nothing leaves and each write is counted as an
error. A popped entry has left its queue. A release that must wait does. (R51, R52, R53, R126, R158, R166, R351, R352, R353.) -/
def Obligations.StoreWords : Prop :=
  ∀ (i : Instr) (s s1 : State) (c : Ctx) (k : StoreKind) (f : MemF) (d : StoreData), storeOf i = some (k, f) → s.ctx? = some c → s.memOpen c →
    c.t.core < 64 → storeData c f.ty k.regs k.queues f.d = .ok d → (k.sh = true ∨ (s.effWin (c.x.win f.tw)).remote = none) →
    let rs := s.memLanes c f k.sh .store k.rel.isSome true
    let bs := storeBytesOf d rs
    lanesPass rs →
    (∀ y, s.storeGate c k = .error (.stall y) → exec i s = .next (s.stallWarp c.w y)) ∧ (s.storeGate c k = .ok (.stay s1) → exec i s = .next s1) ∧
    (s.storeGate c k = .ok (.go s1) → (k.sh = false → s1.readsDone c (bs.map (·.pa))) →
    ∃ t u, exec i s = .next t ∧ retiredIn c t ∧ t.team? c.w.team = some u ∧ u.queues = d.t.queues ∧ t.mem.ram = s.mem.ram ∧
      (k.sh = false →
        t.hm.blocks = s.hm.blocks ∧
        (∀ b ∈ lastWrites bs, isHbm b.pa = true → t.storedAt c.t.core b.pa b.val) ∧
        (∀ ln, (∀ b ∈ bs, lineOf b.pa ≠ ln) → ln % 128 = 0 → s1.keepsLine t c.t.core ln) ∧
        (∀ n, n ≠ c.t.core → (t.core n).l1 = (s1.core n).l1) ∧
        s1.addsStores t c.t.core (bs.map fun b => (b.pa, b.val)) ∧
        (s1.links.apEn = true → ∃ new, t.sent = new ++ s1.sent ∧
          (∀ b ∈ lastWrites bs, isAperture b.pa = true → ∃ pa ds, pa ≤ b.pa ∧ ds[b.pa - pa]? = some b.val ∧
            (Msg.hostWrite (s1.links.busAddr pa) ds ∈ new ∨
              ∃ r ∈ t.links.apWrites, r.own = .warp c.w ∧ r.ba = s1.links.busAddr pa ∧ r.bytes = cellsAt pa ds)) ∧
          (∀ ba ds, Msg.hostWrite ba ds ∈ new → ∃ pa, ba = s1.links.busAddr pa ∧
            ∀ n < ds.length, ∃ b ∈ lastWrites bs, isAperture b.pa = true ∧ b.pa = pa + n ∧ ds[n]? = some b.val)) ∧
        (s1.links.apEn = false → t.links = s1.links ∧ t.sent = s1.sent ∧
          ∃ n, t.mem.ctr.hostErr = s1.mem.ctr.hostErr + word n ∧ (n = 0 ↔ ∀ b ∈ bs, isAperture b.pa = false))) ∧
      (k.sh = true → ∀ (b : Block), s.block? c.t.block = some b → b.shm ≤ 1920 →
        ∃ b', t.block? c.t.block = some b' ∧ (t.core c.t.core).l1 = (s1.core c.t.core).l1 ∧
          (∀ x ∈ lastWrites bs, sharedIdx x.pa < b.cores.length → b.shared.length = b.cores.length → (b.region (sharedIdx x.pa)).wf = true →
            readCell (b'.region (sharedIdx x.pa)).cells (sharedOff x.pa) = x.val) ∧
          ∀ n o, (∀ x ∈ bs, ¬ (sharedIdx x.pa = n ∧ sharedOff x.pa = o)) → readCell (b'.region n).cells o = readCell (b.region n).cells o))

/-- O42. sta, stq, sts, strel, lda, lds and ldacq into a register or zero, atom, atomq to a queue with room or without a consumer, and redl2, whose
operands are good and one of whose active lanes fails its check, trap with the cause and the address of the lowest failing lane and every lane that
fails with that cause; nothing is stored, popped or written. For a load, and an atom into a register, the poison of a lane's data counts where another
lane meets a demand fault (the model's reading: log 136). The data field of a cas that is not a0 to a62 traps "illegal operand". (R125, R149, R159,
R215, R351, R352, R353, R354, R355.) -/
def Obligations.AccessTraps : Prop :=
  (∀ (i : Instr) (s : State) (c : Ctx) (k : StoreKind) (f : MemF) (d : StoreData) (r : TrapReq), storeOf i = some (k, f) → s.ctx? = some c → s.memFree c →
    storeData c f.ty k.regs k.queues f.d = .ok d → (k.sh = true ∨ (s.effWin (c.x.win f.tw)).remote = none) →
    chkFail (s.memLanes c f k.sh .store k.rel.isSome true) = some r → exec i s = .next (s.raise c.w r)) ∧
  (∀ (i : Instr) (s : State) (c : Ctx) (k : LoadKind) (f : MemF) (r : TrapReq), loadOf i = some (k, f) → k.regs = true → s.ctx? = some c →
    s.memFree c → (f.d.toNat < 64 ∨ f.d = 1736) → (k.sh = true ∨ (c.x.win f.tw).remote = none) →
    let s1 := s.acquireAt c k.acq
    chkFail (s1.seePoison c.t.core (s1.memLanes c f k.sh .load k.acq.isSome true)) = some r → exec i s = .next (s.raise c.w r)) ∧
  (∀ (s : State) (c : Ctx) (f : MemF) (r : TrapReq), s.ctx? = some c → s.memFree c → atomSource f = .ok () →
    (f.sh = true ∨ (s.effWin (c.x.win f.tw)).remote = none) → 
    let rs := s.memLanes c f f.sh .atomic true false
    (f.d.toNat < 64 → chkFail (s.seePoison c.t.core rs) = some r → exec (.atom f) s = .next (s.raise c.w r)) ∧
    (f.d = 1736 → chkFail rs = some r → exec (.atom f) s = .next (s.raise c.w r)) ∧
    (chkFail rs = some r → ∀ q x, c.queueAt f.d Queue.isForward q x → (c.t.noConsumer x = true ∨ x.entries.length < x.depth) → exec (.atomq f) s = .next (s.raise c.w r)) ∧
    (chkFail rs = some r → f.sh = false → (c.x.win f.tw).remote = none → exec (.redl2 f) s = .next (s.raise c.w r))) ∧
  (∀ (s : State) (c : Ctx) (f : MemF), s.ctx? = some c → s.gathering c.t.core c.w c.x = false → c.x.holdLd = [] → f.op = 7 → 63 ≤ f.b.toNat →
    (f.d.toNat < 64 ∨ f.d = 1736 → exec (.atom f) s = .next (s.raise c.w { cause := .illegalOperand, reg := f.b.toNat })) ∧
    (∀ q x, c.queueAt f.d Queue.isForward q x → exec (.atomq f) s = .next (s.raise c.w { cause := .illegalOperand, reg := f.b.toNat }))) ∧
  (∀ (rs : List LaneChk) (a b : List LaneChk) (r : LaneChk) (k : Cause) (va : Nat), rs = a ++ r :: b → r.res = .error (.cause k va) →
    (∀ x ∈ a, ∀ k' va', x.res ≠ .error (.cause k' va')) →
    ∃ q, chkFail rs = some q ∧ q.cause = k ∧ q.va = va ∧ ∀ t < 32, (mbit q.lanes t = true ↔ ∃ x ∈ rs, x.lane = t ∧ ∃ va', x.res = .error (.cause k va')))

/-- O43. atom and atomq whose lanes have all been answered without failure retire with the old values in the active lanes of the register, in nothing, or
in the entry allocated when they began; one that acquires at a wide scope leaves no clean sector in the L1. Where they start, on memory that no
earlier load of the warp still waits for, they send every active lane's operation to its home slice and wait, atomq with its entry Issued; one that
releases starts only when its release has been waited for. On shared memory they perform the lanes in some order at once (a poisoned lane stops atom
into a register before any lane is performed, and poisons the entry of atomq). redl2 sends its operations as reductions and completes; gatl2 adds an
Issued entry and, for an index line within one slice, sends it there, a Poisoned one with the cause of an index line that fails, a Pending one for an
index line that faults; mcast sends a read of each line for the cores its mask names that run the task (also when it names none), and for its own warp
counts as a load until they are read; rld adds an Issued entry and sends a read to the device that its address names, or reads here, a Poisoned one
when the device or its address cannot be reached; an address with reserved bits set raises "illegal operand". With no active lane atomq, gatl2 and rld
add a Ready entry of zeros and atom leaves every register. (R123, R134, R158, R166, R203, R204, R354, R355, R356, R357, R358.) -/
def Obligations.AtomicWords : Prop :=
  (∀ (s : State) (c : Ctx) (f : MemF) (tok : Nat) (x : Image) (ent : Option (Nat × BitVec 2)), s.ctx? = some c → s.gathering c.t.core c.w c.x = false →
    c.x.holdLd = [] → c.x.begun = some (.atomic tok 0 x [] ent) → atomSource f = .ok () → c.t.core < 64 →
    let s' := if ordAcq f.order then s.acquireAt c (some f.scope) else s
    let fresh (t : State) : Prop := ordAcq f.order = true → s.wide c f.scope = true → t.noClean c.t.core
    (∀ n, f.d.toNat = n → n < 64 → ∃ t y, exec (.atom f) s = .next t ∧ t.warp? c.w = some y ∧ y.retired = c.x.retired + 1 ∧ y.begun = none ∧
      vget y.a n 0 = mergeLanes (c.x.active f.g) x (vget c.x.a n 0) ∧ (∀ m, m ≠ n → vget y.a m 0 = vget c.x.a m 0) ∧ s'.sameOutside t c.w ∧
      t.mem.ram = s.mem.ram ∧ fresh t) ∧
    (f.d = 1736 → ∃ t y, exec (.atom f) s = .next t ∧ t.warp? c.w = some y ∧ y.retired = c.x.retired + 1 ∧ y.begun = none ∧ y.a = c.x.a ∧
      s'.sameOutside t c.w ∧ t.mem.ram = s.mem.ram ∧ fresh t) ∧
    (∀ q z, c.queueAt f.d Queue.isForward q z →
      (ent = none → ∃ t u, exec (.atomq f) s = .next t ∧ retiredIn c t ∧ t.team? c.w.team = some u ∧ u.queues = c.t.queues ∧ fresh t) ∧
      (∀ i e, z.entries[i]? = some e → e.st = .issued → z.entries.length ≤ z.depth → ent = some (z.slotOf i, z.gen (z.slotOf i)) →
        ∃ t u z', exec (.atomq f) s = .next t ∧ retiredIn c t ∧ t.team? c.w.team = some u ∧ u.queues = c.t.queues.set q z' ∧
          z'.entries = z.entries.set i { st := .ready, data := x, psec := 0 } ∧ z'.depth = z.depth ∧ z'.head = z.head ∧ z'.gens = z.gens ∧ z'.dir = z.dir ∧
          z'.owner = z.owner ∧ fresh t))) ∧
  (∀ (s s1 : State) (c : Ctx) (f : MemF), s.ctx? = some c → s.memOpen c → c.t.core < 64 → atomSource f = .ok () →
    (f.sh = true ∨ (s.effWin (c.x.win f.tw)).remote = none) →
    let rs := s.memLanes c f f.sh .atomic true false
    lanesPass rs → ordRel f.order = true →
    (∀ i, (i = .atom f ∧ (f.d.toNat < 64 ∨ f.d = 1736) ∨
        i = .atomq f ∧ ∃ q z, c.queueAt f.d Queue.isForward q z ∧ (c.t.noConsumer z = true ∨ z.entries.length < z.depth)) →
      (∀ y, s.releaseGate c f.scope (f.order == 4) = .error (.stall y) → exec i s = .next (s.stallWarp c.w y)) ∧
      (s.releaseGate c f.scope (f.order == 4) = .ok (.stay s1) → exec i s = .next s1))) ∧
  (∀ (s s1 : State) (c : Ctx) (f : MemF), s.ctx? = some c → s.memOpen c → c.t.core < 64 → atomSource f = .ok () → f.sh = false →
    (s.effWin (c.x.win f.tw)).remote = none → lanesPass (s.memLanes c f false .atomic true false) →
    (if ordRel f.order then s.releaseGate c f.scope (f.order == 4) = .ok (.go s1) else s1 = s) →
    s.readsDone c ((chkPas (s.memLanes c f false .atomic true false)).flatMap (·.2)) →
    let es := (chkPas (s.memLanes c f false .atomic true false)).map fun x => atomElem c f (x.2.headD 0) x.1.lane
    let tok := s1.mem.nextTok
    (es ≠ [] → ∀ dst, (f.d.toNat < 64 ∧ dst = AtomDst.reg c.w tok ∨ f.d = 1736 ∧ dst = AtomDst.discard c.w tok) →
      ∃ t y, exec (.atom f) s = .next t ∧ t.warp? c.w = some y ∧ y.retired = c.x.retired ∧ y.a = c.x.a ∧
      (∃ left, y.begun = some (.atomic tok left 0 [] none) ∧ ∀ j < 32, (mbit left j = true ↔ ∃ e ∈ es, e.lane = j)) ∧
      (∀ e ∈ es, ∃ ms, e ∈ ms ∧ SliceReq.atomic c.t.core dst ms ∈ (t.slice (sliceOf (lineOf e.pa))).queue) ∧ t.mem.ram = s.mem.ram) ∧
    (f.d.toNat < 64 ∨ f.d = 1736 → es = [] → ∃ t y, exec (.atom f) s = .next t ∧ t.warp? c.w = some y ∧
      y.retired = c.x.retired + 1 ∧ ∀ m, vget y.a m 0 = vget c.x.a m 0) ∧
    (∀ q z, c.queueAt f.d Queue.isForward q z → c.t.noConsumer z = false → z.entries.length < z.depth → es ≠ [] →
      ∃ t y u, exec (.atomq f) s = .next t ∧ t.warp? c.w = some y ∧ y.retired = c.x.retired ∧ t.team? c.w.team = some u ∧
        u.queues = c.t.queues.set q { z with entries := z.entries ++ [{ st := .issued, data := 0, psec := 0 }] } ∧
        (∃ left, y.begun = some (.atomic tok left 0 [] (some (z.slotOf z.entries.length, z.gen (z.slotOf z.entries.length)))) ∧
          ∀ j < 32, (mbit left j = true ↔ ∃ e ∈ es, e.lane = j)) ∧
        (∀ e ∈ es, ∃ ms, e ∈ ms ∧ SliceReq.atomic c.t.core (.warp c.w tok) ms ∈ (t.slice (sliceOf (lineOf e.pa))).queue) ∧ t.mem.ram = s.mem.ram) ∧
    (∀ q z, c.queueAt f.d Queue.isForward q z → c.t.noConsumer z = false → z.entries.length < z.depth → es = [] →
      ∃ t u z', exec (.atomq f) s = .next t ∧ retiredIn c t ∧ t.team? c.w.team = some u ∧ u.queues = c.t.queues.set q z' ∧
        z'.entries = z.entries ++ [{ st := .ready, data := 0, psec := 0 }])) ∧
  (∀ (s s1 : State) (c : Ctx) (f : MemF) (b : Block), s.ctx? = some c → s.memOpen c → c.t.core < 64 → atomSource f = .ok () → f.sh = true →
    (if ordRel f.order then s.releaseGate c f.scope (f.order == 4) = .ok (.go s1) else s1 = s) → s.block? c.t.block = some b →
    let rs := s.memLanes c f true .atomic true false
    let es := (chkPas rs).map fun x => atomElem c f (x.2.headD 0) x.1.lane
    let bad (e : AtomElem) : Bool := (b.region (sharedIdx e.pa)).poisonedAt (sharedOff e.pa)
    lanesPass rs → es ≠ [] →
    ((∀ e ∈ es, bad e = false) → f.d.toNat < 64 → ∃ t y es', exec (.atom f) s = .next t ∧ t.warp? c.w = some y ∧ y.retired = c.x.retired + 1 ∧
      es'.Perm es ∧ t.block? c.t.block = some (b.atomics es' (0, [])).1 ∧ t.mem.ram = s.mem.ram ∧
      vget y.a f.d.toNat 0 = mergeLanes (c.x.active f.g) (b.atomics es' (0, [])).2.1 (vget c.x.a f.d.toNat 0) ∧
      ∀ m, m ≠ f.d.toNat → vget y.a m 0 = vget c.x.a m 0) ∧
    ((∃ e ∈ es, bad e = true) → f.d.toNat < 64 → ∃ (s2 : State) (q : TrapReq), exec (.atom f) s = .next (s2.raise c.w q) ∧ s2.hm.blocks = s.hm.blocks ∧ q.cause = .uncorrectable ∧
      ∀ j < 32, (mbit q.lanes j = true ↔ ∃ e ∈ es, e.lane = j ∧ bad e = true)) ∧
    (f.d = 1736 → ∃ t y es', exec (.atom f) s = .next t ∧ t.warp? c.w = some y ∧ y.retired = c.x.retired + 1 ∧ y.a = c.x.a ∧ es'.Perm es ∧
      t.block? c.t.block = some (b.atomics es' (0, [])).1 ∧ t.mem.ram = s.mem.ram) ∧
    (∀ q z, c.queueAt f.d Queue.isForward q z → c.t.noConsumer z = false → z.entries.length < z.depth →
      ∃ t u z' es', exec (.atomq f) s = .next t ∧ retiredIn c t ∧ es'.Perm es ∧ t.block? c.t.block = some (b.atomics es' (0, [])).1 ∧
        t.team? c.w.team = some u ∧ u.queues = c.t.queues.set q z' ∧
        z'.entries = z.entries ++ [if (b.atomics es' (0, [])).2.2 = [] then { st := .ready, data := (b.atomics es' (0, [])).2.1, psec := 0 }
          else { st := .poisoned .uncorrectable, data := 0, psec := 0 }])) ∧
  (∀ (b : Block) (e : AtomElem) (es : List AtomElem) (m : Ram) (old : Nat), (b.region (sharedIdx e.pa)).rmw { e with pa := sharedOff e.pa } = some (m, old) →
    (b.atomics (e :: es) (0, [])).1 = (Block.atomics { b with shared := b.shared.set (sharedIdx e.pa) m } es (0, [])).1 ∧
    ((∀ x ∈ es, x.lane ≠ e.lane ∧ x.lane < 32) → e.lane < 32 → lane (b.atomics (e :: es) (0, [])).2.1 e.lane = extWord e.ty (word old))) ∧
  (∀ (s : State) (c : Ctx) (f : MemF), s.ctx? = some c → s.memFree c → c.t.core < 64 → atomSource f = .ok () → (c.x.win f.tw).remote = none →
    lanesPass (s.memLanes c f false .atomic true false) → s.readsDone c ((chkPas (s.memLanes c f false .atomic true false)).flatMap (·.2)) →
    ∃ t, exec (.redl2 f) s = .next t ∧ retiredIn c t ∧ t.mem.ram = s.mem.ram ∧
      ∀ e ∈ (chkPas (s.memLanes c f false .atomic true false)).map (fun x => atomElem c f (x.2.headD 0) x.1.lane),
        ∃ tok ms, e ∈ ms ∧ SliceReq.reduce c.t.core tok ms ∈ (t.slice (sliceOf (lineOf e.pa))).queue) ∧
  (∀ (s : State) (c : Ctx) (f : MemF) (q : Nat) (x : Queue), s.ctx? = some c → s.gathering c.t.core c.w c.x = false → c.x.holdLd = [] → c.t.core < 64 →
    c.queueAt f.d Queue.isForward q x →
    Fld.isK f.b = true → (c.x.win f.tw).remote = none → (c.x.win f.op).remote = none →
    let adds (e : Entry) (t : State) : Prop := retiredIn c t ∧ t.mem.ram = s.mem.ram ∧
      ∃ u, t.team? c.w.team = some u ∧ u.queues = c.t.queues.set q { x with entries := x.entries ++ [e] }
    let r (j : Nat) : Except AccFail (List Nat) := s.checkWin (s.spaceOf c.w.team) (c.x.win f.tw) .load (laneOff c f.off 0 j / 128 * 128) 128
    let s1 := s.writeBackAll c.t.core
    (c.t.noConsumer x = true →
      ∃ t u, exec (.gatl2 f) s = .next t ∧ retiredIn c t ∧ t.team? c.w.team = some u ∧ u.queues = c.t.queues) ∧
    (c.t.noConsumer x = false → x.depth ≤ x.entries.length → (∀ j p k, lowestLane (c.x.active f.g) = some j → r j ≠ .error (.fault p k)) →
      exec (.gatl2 f) s = .next (s.stallWarp c.w (.pushQ q))) ∧
    (c.t.noConsumer x = false → x.entries.length < x.depth →
      (c.x.active f.g = 0 → ∃ t, exec (.gatl2 f) s = .next t ∧ adds { st := .ready, data := 0, psec := 0 } t) ∧
      (∀ j pas, lowestLane (c.x.active f.g) = some j → r j = .ok pas →
        ∃ t, exec (.gatl2 f) s = .next t ∧ adds { st := .issued, data := 0, psec := 0 } t ∧
          ((∀ pa ∈ pas, isHbm pa = true ∧ sliceOf pa = sliceOf (pas.headD 0)) →
            ∃ g, SliceReq.gather g ∈ (t.slice (sliceOf (lineOf (pas.headD 0)))).queue ∧ g.idx = pas ∧ g.lanes = c.x.active f.g ∧ g.esz = accSize f.ty ∧
              g.len = vget c.x.k (f.b.toNat - 1664) 0 ∧ g.win = c.x.win f.op)) ∧
      (∀ j k va, lowestLane (c.x.active f.g) = some j → r j = .error (.cause k va) →
        ∃ t, exec (.gatl2 f) s = .next t ∧ adds { st := .poisoned k, data := 0, psec := 0 } t) ∧
      (∀ j p k, lowestLane (c.x.active f.g) = some j → r j = .error (.fault p k) →
        (s.noRing = true → ∃ t, exec (.gatl2 f) s = .next t ∧ adds { st := .poisoned .faultFailed, data := 0, psec := 0 } t) ∧
        (s.noRing = false → s1.raiseFault (s.winSpace c f.tw) c.w.team p k (.load s1.mem.nextTok) = none →
          exec (.gatl2 f) s = .next (s.stallWarp c.w .slots)) ∧
        (s.noRing = false → s1.raiseFault (s.winSpace c f.tw) c.w.team p k (.load s1.mem.nextTok) ≠ none →
          ∃ t, exec (.gatl2 f) s = .next t ∧ adds { st := .pending, data := 0, psec := 0 } t ∧
            ∃ l ∈ (t.core c.t.core).loads, l.tok = s1.mem.nextTok ∧ l.w = c.w ∧ l.dst = .entry q (x.slotOf x.entries.length) (x.gen (x.slotOf x.entries.length)) ∧
              l.faulted = [{ pos := 0, va := (c.x.win f.tw).va + laneOff c f.off 0 j / 128 * 128, size := 128, dom := (c.x.win f.tw).dom }] ∧
              ∃ g, l.gather = some g ∧ g.lanes = c.x.active f.g ∧ g.esz = accSize f.ty ∧ g.len = vget c.x.k (f.b.toNat - 1664) 0 ∧ g.win = c.x.win f.op)))) ∧
  (∀ (s : State) (c : Ctx) (f : MemF), s.ctx? = some c → s.gathering c.t.core c.w c.x = false → c.x.holdLd = [] → c.t.core < 64 → Fld.isK f.b = true →
    (c.x.win f.tw).remote = none →
    let mask := vget c.x.k (f.b.toNat - 1664) 0 &&& s.coresOf c.t.task
    ∃ t, exec (.mcast f) s = .next t ∧ retiredIn c t ∧ t.mem.ram = s.mem.ram ∧ (s.tokTaken.touchedLines c f false = [] → t.slices = s.slices) ∧
      ∀ ln ∈ s.tokTaken.touchedLines c f false, SliceReq.load mask ln 0xff s.mem.nextTok ∈ (t.slice (sliceOf ln)).queue ∧
        ∃ l ∈ (t.core c.t.core).loads, l.w = c.w ∧ l.dst = .caches ∧ l.tok = s.mem.nextTok ∧ ∃ n ∈ l.need, n.pa = ln) ∧
  (∀ (s : State) (c : Ctx) (f : RldF) (q : Nat) (x : Queue), s.ctx? = some c → s.gathering c.t.core c.w c.x = false → c.x.holdLd = [] → c.t.core < 64 →
    c.queueAt f.d Queue.takesRld q x →
    let adds (e : Entry) (t : State) : Prop := retiredIn c t ∧ t.mem.ram = s.mem.ram ∧
      ∃ u, t.team? c.w.team = some u ∧ u.queues = c.t.queues.set q { x with entries := x.entries ++ [e] }
    (∀ j, lowestLane (c.x.active f.g) = some j → fieldOf (lane (vget c.x.a f.off.toNat 0) j) 62 2 ≠ 0 →
      exec (.rld f) s = .next (s.raise c.w { cause := .illegalOperand, reg := f.off.toNat })) ∧
    (c.x.active f.g = 0 → c.t.noConsumer x = true → ∃ t u, exec (.rld f) s = .next t ∧ retiredIn c t ∧ t.team? c.w.team = some u ∧ u.queues = c.t.queues) ∧
    (c.x.active f.g = 0 → c.t.noConsumer x = false → x.depth ≤ x.entries.length → exec (.rld f) s = .next (s.stallWarp c.w (.pushQ q))) ∧
    (c.t.noConsumer x = false → x.entries.length < x.depth →
      (c.x.active f.g = 0 → ∃ t, exec (.rld f) s = .next t ∧ adds { st := .ready, data := 0, psec := 0 } t) ∧
      (∀ j, lowestLane (c.x.active f.g) = some j →
        let da := lane (vget c.x.a f.off.toNat 0) j
        let sp := s.domSpace (s.spaceOf c.w.team)
        let r := s.checkTlb sp .load (fieldOf da 0 52) (f.n.toNat + 1)
        let slot := x.slotOf x.entries.length
        fieldOf da 62 2 = 0 →
        (s.links.domEn = false → ∃ t, exec (.rld f) s = .next t ∧ adds { st := .poisoned .noDomain, data := 0, psec := 0 } t) ∧
        (s.links.domEn = true → fieldOf da 52 10 = s.links.self.toNat →
          (∀ pas, r = .ok pas → s.awaited c pas = [] → ∃ t, exec (.rld f) s = .next t ∧ adds { st := .issued, data := 0, psec := 0 } t ∧
            ∃ l ∈ (t.core c.t.core).loads, l.tok = s.mem.nextTok ∧ l.w = c.w ∧ l.dst = .entry q slot (x.gen slot)) ∧
          (∀ pas, r = .ok pas → s.awaited c pas ≠ [] → exec (.rld f) s = .next (s.stallWarp c.w (.bytes (s.awaited c pas)))) ∧
          (∀ k va, r = .error (.cause k va) → ∃ t, exec (.rld f) s = .next t ∧ adds { st := .poisoned k, data := 0, psec := 0 } t) ∧
          (∀ p k, r = .error (.fault p k) →
            (s.noRing = true → ∃ t, exec (.rld f) s = .next t ∧ adds { st := .poisoned .faultFailed, data := 0, psec := 0 } t) ∧
            (s.noRing = false → s.raiseFault sp c.w.team p k (.load s.mem.nextTok) = none → exec (.rld f) s = .next (s.stallWarp c.w .slots)) ∧
            (s.noRing = false → s.raiseFault sp c.w.team p k (.load s.mem.nextTok) ≠ none →
              ∃ t, exec (.rld f) s = .next t ∧ adds { st := .pending, data := 0, psec := 0 } t ∧
                ∃ l ∈ (t.core c.t.core).loads, l.tok = s.mem.nextTok ∧ l.w = c.w ∧ l.dst = .entry q slot (x.gen slot) ∧
                  l.faulted = [{ pos := 0, va := fieldOf da 0 52, size := f.n.toNat + 1, dom := true }]))) ∧
        (s.links.domEn = true → fieldOf da 52 10 ≠ s.links.self.toNat →
          (∀ k s1, s.domResolve (fieldOf da 52 10) = (some k, s1) →
            ∃ t, exec (.rld f) s = .next t ∧ adds { st := .poisoned k, data := 0, psec := 0 } t) ∧
          (∀ s1, s.domResolve (fieldOf da 52 10) = (none, s1) →
            ∃ t u r, exec (.rld f) s = .next t ∧ retiredIn c t ∧ t.team? c.w.team = some u ∧
              u.queues = c.t.queues.set q { x with entries := x.entries ++ [{ st := .issued, data := 0, psec := 0 }] } ∧ r ∈ t.links.remotes ∧
              r.dev = fieldOf da 52 10 ∧ r.va = fieldOf da 0 52 ∧ r.op = .read s1.mem.nextTok (f.n.toNat + 1) ∧ t.mem.ram = s.mem.ram)))))

/-- O44. With nothing holding it each word retires: pref without an event; cflush when no touched line holds a written byte or all of that has been
acknowledged; scopy copies a range of shared memory whose source it reads whole first, or nothing, and traps whatever the predicate when either range
runs out of shared memory (source before destination) or the length is above 2^21; fence when what a release waits for has happened; iinv drops the
code lines that its range covers, in every warp and core, or traps when the range passes the end of the address space, and isync the warp's own; l1res
sets the block's shared size when it fits and says so in its predicate; tide sets the phase for a team of the PF; fbset sets a format block from eight
k registers; a field of scopy or fbset that is not such a k register raises "illegal operand". The loads of its path that an acquire fence finds hold
the memory words after it, which then find no clean sector in the L1. A release goes on only when no load of its path is in progress and, at a wide
scope, nothing written is left in the L1, no store but those of other paths is unacknowledged and no aperture write is held. None changes home memory.
The addresses that scopy and iinv report and their order are the model's reading (logs 51 and 40). (R124, R125, R162, R166, R353, R360, R361, R362,
R363, R364, R365, R366.) -/
def Obligations.CacheAndCodeWords : Prop :=
  (∀ (s s1 : State) (c : Ctx) (scope : BitVec 2) (sc : Bool), c.t.core < 64 → s.releaseGate c scope sc = .ok (.go s1) →
    (∀ l ∈ (s.core c.t.core).loads, l.w = c.w → c.x.unordered l.tok = true) ∧
    (s.wide c scope = true → s.links.apWrites = [] ∧ (c.x.begun = some .released → c.x.holdSt = []) ∧
      (c.x.begun ≠ some .released → (∀ ln, ((s1.core c.t.core).line ln).dirty = 0) ∧
        ∀ u ∈ (s1.core c.t.core).unacked, (u.remote = true ∧ scope ≠ 3) ∨ (u.w = some c.w ∧ c.x.unordered u.tok = true)))) ∧
  (∀ (s : State) (c : Ctx) (f : WinvF), s.ctx? = some c → s.gathering c.t.core c.w c.x = false → c.t.core < 64 →
    (∃ tok ∈ c.x.holdLd, c.x.unordered tok = false) →
    ((∃ tok ∈ c.x.holdLd, c.x.unordered tok = false ∧ (s.core c.t.core).load? tok ≠ none) → exec (.winv f) s = .next (s.stallWarp c.w .held)) ∧
    ((∀ tok ∈ c.x.holdLd, c.x.unordered tok = false → (s.core c.t.core).load? tok = none) →
      ∃ t, exec (.winv f) s = .next t ∧ retiredIn c t ∧ t.mem.ram = s.mem.ram ∧ t.noClean c.t.core)) ∧
  ∀ (s : State) (c : Ctx), s.ctx? = some c → s.gathering c.t.core c.w c.x = false → c.x.holdLd = [] →
    (∀ f : MemF, (c.x.win f.tw).remote = none → ∃ t y, exec (.pref f) s = .next t ∧ t.warp? c.w = some y ∧ y.retired = c.x.retired + 1 ∧ y.a = c.x.a ∧
      y.k = c.x.k ∧ y.window.length ≤ c.x.window.length ∧ t.mem.ram = s.mem.ram) ∧
    (∀ f : MemF, (c.x.win f.tw).remote = none → c.x.begun = some .released → c.x.holdSt = [] →
      exec (.cflushL1 f) s = .next (s.retireCtx c) ∧ exec (.cflushL2 f) s = .next (s.retireCtx c)) ∧
    (∀ f : MemF, (c.x.win f.tw).remote = none → c.x.begun = none → s.touchedLines c f true = [] → (∀ u ∈ (s.core c.t.core).unacked, u.tok < s.mem.nextTok) →
      exec (.cflushL1 f) s = .next (s.retireCtx c) ∧ exec (.cflushL2 f) s = .next (s.retireCtx c)) ∧
    (∀ f : ScopyF, Fld.isK f.d = true → Fld.isK f.a = true → Fld.isK f.b = true →
      let d := (vget c.x.k (f.d.toNat - 1664) 0).toNat; let a := (vget c.x.k (f.a.toNat - 1664) 0).toNat; let n := (vget c.x.k (f.b.toNat - 1664) 0).toNat
      (n = 0 ∨ (c.x.cond f.g = false ∧ n ≤ 2 ^ 21 ∧ (s.blockOf c).inShared a n = true ∧ (s.blockOf c).inShared d n = true) →
        ∃ t, exec (.scopy f) s = .next t ∧ retiredIn c t ∧ t.hm.blocks = s.hm.blocks ∧ t.mem.ram = s.mem.ram) ∧
      (∀ b, c.x.cond f.g = true → n ≠ 0 → n ≤ 2 ^ 21 → s.block? c.t.block = some b → b.inShared a n = true → b.inShared d n = true → b.shm ≤ 1920 →
        b.shared.length = b.cores.length → (b.region (sharedIdx d)).wf = true →
        ∃ t b', exec (.scopy f) s = .next t ∧ retiredIn c t ∧ t.block? c.t.block = some b' ∧ t.mem.ram = s.mem.ram ∧
          (∀ i < n, readCell (b'.region (sharedIdx d)).cells (sharedOff d + i) = readCell (b.region (sharedIdx a)).cells (sharedOff a + i)) ∧
          ∀ m o, (m ≠ sharedIdx d ∨ o < sharedOff d ∨ sharedOff d + n ≤ o) → readCell (b'.region m).cells o = readCell (b.region m).cells o) ∧
      (2 ^ 21 < n → exec (.scopy f) s = .next (s.raise c.w { cause := .sharedRange, va := a })) ∧
      (n ≠ 0 → n ≤ 2 ^ 21 → (s.blockOf c).inShared a n = false →
        exec (.scopy f) s = .next (s.raise c.w { cause := .sharedRange, va := (s.blockOf c).firstOut a })) ∧
      (n ≠ 0 → n ≤ 2 ^ 21 → (s.blockOf c).inShared a n = true → (s.blockOf c).inShared d n = false →
        exec (.scopy f) s = .next (s.raise c.w { cause := .sharedRange, va := (s.blockOf c).firstOut d }))) ∧
    (∀ f : FenceF, c.x.cond f.g = false → exec (.fence f) s = .next (s.retireCtx c)) ∧
    (∀ (f : FenceF) (s1 : State), c.x.cond f.g = true → c.x.begun = none → ordRel f.order = true → s.releaseGate c f.scope (f.order == 4) = .ok (.go s1) →
      ∃ t, exec (.fence f) s = .next t ∧ retiredIn c t ∧ t.mem.ram = s.mem.ram) ∧
    (∀ f : FenceF, c.x.cond f.g = true → f.order = 1 → ∃ t y, exec (.fence f) s = .next t ∧ t.warp? c.w = some y ∧ y.retired = c.x.retired + 1 ∧
      t.mem.ram = s.mem.ram ∧ (∀ l ∈ (s.core c.t.core).loads, l.w = c.w → c.x.unordered l.tok = false → l.tok ∈ y.holdLd) ∧
      (s.wide c f.scope = true → c.t.core < 64 → t.noClean c.t.core)) ∧
    (∀ f : ScopyF, (Fld.isK f.d = false → exec (.scopy f) s = .next (s.raise c.w { cause := .illegalOperand, reg := f.d.toNat })) ∧
      (Fld.isK f.d = true → Fld.isK f.a = false → exec (.scopy f) s = .next (s.raise c.w { cause := .illegalOperand, reg := f.a.toNat })) ∧
      (Fld.isK f.d = true → Fld.isK f.a = true → Fld.isK f.b = false → exec (.scopy f) s = .next (s.raise c.w { cause := .illegalOperand, reg := f.b.toNat }))) ∧
    (∀ f : FbsetF, f.a.toNat < 1664 ∨ 1720 < f.a.toNat → exec (.fbset f) s = .next (s.raise c.w { cause := .illegalOperand, reg := f.a.toNat })) ∧
    (∀ f : ABF, Fld.isK f.a = true → Fld.isK f.b = true →
      let a := (vget c.x.k (f.a.toNat - 1664) 0).toNat; let n := (vget c.x.k (f.b.toNat - 1664) 0).toNat
      a + n ≤ 2 ^ 52 → ∃ t y, exec (.iinv f) s = .next t ∧ t.warp? c.w = some y ∧ y.retired = c.x.retired + 1 ∧ y.a = c.x.a ∧ y.k = c.x.k ∧ t.mem = s.mem ∧
        (∀ l pa big w r, c.x.cond f.g = true → 0 < n → c.x.code = some l → s.xlat (s.spaceOf c.w.team).core (s.spaceOf c.w.team).asid a = .leaf pa big w r →
          l.pa = leafPa pa big a / 128 * 128 → y.code = none) ∧
        ∀ i < n, ∀ pa big w r, c.x.cond f.g = true → s.xlat (s.spaceOf c.w.team).core (s.spaceOf c.w.team).asid (a + i) = .leaf pa big w r →
          (∀ v z l, t.warp? v = some z → z.code = some l → l.pa ≠ leafPa pa big (a + i) / 128 * 128) ∧
          ∀ m, ∀ l ∈ (t.core m).codes, l.pa ≠ leafPa pa big (a + i) / 128 * 128) ∧
    (∀ f : ABF, Fld.isK f.a = true → Fld.isK f.b = true →
      let a := (vget c.x.k (f.a.toNat - 1664) 0).toNat; let n := (vget c.x.k (f.b.toNat - 1664) 0).toNat
      n ≠ 0 → 2 ^ 52 < a + n → exec (.iinv f) s = .next (s.raise c.w { cause := .address, va := max a (2 ^ 52) })) ∧
    (∀ g : Guard, c.x.count ≤ c.x.slot + 1 → exec (.isync g) s = .next (s.retireCtx (if c.x.cond g then { c with x := { c.x with code := none } } else c))) ∧
    (∀ f : DAF, (Fld.isPred f.d = true ∨ f.d = 1736) → Fld.isK f.a = true →
      let n := (vget c.x.k (f.a.toNat - 1664) 0).toNat
      let say (x : Warp) (ok : Bool) : Warp := if Fld.isPred f.d then x.writePred (f.d.toNat - 1728) allLanes (if ok then allLanes else 0) else x
      (c.x.cond f.g = false → exec (.l1res f) s = .next (s.retireCtx c)) ∧
      (c.x.cond f.g = true → s.sharedFits (s.blockOf c) n = false → exec (.l1res f) s = .next (s.retireCtx { c with x := say c.x false })) ∧
      (∀ b, c.x.cond f.g = true → s.block? c.t.block = some b → s.sharedFits b n = true →
        ∃ t y b', exec (.l1res f) s = .next t ∧ t.warp? c.w = some y ∧ y.retired = c.x.retired + 1 ∧ y.p = (say c.x true).p ∧
          t.block? c.t.block = some b' ∧ b'.shm = n ∧ t.mem.ram = s.mem.ram ∧
          ∀ m o, readCell (b'.region m).cells o = if o < n * 1024 then readCell (b.region m).cells o else 0)) ∧
    (∀ f : AF, Fld.isK f.a = true → ∃ t, exec (.tide f) s = .next t ∧ retiredIn c t ∧ t.mem.ram = s.mem.ram ∧
      t.mem.tidePhase = if c.x.cond f.g = true ∧ ∃ k, s.task? c.t.task = some k ∧ k.area < 16 then
        (vget c.x.k (f.a.toNat - 1664) 0).extractLsb' 0 6 else s.mem.tidePhase) ∧
    (∀ f : FbsetF, 1664 ≤ f.a.toNat → f.a.toNat ≤ 1720 → ∃ t u, exec (.fbset f) s = .next t ∧ retiredIn c t ∧ t.team? c.w.team = some u ∧
      (c.x.cond f.g = false → u.fb = c.t.fb) ∧
      (c.x.cond f.g = true → (∀ i < 8, (vget u.fb f.n.toNat 0).extractLsb' (64 * i) 64 = vget c.x.k (f.a.toNat - 1664 + i) 0) ∧
        ∀ m, m ≠ f.n.toNat → vget u.fb m 0 = vget c.t.fb m 0) ∧ s.sameOutside t c.w)

/-- O45. qpush adds a Ready entry of the active lanes at the tail of a forward queue with room and a consumer; qpop takes a Ready head of a return queue
and writes the active lanes of its register; qdrop frees the head and qflush every entry, and cancels their loads, when the condition holds; qstat
writes the status of Table 13.6; qwait retires when no entry is Issued or Pending. A full forward queue stalls qpush; a head that is not there stalls
qpop, or raises "queue exhausted" when none can come, and a poisoned one its trap; of each, a field that names no queue of the team with a direction
that it takes traps by Table 7.3. qpush of a special as an unsigned 64-bit number (log 18) and the queue number before the direction of a field that
names no queue (log 124) are the model's readings. (R199, R200, R202, R203, R204, R367, R368, R369.) -/
def Obligations.QueueWords : Prop :=
  ∀ (s : State) (c : Ctx), s.ctx? = some c →
    (∀ f q x, c.queueAt f.d Queue.isForward q x → (f.a.toNat < 64 ∨ Fld.isK f.a = true ∨ (1736 ≤ f.a.toNat ∧ f.a.toNat < 1743)) →
      (c.t.noConsumer x = false → x.entries.length < x.depth → ∃ X : Image,
        exec (.qpush f) s = .next (s.retireCtx { c with t := c.t.setQueue q { x with entries := x.entries ++ [{ st := .ready, data := X, psec := 0 }] } }) ∧
        ∀ j < 32, lane X j = if mbit (c.x.active f.g) j then lane (srcVal c 7 f.a 0) j else 0) ∧
      (c.t.noConsumer x = false → x.depth ≤ x.entries.length → exec (.qpush f) s = .next (s.stallWarp c.w (.pushQ q))) ∧
      (c.t.noConsumer x = true → exec (.qpush f) s = .next (s.retireCtx c))) ∧
    (∀ f q x, c.queueAt f.a Queue.isReturn q x → f.d.toNat < 64 ∨ f.d = 1736 →
      (∀ e r, x.entries = e :: r → e.st = .ready → e.psec = 0 → ∃ t y u, exec (.qpop f) s = .next t ∧ t.warp? c.w = some y ∧ y.retired = c.x.retired + 1 ∧
        t.team? c.w.team = some u ∧ u.queues = c.t.queues.set q x.pop ∧ x.pop.entries = r ∧
        (∀ m, y.a[m]? = if m = f.d.toNat then (c.x.a[m]?).map (mergeLanes (c.x.active f.g) e.data) else c.x.a[m]?) ∧ s.sameOutside t c.w) ∧
      (x.entries = [] → c.t.execEnded x.owner = false → exec (.qpop f) s = .next (s.stallWarp c.w (.popQ q))) ∧
      (x.entries = [] → c.t.execEnded x.owner = true → exec (.qpop f) s = .next (s.raise c.w { cause := .queueExhausted, reg := f.a.toNat })) ∧
      (∀ e r k, x.entries = e :: r → e.st = .poisoned k →
        exec (.qpop f) s = .next (s.raise c.w { cause := .poisonedEntry, reg := f.a.toNat, sub := k.code }))) ∧
    (∀ f : AF, ∀ q x, c.queueAt f.a (fun _ => true) q x →
      (c.x.cond f.g = false → exec (.qdrop f) s = .next (s.retireCtx c) ∧ exec (.qflush f) s = .next (s.retireCtx c) ∧
        exec (.qwait f) s = .next (s.retireCtx c)) ∧
      (c.x.cond f.g = true → ∃ t u z, exec (.qdrop f) s = .next t ∧ retiredIn c t ∧ t.team? c.w.team = some u ∧ u.queues = c.t.queues.set q z ∧
        z.entries = x.entries.drop 1 ∧ z.dir = x.dir ∧ z.owner = x.owner ∧ z.depth = x.depth ∧ t.mem.ram = s.mem.ram ∧
        (c.t.core < 64 → 0 < x.entries.length → ∀ l ∈ (t.core c.t.core).loads, l ∈ (s.core c.t.core).loads ∧
          ¬ (l.w.team = c.t.num ∧ l.dst = .entry q (x.slotOf 0) (x.gen (x.slotOf 0))))) ∧
      (c.x.cond f.g = true → ∃ t u z, exec (.qflush f) s = .next t ∧ retiredIn c t ∧ t.team? c.w.team = some u ∧ u.queues = c.t.queues.set q z ∧
        z.entries = [] ∧ z.dir = x.dir ∧ z.owner = x.owner ∧ z.depth = x.depth ∧ t.mem.ram = s.mem.ram ∧
        (c.t.core < 64 → ∀ l ∈ (t.core c.t.core).loads, l ∈ (s.core c.t.core).loads ∧
          ∀ i < x.entries.length, ¬ (l.w.team = c.t.num ∧ l.dst = .entry q (x.slotOf i) (x.gen (x.slotOf i))))) ∧
      ((∀ e ∈ x.entries, e.st ≠ .issued ∧ e.st ≠ .pending) → exec (.qwait f) s = .next (s.retireCtx c))) ∧
    (∀ f : DAF, ∀ q x, c.queueAt f.a (fun _ => true) q x → (Fld.isK f.d = true ∨ f.d = 1736) →
      exec (.qstat f) s = .next (s.retireCtx (if c.x.cond f.g then { c with x := c.x.writeK f.d (c.t.qstat q x) } else c))) ∧
    (∀ q (x : Queue), x.depth < 2 ^ 9 → x.entries.length ≤ x.depth →
      let v := c.t.qstat q x
      fieldOf v 0 9 = x.entries.length ∧ fieldOf v 9 9 = (x.entries.filter (·.st == .ready)).length ∧
      fieldOf v 18 9 = (x.entries.filter (·.st == .pending)).length ∧ fieldOf v 27 9 = (x.entries.filter fun e => match e.st with | .poisoned _ => true | _ => false).length ∧ fieldOf v 36 9 = x.depth ∧
      fieldOf v 45 3 = (match x.entries.head? with
        | none => 0 | some e => match e.st with | .issued => 1 | .pending => 2 | .ready => 3 | .poisoned _ => 4) ∧ (v.getLsbD 48 = c.t.exhausted q x) ∧
      fieldOf v 49 2 = (match x.dir with | .forward => 0 | .ret => 1 | .engine => 2)) ∧
    (∀ (f : DAF) q, queueFault c.t f.d Queue.isForward = some q → exec (.qpush f) s = .next (s.raise c.w q)) ∧
    (∀ (f : DAF) q, f.d.toNat < 64 ∨ f.d = 1736 → queueFault c.t f.a Queue.isReturn = some q → exec (.qpop f) s = .next (s.raise c.w q)) ∧
    (∀ (f : AF) q, queueFault c.t f.a (fun _ => true) = some q → exec (.qdrop f) s = .next (s.raise c.w q) ∧ exec (.qflush f) s = .next (s.raise c.w q) ∧
      exec (.qwait f) s = .next (s.raise c.w q)) ∧
    (∀ (f : DAF) q, Fld.isK f.d = true ∨ f.d = 1736 → queueFault c.t f.a (fun _ => true) = some q → exec (.qstat f) s = .next (s.raise c.w q))

/-- O46. For a group in which the warp's team has a member, when the condition holds: bara, not yet arrived for the current instance and with nothing its
release waits for, retires with its team arrived; barw for an instance that has completed retires with its error bit in every bit of its predicate,
and for a warp that never arrived with none; bar arrives and, when that completes the instance, retires with its error bit, else waits, arrived, on
that instance. A group that is missing, or in which the team has no member, raises "illegal operand" with its number. (R82, R173, R370, R371, R372.) -/
def Obligations.BarrierWords : Prop :=
  ∀ (s : State) (c : Ctx), s.ctx? = some c → ∀ (f : BarF) (b : Block) (g : Group), s.block? c.t.block = some b → b.groups.find? (·.gnum == f.n.toNat) = some g →
    g.hasTeam (c.t.warps.length - 1) c.t.index = true →
    (c.x.cond f.g = false → exec (.bara f) s = .next (s.retireCtx c) ∧
      ((Fld.isPred f.d = true ∨ f.d = 1736) → exec (.barw f) s = .next (s.retireCtx c) ∧ exec (.bar f) s = .next (s.retireCtx c))) ∧
    (∀ s1, c.x.cond f.g = true → g.arrived.any (fun a => a.1 == .team c.t.index) = false → s.releaseGate c 1 false = .ok (.go s1) →
      ∃ t y, exec (.bara f) s = .next t ∧ t.warp? c.w = some y ∧ y.retired = c.x.retired + 1 ∧ y.lastAt g.gnum = some g.results.length ∧ t.mem.ram = s.mem.ram) ∧
    (∀ i e, c.x.cond f.g = true → (Fld.isPred f.d = true ∨ f.d = 1736) → c.x.lastAt g.gnum = some i → g.results[i]? = some e →
      ∃ t y, exec (.barw f) s = .next t ∧ t.warp? c.w = some y ∧ y.retired = c.x.retired + 1 ∧ t.mem.ram = s.mem.ram ∧
        (∀ n < 8, n ≠ 0 → f.d.toNat = 1728 + n → vget y.p n 0 = if e then allLanes else 0) ∧
        (∀ n, f.d.toNat ≠ 1728 + n → vget y.p n 0 = vget c.x.p n 0)) ∧
    (c.x.cond f.g = true → (Fld.isPred f.d = true ∨ f.d = 1736) → c.x.lastAt g.gnum = none → ∃ t y, exec (.barw f) s = .next t ∧ t.warp? c.w = some y ∧
      y.retired = c.x.retired + 1 ∧ ∀ n < 8, n ≠ 0 → f.d.toNat = 1728 + n → vget y.p n 0 = 0) ∧
    (∀ i, c.x.cond f.g = true → (Fld.isPred f.d = true ∨ f.d = 1736) → c.x.lastAt g.gnum = some i → g.results[i]? = none →
      exec (.barw f) s = .next (s.stallWarp c.w (.barrier g.gnum))) ∧
    (∀ s1, c.x.cond f.g = true → (Fld.isPred f.d = true ∨ f.d = 1736) → c.x.begun ≠ some .arrived →
      g.arrived.any (fun a => a.1 == .team c.t.index) = false → s.releaseGate c 1 false = .ok (.go s1) →
      ∃ t y b' g', exec (.bar f) s = .next t ∧ t.warp? c.w = some y ∧ y.lastAt g.gnum = some g.results.length ∧ t.mem.ram = s.mem.ram ∧
        t.block? c.t.block = some b' ∧ b'.groups.find? (·.gnum == f.n.toNat) = some g' ∧
        (g'.results[g.results.length]? = none → y.retired = c.x.retired ∧ y.begun = some .arrived ∧ y.stall = some (.barrier g.gnum) ∧
          g'.arrived.any (fun a => a.1 == .team c.t.index) = true) ∧
        (∀ e, g'.results[g.results.length]? = some e → y.retired = c.x.retired + 1 ∧
          ∀ n < 8, n ≠ 0 → f.d.toNat = 1728 + n → vget y.p n 0 = if e then allLanes else 0)) ∧
    (∀ i e, c.x.cond f.g = true → (Fld.isPred f.d = true ∨ f.d = 1736) → c.x.begun = some .arrived → c.x.lastAt g.gnum = some i → g.results[i]? = some e →
      ∃ t y, exec (.bar f) s = .next t ∧ t.warp? c.w = some y ∧ y.retired = c.x.retired + 1 ∧
        ∀ n < 8, n ≠ 0 → f.d.toNat = 1728 + n → vget y.p n 0 = if e then allLanes else 0) ∧
    (∀ n : BitVec 8, (b.groups.find? (·.gnum == n.toNat) = none ∨
        ∃ h, b.groups.find? (·.gnum == n.toNat) = some h ∧ h.hasTeam (c.t.warps.length - 1) c.t.index = false) →
      exec (.bara { f with n := n }) s = .next (s.raise c.w { cause := .illegalOperand, reg := n.toNat }) ∧
      (Fld.isPred f.d = true ∨ f.d = 1736 →
        exec (.barw { f with n := n }) s = .next (s.raise c.w { cause := .illegalOperand, reg := n.toNat }) ∧
        exec (.bar { f with n := n }) s = .next (s.raise c.w { cause := .illegalOperand, reg := n.toNat })))

/-- O47. sysr of a listed register of the access warp or of an execute warp of the team writes its value to a k register when the condition holds, once
what that warp has issued has completed for fflags, amax, mode and retired; sysw writes the fields of tinfo0, tinfo1 and fflags that Table 13.10 lets
be written, and nothing of another listed register; a number that is not listed, or a warp the team has not, raises "illegal operand". cnt writes the
counter of the core's Tender island; park parks the team with its code; ewait writes the finished count once the command it waits for is finished.
(R219, R376, R377, R378, R379, R380.) -/
def Obligations.SystemWords : Prop :=
  ∀ (s : State) (c : Ctx), s.ctx? = some c →
    (∀ (f : SysrF) (n : Nat) (j : Nat) (x : Warp), (Fld.isK f.d = true ∨ f.d = 1736) → f.n.toNat = n → sysListed n = true →
      ((f.w = 7 ∧ j = 0) ∨ (f.w ≠ 7 ∧ j = f.w.toNat + 1)) → c.t.warps[j]? = some x →
      (c.x.cond f.g = false → exec (.sysr f) s = .next (s.retireCtx c)) ∧
      (c.x.cond f.g = true → ((n ≠ 4 ∧ n ≠ 5 ∧ n ≠ 6 ∧ n ≠ 12) ∨ s.quiet ⟨c.w.team, j⟩ = true) →
        ∃ v : Word, exec (.sysr f) s = .next (s.retireCtx { c with x := c.x.writeK f.d v }) ∧
          (n < 4 → v = vget x.tinfo n 0) ∧ (n = 4 → v = if j = 0 then 0 else x.fflags) ∧ (n = 5 → v = if j = 0 then 0 else x.amax) ∧
          (n = 6 → v = if x.matrix then 1 else 0) ∧ (n = 7 → v = word (if j = 0 then 64 else x.v.length)) ∧ (n = 8 → v = c.t.lod.events.setWidth 64) ∧
          (n = 9 → v = c.t.lod.ns.setWidth 64) ∧ (n = 10 → v = c.t.lod.qfull.setWidth 64) ∧ (n = 11 → v = c.t.lod.pend.setWidth 64) ∧
          (n = 12 → v = x.retired) ∧ (n = 13 → v = word (c.t.num * 2 ^ 32 + c.t.core * 2 ^ 16)) ∧ (n = 14 → v = word (s.blockOf c).shm) ∧
          (0x010 ≤ n → n < 0x020 → v = (vget c.t.eseq (n - 0x010) 0).setWidth 64) ∧ (0x020 ≤ n → v = (vget c.t.edone (n - 0x020) 0).setWidth 64))) ∧
    (∀ (f : SysrF), (Fld.isK f.d = true ∨ f.d = 1736) → sysListed f.n.toNat = false →
      exec (.sysr f) s = .next (s.raise c.w { cause := .illegalOperand, reg := f.n.toNat })) ∧
    (∀ (f : SysrF), (Fld.isK f.d = true ∨ f.d = 1736) → sysListed f.n.toNat = true → f.w ≠ 7 → c.t.warps[f.w.toNat + 1]? = none →
      exec (.sysr f) s = .next (s.raise c.w { cause := .illegalOperand, reg := f.w.toNat })) ∧
    (∀ (f : SyswF), Fld.isK f.a = true → sysListed f.n.toNat = true → f.w ≠ 7 → c.t.warps[f.w.toNat + 1]? = none →
      exec (.sysw f) s = .next (s.raise c.w { cause := .illegalOperand, reg := f.w.toNat })) ∧
    (∀ (f : SyswF) (n j : Nat) (x : Warp), Fld.isK f.a = true → f.n.toNat = n → sysListed n = true → ((f.w = 7 ∧ j = 0) ∨ (f.w ≠ 7 ∧ j = f.w.toNat + 1)) →
      c.t.warps[j]? = some x →
      let v := vget c.x.k (f.a.toNat - 1664) 0
      (c.x.cond f.g = false → exec (.sysw f) s = .next (s.retireCtx c)) ∧
      (c.x.cond f.g = true → ∃ t y, exec (.sysw f) s = .next t ∧ retiredIn c t ∧ t.warp? ⟨c.w.team, j⟩ = some y ∧ y.v = x.v ∧ y.k = x.k ∧ y.a = x.a ∧ y.p = x.p ∧
        (n = 0 → vget y.tinfo 0 0 = (vget x.tinfo 0 0 &&& ~~~0x0000000ffe800000#64) ||| (v &&& 0x0000000ffe800000#64)) ∧
        (n = 1 → vget y.tinfo 1 0 = (vget x.tinfo 1 0 &&& ~~~0x00000000ffffffff#64) ||| (v &&& 0x00000000ffffffff#64)) ∧
        (n = 4 → j ≠ 0 → y.fflags = (x.fflags &&& ~~~0x3f#64) ||| (v &&& 0x3f#64)) ∧ (n ≠ 4 ∨ j = 0 → y.fflags = x.fflags) ∧
        (n ≠ 0 → vget y.tinfo 0 0 = vget x.tinfo 0 0) ∧ (n ≠ 1 → vget y.tinfo 1 0 = vget x.tinfo 1 0) ∧
        vget y.tinfo 2 0 = vget x.tinfo 2 0 ∧ vget y.tinfo 3 0 = vget x.tinfo 3 0 ∧ y.amax = x.amax ∧ y.matrix = x.matrix ∧ s.sameUnits t)) ∧
    (∀ (f : SyswF), Fld.isK f.a = true → sysListed f.n.toNat = false → exec (.sysw f) s = .next (s.raise c.w { cause := .illegalOperand, reg := f.n.toNat })) ∧
    (∀ f : CntF, (f.sync = false ∨ s.quiet c.w = true) → c.x.cond f.g = true →
      let v := (s.island (6 * c.t.core)).count
      (Fld.isK f.d = true ∨ f.d = 1736 → exec (.cnt f) s = .next (s.retireCtx { c with x := c.x.writeK f.d v })) ∧
      (f.d.toNat < 64 → ∃ X : Image, exec (.cnt f) s = .next (s.retireCtx { c with x := { c.x with a := vset c.x.a f.d.toNat X } }) ∧
        ∀ j < 32, lane X j = if mbit (c.x.active f.g) j then v else lane (vget c.x.a f.d.toNat 0) j)) ∧
    (∀ f : CntF, c.x.cond f.g = false → (Fld.isK f.d = true ∨ f.d = 1736 ∨ f.d.toNat < 64) → exec (.cnt f) s = .next (s.retireCtx c)) ∧
    (∀ f : AF, c.x.count ≤ c.x.slot + 1 → Fld.isK f.a = true → s.quiet c.w = true →
      (c.x.cond f.g = false → exec (.park f) s = .next (s.retireCtx c)) ∧
      (c.x.cond f.g = true → ∃ t u, exec (.park f) s = .next t ∧ t.team? c.w.team = some u ∧ retiredIn c t ∧
        u.st = (if c.t.st = .resident then .parked else c.t.st) ∧
        u.parks = c.t.parks ++ [{ reason := 3, fid := 0, code := vget c.x.k (f.a.toNat - 1664) 0 }])) ∧
    (∀ f : EwaitF, (Fld.isK f.d = true ∨ f.d = 1736) → Fld.isK f.a = true →
      let want : BitVec 32 := (vget c.x.k (f.a.toNat - 1664) 0).truncate 32
      let ahead := (want - vget c.t.eseq f.e.toNat 0).toNat
      let done := vget c.t.edone f.e.toNat 0
      (1 ≤ ahead → ahead < 2 ^ 31 → exec (.ewait f) s = .next (s.raise c.w { cause := .illegalOperand, reg := f.a.toNat - 1664 })) ∧
      (ahead = 0 ∨ 2 ^ 31 ≤ ahead → c.x.cond f.g = false → exec (.ewait f) s = .next (s.retireCtx c)) ∧
      (ahead = 0 ∨ 2 ^ 31 ≤ ahead → c.x.cond f.g = true → (done - want).toNat < 2 ^ 31 → ∃ t y, exec (.ewait f) s = .next t ∧ t.warp? c.w = some y ∧
        y.retired = c.x.retired + 1 ∧ y.k = (c.x.writeK f.d (done.setWidth 64)).k ∧ y.a = c.x.a ∧ t.mem.ram = s.mem.ram) ∧
      (ahead = 0 ∨ 2 ^ 31 ≤ ahead → c.x.cond f.g = true → 2 ^ 31 ≤ (done - want).toNat → exec (.ewait f) s = .next (s.stallWarp c.w (.command f.e.toNat want))))

/-- O48. A supply out of range or the temperature's stop threshold stops every island with its cause, and the device is as at a cold reset. A cap written
is held between 600 and 1800 W; once the average is above the cap and until it is below it the busy octet in S0 of lowest number moves to S1, and 5 %
below it the one held first returns. At the hold threshold every octet in S0 moves to S1 and the therm bit is set, which stays until THERM_CLEAR; the
release gives the busy ones back. The effective tolerance is the least of the device's and those of the classes present. In stage Running (log 125) an
island idle for four times a state's exit latency enters the deepest state that the tolerance accepts; in S3 a memory island loses its L1, once what
was written there is on its way home, with what the core has cached of translations and code. A request wakes an island, its idle time standing, and
its counter does not go back when it has woken. What the device holds while stopped (log 10) and the average power as the event's argument, one octet
for each event (log 68), are the model's readings. (R14, R15, R16, R17, R18, R19, R20, R22, R23, R26, R29.) -/
def Obligations.PowerEvents : Prop :=
  ∀ s : State,
    (∃ t, exec .supplyUndervoltage s = .next t ∧ t.mgmt.stage = .stopped ∧ t.mgmt.cause = 1 ∧ t.mgmt.supplyOk = false ∧ (∀ n < 512, (t.island n).st = .s3) ∧
      t.mem.ram = s.mem.ram ∧ t.hm = State.reset.hm ∧ t.mgmt.minSvn = s.mgmt.minSvn) ∧
    (∃ t, exec .supplyOvervoltage s = .next t ∧ t.mgmt.stage = .stopped ∧ t.mgmt.cause = 2 ∧ t.mgmt.supplyOk = false ∧ (∀ n < 512, (t.island n).st = .s3) ∧
      t.mem.ram = s.mem.ram ∧ t.hm = State.reset.hm) ∧
    (∃ t, exec .thermalStop s = .next t ∧ t.mgmt.stage = .stopped ∧ t.mgmt.cause = 3 ∧ t.mgmt.supplyOk = s.mgmt.supplyOk ∧ (∀ n < 512, (t.island n).st = .s3) ∧
      t.mem.ram = s.mem.ram ∧ t.hm = State.reset.hm) ∧
    (∀ v : Word, ∃ t, exec (.powerCapWrite v) s = .next t ∧ 600 ≤ t.mgmt.capW.toNat ∧ t.mgmt.capW.toNat ≤ 1800 ∧
      (600 ≤ fieldOf v 0 16 → fieldOf v 0 16 ≤ 1800 → t.mgmt.capW.toNat = fieldOf v 0 16) ∧ t = { s with mgmt := { s.mgmt with capW := t.mgmt.capW } }) ∧
    (∀ w, w < s.mgmt.capW.toNat ∨ (w = s.mgmt.capW.toNat ∧ s.mgmt.capping = false) →
      exec (.powerCapStepDown w) s = .next { s with mgmt := { s.mgmt with capping := false } }) ∧
    (∀ w n, s.mgmt.capW.toNat < w ∨ (w = s.mgmt.capW.toNat ∧ s.mgmt.capping = true) → isOctet n = true → (s.island n).st = .s0 → n ∉ s.mgmt.capHeld → s.busy n = true →
      ∃ t, ∃ m ≤ n, exec (.powerCapStepDown w) s = .next t ∧ isOctet m = true ∧ (s.island m).st = .s0 ∧ s.busy m = true ∧ (t.island m).st = .s1 ∧
        t.mgmt.capping = true ∧ t.mgmt.capHeld = s.mgmt.capHeld ++ [m] ∧ (∀ k, k ≠ m → t.island k = s.island k) ∧ t.mem = s.mem ∧ t.hm = s.hm) ∧
    (∀ w n r, w * 100 ≤ s.mgmt.capW.toNat * 95 → s.mgmt.capHeld = n :: r → n ∉ r → s.mgmt.thermHold = false → isOctet n = true → (s.island n).st = .s1 →
      ∃ t, exec (.powerCapStepUp w) s = .next t ∧ t.mgmt.capHeld = r ∧ (t.island n).st = .s0 ∧ (∀ k, k ≠ n → t.island k = s.island k) ∧ t.mem = s.mem ∧ t.hm = s.hm) ∧
    (∀ w, w < s.mgmt.capW.toNat → ∃ t, exec (.powerCapStepUp w) s = .next t ∧ t.mgmt.capping = false) ∧
    (∀ w, s.mgmt.capW.toNat * 95 < w * 100 → ∃ t, exec (.powerCapStepUp w) s = .next t ∧ t = { s with mgmt := { s.mgmt with capping := t.mgmt.capping } }) ∧
    (∃ t, exec .thermalHold s = .next t ∧ t.mgmt.therm = true ∧ t.mgmt.thermHold = true ∧
      (∀ n, isOctet n = true → (t.island n).st = (if (s.island n).st = .s0 then .s1 else (s.island n).st) ∧ (t.island n).count = (s.island n).count) ∧
      (∀ n, isOctet n = false → t.island n = s.island n) ∧ t.mem = s.mem ∧ t.hm = s.hm) ∧
    (∃ t, exec .thermalRelease s = .next t ∧ t.mgmt.thermHold = false ∧ t.mgmt.therm = s.mgmt.therm ∧
      (∀ n, isOctet n = true → (t.island n).st = if (s.island n).st = .s1 ∧ s.busy n = true ∧ n ∉ s.mgmt.capHeld then .s0 else (s.island n).st) ∧
      (∀ n, isOctet n = false → t.island n = s.island n) ∧ t.mem = s.mem ∧ t.hm = s.hm) ∧
    (exec .thermClear s = .next { s with mgmt := { s.mgmt with therm := false } }) ∧
    (∃ t, exec .toleranceRecompute s = .next t ∧ t.mem = s.mem ∧ t.hm = s.hm ∧ t.mgmt = { s.mgmt with eff := t.mgmt.eff } ∧ t.mgmt.eff ≤ s.mgmt.devTol ∧
      (∀ c < 8, s.classPresent c = true → t.mgmt.eff ≤ vget s.mgmt.clsTol c 0) ∧
      (t.mgmt.eff = s.mgmt.devTol ∨ ∃ c < 8, s.classPresent c = true ∧ t.mgmt.eff = vget s.mgmt.clsTol c 0) ∧
      ∀ n < 512, (t.island n).st = (s.island n).st ∧ (t.island n).count = (s.island n).count ∧
        (s.mgmt.stage = .running → (s.island n).wake = none → t.mgmt.eff.toNat < (s.island n).st.latency → s.held n = false →
          (t.island n).wake = some (deepestWithin t.mgmt.eff.toNat)) ∧
        ((s.island n).st.latency ≤ t.mgmt.eff.toNat → (t.island n).wake = (s.island n).wake)) ∧
    (∀ n, n < 512 → s.mgmt.stage = .running → s.busy n = false → (s.island n).wake = none → (s.island n).st.depth < (deepestWithin s.mgmt.eff.toNat).depth →
      4 * (deepestWithin s.mgmt.eff.toNat).latency ≤ (s.island n).idle →
      ∃ t, exec (.islandIdleEntry n) s = .next t ∧ (t.island n).st = deepestWithin s.mgmt.eff.toNat ∧ (t.island n).count = (s.island n).count ∧
        (∀ k, k ≠ n → t.island k = s.island k) ∧ t.mem.ram = s.mem.ram ∧ { t.hm with blocks := s.hm.blocks } = s.hm ∧
        (isMemIsland n = false ∨ deepestWithin s.mgmt.eff.toNat ≠ .s3 → t.hm = s.hm) ∧
        (n < 384 → n % 6 = 0 → deepestWithin s.mgmt.eff.toNat = .s3 → (t.core (n / 6)).tlb = [] ∧ (t.core (n / 6)).walks = [] ∧ (t.core (n / 6)).codes = []) ∧
        (isMemIsland n = true → deepestWithin s.mgmt.eff.toNat = .s3 → (t.core (n / 6)).l1 = [] ∧ (t.core (n / 6)).tlb = [] ∧ (t.core (n / 6)).walks = [] ∧
          (t.core (n / 6)).codes = [] ∧ (∀ b ∈ s.hm.blocks, s.hasRegion b (n / 6) = false → b ∈ t.hm.blocks) ∧
          ∀ ln i, i < 128 → ((s.core (n / 6)).line ln).dirty.getLsbD i = true →
            ∃ tok parts p w, SliceReq.store (n / 6) tok parts p w ∈ (t.slice (sliceOf ln)).queue ∧ (ln + i, ((s.core (n / 6)).line ln).byte (ln + i)) ∈ parts.flatten)) ∧
    (∀ n, n < 512 → (s.mgmt.stage ≠ .running ∨ s.busy n = true ∨ (s.island n).idle < 4 * (deepestWithin s.mgmt.eff.toNat).latency) → exec (.islandIdleEntry n) s = .next s) ∧
    (∀ n, n < 512 → (s.island n).wake = none → s.mgmt.stage = .running → (if s.held n then 1 else 0) < (s.island n).st.depth →
      ∃ t, exec (.islandWake n) s = .next t ∧ (t.island n).wake = some (if s.held n then .s1 else .s0) ∧ (t.island n).st = (s.island n).st ∧ (t.island n).idle = (s.island n).idle ∧
        (t.island n).count = (s.island n).count ∧ (∀ k, k ≠ n → t.island k = s.island k) ∧ t.mem = s.mem ∧ t.hm = s.hm) ∧
    (∀ n i, n < 512 → (s.island n).wake = some i → ∃ t, exec (.islandWakeComplete n) s = .next t ∧
      (t.island n).st = (if s.held n = true ∧ i = .s0 then .s1 else i) ∧ (t.island n).wake = none ∧ (t.island n).idle = (s.island n).idle ∧ (∀ k, k ≠ n → t.island k = s.island k) ∧
      ((s.island n).st ≠ .s3 → (t.island n).count = (s.island n).count) ∧
      ((s.island n).count.toNat < 2 ^ 64 - 1 → (s.island n).count ≤ (t.island n).count) ∧ t.mem = s.mem ∧ t.hm = s.hm)

/-- O49. A cold reset, or the supply's return, starts bring-up at step 1 with everything but the fuses, the flash and home memory as at reset; a device
reset starts it at step 2 and lets no counter go back. The steps of bring-up follow each other: step 3 starts an image that passes its checks, or ends
in Recovery with the cause; step 4 derives its keys; step 5 clears memory, or ends in Recovery with cause 6; steps 6 and 7 power the slices' islands
and the cores', an octet under the thermal hold to S1; step 8 puts the device in stage Running. A function-level reset of the PF discards every task
and team and sets every area to its reset value, that of a VF its own; every reset erases a flash slot that is loading. What the L1s hold written
reaches home memory before a function-level reset of the PF empties them. (That the cause of the last stop is kept over a reset is the model's choice,
log entry 27; no clause here says so. That home memory keeps its bytes over a cold reset, log 4, what the islands and the TLBs hold at reset, logs 5
and 9, and that a function-level reset of the PF empties the TLBs, log 84, are the model's choices too.) (R14, R27, R28, R33, R34, R91.) -/
def Obligations.ResetEvents : Prop :=
  ∀ s : State,
    (s.mgmt.supplyOk = true → ∃ t, exec .coldReset s = .next t ∧ t.mgmt.stage = .rom ∧ t.mgmt.step = some 1 ∧ t.mgmt.cold = true ∧ t.hm = State.reset.hm ∧
      t.areas = State.reset.areas ∧ t.cores = State.reset.cores ∧ t.slices = State.reset.slices ∧ t.links = State.reset.links ∧ t.islands = State.reset.islands ∧
      t.cur = none ∧ t.mgmt.minSvn = s.mgmt.minSvn ∧ t.mgmt.revoked0 = s.mgmt.revoked0 ∧ t.mgmt.capW = 1800 ∧ t.mem.ram = s.mem.ram) ∧
    (s.mgmt.supplyOk = false → exec .coldReset s = .next s ∧ ∃ t, exec .supplyRestored s = .next t ∧ t.mgmt.stage = .rom ∧ t.mgmt.step = some 1 ∧ t.mgmt.supplyOk = true ∧
      t.hm = State.reset.hm ∧ t.areas = State.reset.areas ∧ t.cores = State.reset.cores ∧ t.islands = State.reset.islands) ∧
    (s.mgmt.supplyOk = true → exec .supplyRestored s = .next s) ∧
    (s.mgmt.stage ≠ .stopped → ∃ t, exec .deviceReset s = .next t ∧ t.mgmt.stage = .rom ∧ t.mgmt.step = some 2 ∧ t.mgmt.cold = false ∧ t.mgmt.count = s.mgmt.count ∧
      t.hm = State.reset.hm ∧ t.areas = State.reset.areas ∧ t.cores = State.reset.cores ∧ t.slices = State.reset.slices ∧ t.links = State.reset.links ∧
      (∀ n < 512, (t.island n).st = .s3 ∧ (t.island n).count = (s.island n).count) ∧ t.mgmt.thermHold = s.mgmt.thermHold ∧ t.mgmt.minSvn = s.mgmt.minSvn ∧ t.mem.ram = s.mem.ram) ∧
    (s.mgmt.stage = .stopped → exec .deviceReset s = .next s) ∧
    (∀ ok, s.mgmt.step = none → exec (.bringupStep ok) s = .next s) ∧
    (∀ ok, ∀ n : Nat, s.mgmt.step = some n → ∃ t, exec (.bringupStep ok) s = .next t ∧ t.hm = s.hm ∧ t.areas = s.areas ∧ t.mgmt.minSvn = s.mgmt.minSvn ∧
      (n = 1 ∨ n = 2 → t = { s with mgmt := { s.mgmt with step := some (n + 1) } }) ∧
      (n = 3 → ∀ (i : Nat) (m : Measured), s.mgmt.checkSlot 0 = .ok m ∧ i = 0 ∨ (∃ e, s.mgmt.checkSlot 0 = .error e) ∧ s.mgmt.checkSlot 1 = .ok m ∧ i = 1 →
        t.mgmt.step = some 4 ∧ ∃ g, t.mgmt.image = some g ∧ g.slot = i ∧ g.svn = m.svn ∧ g.fwmeas = m.fwmeas) ∧
      (n = 3 → ∀ e d : Nat, s.mgmt.checkSlot 0 = .error d → s.mgmt.checkSlot 1 = .error e →
        t.mgmt.stage = .recovery ∧ t.mgmt.step = none ∧ t.mgmt.cause = BitVec.ofNat 8 e) ∧
      (n = 4 → t.mgmt.stage = .firmware ∧ t.mgmt.step = some 5 ∧ ∀ g : RunningImage, s.mgmt.image = some g →
        t.mgmt.image = some { g with aliasSeed := aliasSeedOf g.fwmeas, aliasCert := aliasCertOf g.fwmeas g.svn }) ∧
      (n = 5 → ok = true → t.mgmt.step = some 6 ∧ (∀ a, readCell t.mem.ram.cells a = 0) ∧ t.mem.ram.poison = []) ∧
      (n = 5 → ok = false → t.mgmt.stage = .recovery ∧ t.mgmt.step = none ∧ t.mgmt.cause = 6) ∧
      (n = 6 → t.mgmt.step = some 7 ∧ (∀ m, 384 ≤ m → m < 512 → (t.island m).st = .s0) ∧ (∀ m < 384, t.island m = s.island m) ∧ (∀ m < 128, t.slice m = Slice.reset) ∧
        t.mem.tide = none) ∧
      (n = 7 → t.mgmt.step = some 8 ∧ (∀ m < 384, (t.island m).st = if s.held m then .s1 else .s0) ∧ (∀ m, 384 ≤ m → t.island m = s.island m) ∧ ∀ m < 64, t.core m = Core.reset) ∧
      (n = 8 → t = { s with mgmt := { s.mgmt with stage := .running, step := none } })) ∧
    (∃ t, exec .pfFunctionLevelReset s = .next t ∧ t.hm.tasks = [] ∧ t.hm.leases = [] ∧
      (∀ k ∈ s.hm.tasks, (∀ x ∈ t.hm.teams, x.task ≠ k.id) ∧ ∀ b ∈ t.hm.blocks, b.task ≠ k.id) ∧ (∀ a < 80, t.area a = Area.reset) ∧
      (∀ c < 64, (t.core c).l1 = [] ∧ (t.core c).tlb = []) ∧ (∀ n < 128, t.slice n = Slice.reset) ∧ t.mgmt.stage = s.mgmt.stage ∧ t.mgmt.count = s.mgmt.count ∧
      t.mgmt.devTol = 0 ∧ t.mgmt.capW = 1800 ∧ t.links.apEn = false ∧ t.links.domEn = false ∧ t.mem.asEn = false ∧ t.mem.tide = none ∧ t.islands = s.islands ∧
      let s1 := ((s.discardTasks fun _ => true).resetAreas fun _ => true).dropReader fun _ => true
      s1.mem.ram.wf = true → (∀ m < 64, ((s1.core m).l1.map (·.pa)).Nodup) → ∀ n < 64, ∀ ln i, i < 128 → ((s1.core n).line ln).dirty.getLsbD i = true →
        (∀ m < 64, ∀ ln' i', i' < 128 → ln' + i' = ln + i → ((s1.core m).line ln').dirty.getLsbD i' = true → m = n ∧ ln' = ln) →
        (∀ k < 128, ∀ core tok parts p w, SliceReq.store core tok parts p w ∈ (s1.slice k).queue → ∀ x ∈ parts.flatten, x.1 ≠ ln + i) →
        readCell t.mem.ram.cells (ln + i) = ((s1.core n).line ln).byte (ln + i)) ∧
    (∀ vf, 1 ≤ vf → vf ≤ 16 → (s.hm.tasks.map (·.id)).Nodup → (s.hm.teams.map (·.num)).Nodup → ∃ t, exec (.vfFunctionLevelReset vf) s = .next t ∧ t.hm.tasks = s.hm.tasks.filter (fun k => areaFn k.area != .vf vf) ∧
      (∀ a < 80, t.area a = if areaFn a = .vf vf then Area.reset else s.area a) ∧ t.hm.leases = s.hm.leases.filter (fun l => areaFn l.area != .vf vf) ∧ t.mgmt = { s.mgmt with slots := s.mgmt.slots.map FlashSlot.onReset } ∧
      (∀ w ∈ t.links.apWrites, w.fn ≠ .vf vf) ∧ (∀ x ∈ t.hm.conts, areaFn x.1 ≠ .vf vf))

/-- O50. While no command runs, a command in a stage that its row lists and with no unused bit set starts, and MAILBOX_COMMAND_DONE publishes its error,
its length and its bytes and counts it. READ_IDENTITY_CERTIFICATE, READ_ALIAS_CERTIFICATE, READ_CONFIGURATION and ATTEST give their structures,
RAISE_FUSE_SVN raises the minimum version to the running image's and never lowers it, IMAGE_BEGIN erases a slot, IMAGE_CHUNK writes the buffer's bytes
at an offset, IMAGE_COMMIT makes a whole image that passes its checks valid and erases one that does not. Every command in another stage ends with
error 5, with an unused bit set with error 4, and written while another runs is discarded with error 2; in stages Rom and Stopped it is ignored;
IMAGE_BEGIN of the running slot ends with error 5, one of an image too small or too large, IMAGE_CHUNK with no slot loading or past its end and
IMAGE_COMMIT of an image not whole with error 4; an unlisted code ends with error 1. That a result is formed when the command starts and the stage is
checked before the arguments (log 67), and error 1 of an unlisted code with bits [15:8] set (log 126), are the model's readings. A read of BAR0
returns the fields of its register at their bits, and zero at write-only and reserved bits and at offsets that no table lists; a VF reads its own
areas, its busy bit and the status register. (R7, R8, R24, R29, R33, R37, R38, R39, R40, R41, R42, R71.) -/
def Obligations.MailboxEvents : Prop :=
  ∀ (s : State) (w : Word),
    (s.mgmt.mbRun = none → fieldOf w 8 8 = 0 → mbArg0 w = 0 → mbArg1 w = 0 →
      (mbCode w = 1 → inStages [.firmware, .running, .recovery] s = true →
        exec (.readIdentityCertificate w) s = .next { s with mgmt := { s.mgmt with mbRun := some { error := 0, out := identityCert } } }) ∧
      (mbCode w = 2 → inStages [.firmware, .running] s = true → ∀ g : RunningImage, s.mgmt.image = some g →
        exec (.readAliasCertificate w) s = .next { s with mgmt := { s.mgmt with mbRun := some { error := 0, out := g.aliasCert } } }) ∧
      (mbCode w = 3 → inStages [.firmware, .running] s = true → ∀ g : RunningImage, s.mgmt.image = some g →
        exec (.attest w) s = .next { s with mgmt := { s.mgmt with mbRun := some { error := 0, out := s.mgmt.report g (s.mgmt.mbBuf.toList.take 32) } } }) ∧
      (mbCode w = 4 → inStages [.running] s = true → ∀ g : RunningImage, s.mgmt.image = some g → ∃ t, exec (.raiseFuseSvn w) s = .next t ∧
        t = { s with mgmt := { s.mgmt with minSvn := t.mgmt.minSvn, mbRun := some { error := 0, out := [] } } } ∧
        t.mgmt.minSvn.toNat = max s.mgmt.minSvn.toNat g.svn.toNat) ∧
      (mbCode w = 5 → inStages [.firmware, .running, .recovery] s = true →
        exec (.readConfiguration w) s = .next { s with mgmt := { s.mgmt with mbRun := some { error := 0, out := s.mgmt.fuseRecord ++ configTable } } })) ∧
    (s.mgmt.mbRun = none → fieldOf w 8 8 = 0 → inStages [.running, .recovery] s = true →
      (mbCode w = 0x10 → mbArg0 w < 2 → 4352 ≤ mbArg1 w → mbArg1 w ≤ 50331904 → (s.mgmt.stage = .running → (s.mgmt.image.map (·.slot)) ≠ some (mbArg0 w)) →
        ∃ t, exec (.imageBegin w) s = .next t ∧ t.mgmt.mbRun = some { error := 0, out := [] } ∧ t.flash (mbArg0 w) = { st := .loading (mbArg1 w), bytes := [], written := [] } ∧
          t.flash (1 - mbArg0 w) = (if (s.flash (1 - mbArg0 w)).loads = true then FlashSlot.empty else s.flash (1 - mbArg0 w)) ∧
          t = { s with mgmt := { s.mgmt with slots := t.mgmt.slots, mbRun := t.mgmt.mbRun } }) ∧
      (mbCode w = 0x11 → mbArg0 w < 1024 → ∀ i n : Nat, s.loadingSlot = some i → (s.flash i).st = .loading n → mbArg1 w + (mbArg0 w + 1) ≤ n →
        ∃ t, exec (.imageChunk w) s = .next t ∧ t.mgmt.mbRun = some { error := 0, out := [] } ∧ (t.flash i).st = .loading n ∧
          ((s.flash i).bytes.Pairwise (fun a b => a.1 < b.1) → ∀ a, readCell (t.flash i).bytes a =
            if mbArg1 w ≤ a ∧ a < mbArg1 w + (mbArg0 w + 1) then vget s.mgmt.mbBuf (a - mbArg1 w) 0 else readCell (s.flash i).bytes a) ∧
          (∀ j, j ≠ i → t.flash j = s.flash j)) ∧
      (mbCode w = 0x12 → mbArg0 w < 2 → mbArg1 w = 0 → ∀ n : Nat, (s.flash (mbArg0 w)).st = .loading n → (s.flash (mbArg0 w)).written = [(0, n)] →
        (∀ m : Measured, s.mgmt.checkImage (s.flash (mbArg0 w)) = .ok m → ∃ t, exec (.imageCommit w) s = .next t ∧ t.mgmt.mbRun = some { error := 0, out := [] } ∧
          t.flash (mbArg0 w) = { s.flash (mbArg0 w) with st := .valid n } ∧ t.flash (1 - mbArg0 w) = s.flash (1 - mbArg0 w)) ∧
        (∀ e : Nat, s.mgmt.checkImage (s.flash (mbArg0 w)) = .error e → ∃ t, exec (.imageCommit w) s = .next t ∧
          t.mgmt.mbRun = some { error := 3, out := leBytes 1 e } ∧ t.flash (mbArg0 w) = FlashSlot.empty ∧ t.flash (1 - mbArg0 w) = s.flash (1 - mbArg0 w)))) ∧
    (mbCode w ∉ mbCodes → s.mgmt.stage ≠ .rom → s.mgmt.stage ≠ .stopped →
      (s.mgmt.mbRun = none → exec (.mailboxBadCode w) s = .next { s with mgmt := { s.mgmt with mbRun := some { error := 1, out := [] } } }) ∧
      (s.mgmt.mbRun ≠ none → exec (.mailboxBadCode w) s = .next { s with mgmt := { s.mgmt with mbError := 2 } })) ∧
    (∀ i code ss unused, mbRow w i code ss unused → mbCode w = code →
      let ends (e : Nat) : Prop := exec i s = .next { s with mgmt := { s.mgmt with mbRun := some { error := e, out := [] } } }
      (s.mgmt.stage = .rom ∨ s.mgmt.stage = .stopped → exec i s = .next s) ∧
      (s.mgmt.mbRun ≠ none → s.mgmt.stage ≠ .rom → s.mgmt.stage ≠ .stopped → exec i s = .next { s with mgmt := { s.mgmt with mbError := 2 } }) ∧
      (s.mgmt.mbRun = none → s.mgmt.stage ≠ .rom → s.mgmt.stage ≠ .stopped → s.mgmt.stage ∉ ss → ends 5) ∧
      (s.mgmt.mbRun = none → s.mgmt.stage ∈ ss → fieldOf w 8 8 ≠ 0 ∨ unused = true → ends 4) ∧
      (s.mgmt.mbRun = none → s.mgmt.stage ∈ ss → fieldOf w 8 8 = 0 → unused = false →
        (code = 0x10 → s.mgmt.stage = .running → (s.mgmt.image.map (·.slot)) = some (mbArg0 w) → ends 5) ∧
        (code = 0x10 → ¬ (s.mgmt.stage = .running ∧ (s.mgmt.image.map (·.slot)) = some (mbArg0 w)) → mbArg1 w < 4352 ∨ 50331904 < mbArg1 w → ends 4) ∧
        (code = 0x11 → (s.loadingSlot = none ∨ ∃ k n, s.loadingSlot = some k ∧ (s.flash k).st = .loading n ∧ n < mbArg1 w + (mbArg0 w + 1)) → ends 4) ∧
        (code = 0x12 → (∀ n, (s.flash (mbArg0 w)).st = .loading n → (s.flash (mbArg0 w)).written ≠ [(0, n)]) → ends 4))) ∧
    (∀ r : MailboxRun, s.mgmt.mbRun = some r → ∃ t, exec .mailboxCommandDone s = .next t ∧ t.mgmt.mbRun = none ∧ t.mgmt.mbDone = s.mgmt.mbDone + 1 ∧
      t.mgmt.mbError = BitVec.ofNat 4 r.error ∧ t.mgmt.mbLen = BitVec.ofNat 16 r.out.length ∧
      (∀ i < 1024, vget t.mgmt.mbBuf i 0 = (r.out[i]?).getD (vget s.mgmt.mbBuf i 0)) ∧
      t = { s with mgmt := { s.mgmt with mbRun := none, mbDone := t.mgmt.mbDone, mbError := t.mgmt.mbError, mbLen := t.mgmt.mbLen, mbBuf := t.mgmt.mbBuf } }) ∧
    (s.mgmt.mbRun = none → exec .mailboxCommandDone s = .next s) ∧
    -- reads of BAR0: bit by bit
    (let bits (v : Word) (lo n x : Nat) : Prop := fieldOf v lo n = x;
      let st := s.regRead .pf 0;
      bits st 40 24 0 ∧ bits st 32 8 s.mgmt.cause.toNat ∧ bits st 16 16 0 ∧ bits st 15 1 (if s.mgmt.therm = true then 1 else 0) ∧ bits st 3 12 0 ∧
        bits st 0 3 (match s.mgmt.stage with | .rom => 0 | .firmware => 1 | .running => 2 | .recovery => 3 | .stopped => 4) ∧
      (∀ n < 17, 1 ≤ n → s.regRead (.vf n) 0xf010 = st) ∧
      (∀ n < 16, ∀ j < 32, bits (s.regRead .pf (0x10100 + 8 * n)) (2 * j) 2
        (match (s.island (32 * n + j)).st with | .s0 => 0 | .s1 => 1 | .s2 => 2 | .s3 => 3)) ∧
      (let m := s.regRead .pf 0x20008;
        bits m 32 32 0 ∧ bits m 16 16 s.mgmt.mbLen.toNat ∧ bits m 8 8 s.mgmt.mbDone.toNat ∧ bits m 4 4 s.mgmt.mbError.toNat ∧ bits m 1 3 0 ∧
          bits m 0 1 (if s.mgmt.mbRun.isSome = true then 1 else 0)) ∧
      (∀ n < 128, ∀ j < 8, bits (s.regRead .pf (0x20100 + 8 * n)) (8 * j) 8 (vget s.mgmt.mbBuf (8 * n + j) 0).toNat) ∧
      (∀ off ∈ [0x20000, 0x4f000, 0x60020, 0x60028], s.regRead .pf off = 0) ∧
      (∀ fn off, (fn = .pf ∧ off = 0x50030) ∨ (∃ n, 1 ≤ n ∧ n ≤ 16 ∧ fn = .vf n ∧ off = 0xf008) →
        s.regRead fn off = if ∃ r ∈ s.hm.ctl, r.fn = fn then 0x100 else 0) ∧
      (∀ a < 80, ∀ (fn : Fn) (base : Nat), (fn = .pf ∧ base = (if a < 16 then 0x40000 + 0x40 * a else 0x41000 + 0x40 * (a - 16))) ∨
          (∃ n, 1 ≤ n ∧ n ≤ 16 ∧ fn = .vf n ∧ a = 16 + 4 * (n - 1) + base / 0x40 ∧ base % 0x40 = 0 ∧ base < 0x100) →
        let x := s.area a
        let c := s.regRead fn (base + 0x18);
        (∀ z ∈ [(s.regRead fn base, x.subVa, x.subSize), (s.regRead fn (base + 0x20), x.cplVa, x.cplSize)],
          bits z.1 52 12 0 ∧ bits z.1 12 40 z.2.1.toNat ∧ bits z.1 4 8 0 ∧ bits z.1 0 4 z.2.2.toNat) ∧
        s.regRead fn (base + 0x08) = x.subTail.setWidth 64 ∧ s.regRead fn (base + 0x10) = x.subHead.setWidth 64 ∧
        s.regRead fn (base + 0x28) = x.cplTail.setWidth 64 ∧ s.regRead fn (base + 0x30) = x.cplHead.setWidth 64 ∧
        bits c 41 23 0 ∧ bits c 40 1 (if x.halted = true then 1 else 0) ∧ bits c 32 8 x.err.toNat ∧ bits c 28 4 0 ∧ bits c 16 12 x.asid.toNat ∧ bits c 14 2 0 ∧
          bits c 8 6 x.vec.toNat ∧ bits c 4 4 x.pcap.toNat ∧ bits c 2 2 0 ∧ bits c 1 1 (if x.irq = true then 1 else 0) ∧ bits c 0 1 (if x.en = true then 1 else 0) ∧
        bits (s.regRead fn (base + 0x38)) 52 12 x.leaseCnt.toNat ∧ bits (s.regRead fn (base + 0x38)) 6 46 x.leaseVa.toNat ∧ bits (s.regRead fn (base + 0x38)) 0 6 0) ∧
      (∀ fn off, off % 8 ≠ 0 → s.regRead fn off = 0) ∧ (∀ n off, 0x100 ≤ off → off ≠ 0xf008 → off ≠ 0xf010 → s.regRead (.vf n) off = 0) ∧
      (∀ off, 0x71600 ≤ off → s.regRead .pf off = 0))

/-- O51. A BAR2 access within the window and HBM reads, writes or updates home memory and answers, one within the window that reaches beyond HBM is an
Unsupported Request. A completion, or its timeout, ends an aperture read and brings its load, code line or buffer the bytes or a failed host access.
An ATS reply sends or fails the accesses that wait for its page, and a refusal halts an area whose completion entry waits for it with err 3, the entry
kept; an invalidation drops the translation and is done when no access uses it. In stage Running a port comes up with what it offers; it goes down and
has its packets sent again; a foreign frame is counted. An acknowledgement, a refusal, a reply or the seventh retransmission ends a remote access. A
request of another device is refused or served. A write of the domain register sets its fields. That BAR2 is served in any stage (log 78), the
controller's counter for the timers (log 11), what dom_drop counts (log 47), what a target admits (logs 79 and 119) and the poison that a packet
carries (log 80) are the model's readings. (R47, R48, R50, R53, R54, R56, R58, R60, R61, R73, R176, R177.) -/
def Obligations.LinkEvents : Prop :=
  ∀ s : State,
    (∀ pa len, pa + len ≤ 2 ^ s.links.bar2 → pa + len ≤ 0x6000000000 → ∃ t, ∃ ep : Bool, exec (.hostBar2Read pa len) s = .next t ∧
      { s with sent := .hostReply (readRun s.mem.ram.cells pa len) ep :: s.sent }.onlyTraffic t ∧
      (ep = true ↔ ∃ i < len, s.mem.ram.poisonedAt (pa + i) = true)) ∧
    (∀ pa len, pa + len ≤ 2 ^ s.links.bar2 → 0x6000000000 < pa + len → exec (.hostBar2Read pa len) s = .next { s with sent := .hostUr :: s.sent }) ∧
    (∀ pa (d : List Byte), pa + d.length ≤ 2 ^ s.links.bar2 → pa + d.length ≤ 0x6000000000 → s.mem.ram.wf = true → ∃ t, exec (.hostBar2Write pa d) s = .next t ∧
      (∀ a, readCell t.mem.ram.cells a = if pa ≤ a ∧ a < pa + d.length then d.getD (a - pa) 0 else readCell s.mem.ram.cells a) ∧
      t = { s with slices := t.slices, mem := { s.mem with ram := t.mem.ram, ctr := t.mem.ctr } }) ∧
    (∀ pa (d : List Byte), pa + d.length ≤ 2 ^ s.links.bar2 → 0x6000000000 < pa + d.length → exec (.hostBar2Write pa d) s = .next { s with sent := .hostUr :: s.sent }) ∧
    (∀ (op : HostAtomicOp) pa (x e : Word), pa + 8 ≤ 2 ^ s.links.bar2 → pa % 8 = 0 → pa + 8 ≤ 0x6000000000 → s.mem.ram.poisonedAt pa = false → s.mem.ram.wf = true →
      let old := leNat (readRun s.mem.ram.cells pa 8)
      let new := match op with | .fetchAdd => (old + x.toNat) % 2 ^ 64 | .swap => x.toNat | .cas => if old = e.toNat then x.toNat else old
      ∃ t, exec (.hostAtomic op pa x e) s = .next t ∧ t.sent = .hostReply (leBytes 8 old) false :: s.sent ∧
        (∀ a, readCell t.mem.ram.cells a = if pa ≤ a ∧ a < pa + 8 then (leBytes 8 new).getD (a - pa) 0 else readCell s.mem.ram.cells a) ∧
        t = { s with sent := t.sent, slices := t.slices, mem := { s.mem with ram := t.mem.ram, ctr := t.mem.ctr } }) ∧
    (∀ (op : HostAtomicOp) pa (x e : Word), pa + 8 ≤ 2 ^ s.links.bar2 → pa % 8 = 0 → pa + 8 ≤ 0x6000000000 → s.mem.ram.poisonedAt pa = true →
      ∃ t, exec (.hostAtomic op pa x e) s = .next t ∧ t.sent = .hostReply (readRun s.mem.ram.cells pa 8) true :: s.sent ∧ t.mem.ram = s.mem.ram ∧ t.hm = s.hm) ∧
    (∀ (op : HostAtomicOp) pa (x e : Word), pa + 8 ≤ 2 ^ s.links.bar2 → pa % 8 ≠ 0 ∨ 0x6000000000 < pa + 8 → exec (.hostAtomic op pa x e) s = .next { s with sent := .hostUr :: s.sent }) ∧
    (∀ (tag : Nat) (r : ApRead), s.links.apReads.find? (·.tag == tag) = some r →
      (∀ rd, r.dst = .buf rd →
        (∀ d : List Byte, d.length = r.len → ∃ t, exec (.apertureCompletion tag (.ok d)) s = .next t ∧ (∀ y ∈ t.links.apReads, y.tag ≠ tag) ∧
          t.links.apBuf = s.links.apBuf ++ [{ r := rd, pa := r.pa, len := r.len, data := some d }] ∧ t.mem.ram = s.mem.ram ∧ t.hm = s.hm) ∧
        (∃ t, exec (.apertureCompletion tag .unsupportedRequest) s = .next t ∧ (∀ y ∈ t.links.apReads, y.tag ≠ tag) ∧
          t.links.apBuf = s.links.apBuf ++ [{ r := rd, pa := r.pa, len := r.len, data := none }] ∧ t.mem = s.mem ∧ t.hm = s.hm) ∧
        (50000000 ≤ (s.mgmt.count - r.sent).toNat → ∃ t, exec (.completionTimeout tag) s = .next t ∧ (∀ y ∈ t.links.apReads, y.tag ≠ tag) ∧
          t.links.apBuf = s.links.apBuf ++ [{ r := rd, pa := r.pa, len := r.len, data := none }] ∧ t.mem = s.mem ∧ t.hm = s.hm)) ∧
      (∀ core tok, r.dst = .load core tok → core < 64 → (∀ l ∈ (s.core core).loads, l.tok = tok → l.gather = none) →
        (∀ d : List Byte, d.length = r.len → r.len ≤ 256 → ∃ t, exec (.apertureCompletion tag (.ok d)) s = .next t ∧ (∀ y ∈ t.links.apReads, y.tag ≠ tag) ∧
          (∀ l ∈ (s.core core).loads, l.tok = tok → l.need = (List.range r.len).map (fun i => { pos := i, pa := r.pa + i }) → l.data = 0 →
            ∃ y ∈ (t.core core).loads, y.tok = tok ∧ y.w = l.w ∧ y.need = [] ∧ y.bad = l.bad ∧ ∀ i < r.len, y.data.extractLsb' (8 * i) 8 = d.getD i 0)) ∧
        (50000000 ≤ (s.mgmt.count - r.sent).toNat → ∃ t, exec (.completionTimeout tag) s = .next t ∧ (∀ y ∈ t.links.apReads, y.tag ≠ tag) ∧
          (∀ l ∈ (s.core core).loads, l.tok = tok → ∃ y ∈ (t.core core).loads, y.tok = tok ∧ y.w = l.w ∧
            ∀ n ∈ l.need, r.pa ≤ n.pa → n.pa < r.pa + r.len → (n.pos, Cause.hostAccess) ∈ y.bad))) ∧
      (∀ w va x, r.dst = .code w va → s.warp? w = some x →
        (∀ d : List Byte, d.length = r.len → ∃ t, exec (.apertureCompletion tag (.ok d)) s = .next t ∧ (∀ y ∈ t.links.apReads, y.tag ≠ tag) ∧
          t.warp? w = some { x with code := some { va := va, pa := r.pa, bytes := BitVec.ofNat 1024 (leNat d), poison := 0, fail := false }, stall := none }) ∧
        ∃ t l, exec (.apertureCompletion tag .unsupportedRequest) s = .next t ∧ (∀ y ∈ t.links.apReads, y.tag ≠ tag) ∧
          t.warp? w = some { x with code := some l, stall := none } ∧ l.va = va ∧ l.pa = r.pa ∧ l.fail = true) ∧
      ((s.mgmt.count - r.sent).toNat < 50000000 → exec (.completionTimeout tag) s = .next s)) ∧
    (∀ page : Nat, ∃ t, exec (.atsInvalidation page) s = .next t ∧ page ∉ t.links.atsHeld ∧ (∀ p, p ≠ page → (p ∈ t.links.atsHeld ↔ p ∈ s.links.atsHeld)) ∧
      ((∀ r ∈ s.links.apReads, r.ba / 4096 ≠ page) → .atsDone page ∈ t.sent ∧ page ∉ t.links.atsInv) ∧
      ((∃ r ∈ s.links.apReads, r.ba / 4096 = page) → page ∈ t.links.atsInv) ∧ t.mem = s.mem ∧ t.hm = s.hm) ∧
    (∀ page : Nat, page ∈ s.links.atsAsked →
      ((∀ a < 80, s.cplPage a ≠ some page) → ∃ t, exec (.atsTranslationReply page true) s = .next t ∧ page ∈ t.links.atsHeld ∧ page ∉ t.links.atsAsked ∧ t.mem = s.mem ∧ t.hm = s.hm ∧
        (∀ r ∈ s.links.apQueue, r.ba / 4096 = page →
          .hostRead r.tag r.ba r.len ∈ t.sent ∧ r ∉ t.links.apQueue ∧ ∃ y ∈ t.links.apReads, y.tag = r.tag ∧ y.dst = r.dst) ∧
        ∀ w ∈ s.links.apWrites, w.ba / 4096 = page → .hostWrite w.ba (w.bytes.map (·.2)) ∈ t.sent ∧ w ∉ t.links.apWrites) ∧
      ((∀ r ∈ s.links.apQueue, r.ba / 4096 = page → ∃ rd, r.dst = .buf rd) →
        ∃ t, exec (.atsTranslationReply page false) s = .next t ∧ page ∉ t.links.atsAsked ∧ t.links.atsHeld.length ≤ 1024 ∧
          t.mem.ctr.hostErr = s.mem.ctr.hostErr + word (s.links.apWrites.countP fun w => w.ba / 4096 == page) ∧
          ∀ r ∈ s.links.apQueue, r.ba / 4096 = page → ∃ b ∈ t.links.apBuf, b.pa = r.pa ∧ b.len = r.len ∧ b.data = none) ∧
      (∀ a < 80, s.cplPage a = some page → ∃ t, exec (.atsTranslationReply page false) s = .next t ∧ (t.area a).halted = true ∧ (t.area a).err = 3 ∧
        (t.area a).kept = (s.area a).kept ∧ (t.area a).cplTail = (s.area a).cplTail)) ∧
    (∀ port < 16, ∀ llr credit : Bool, s.mgmt.stage ≠ .running → exec (.portLinkUp port llr credit) s = .next s) ∧
    (∀ port < 16, ∀ llr credit : Bool, s.mgmt.stage = .running → ∃ t, exec (.portLinkUp port llr credit) s = .next t ∧
      vget t.links.ports port EthPort.down = { up := true, llr := llr, credit := credit } ∧
      (∀ q, q ≠ port → vget t.links.ports q EthPort.down = vget s.links.ports q EthPort.down) ∧ t = { s with links := { s.links with ports := t.links.ports } }) ∧
    (∀ port < 16, ∃ t, exec (.portLinkDown port) s = .next t ∧ (vget t.links.ports port EthPort.down).up = false ∧
      (∀ q, q ≠ port → vget t.links.ports q EthPort.down = vget s.links.ports q EthPort.down) ∧ t.mem.ram = s.mem.ram ∧ t.hm = s.hm ∧
      t.links.remotes.map (·.tag) = s.links.remotes.map (·.tag) ∧
      ∀ r ∈ s.links.remotes, r.sent = true → r.port = port →
        (∃ q < 16, q ≠ port ∧ (s.domEntry r.dev).1.ports.getLsbD q = true ∧ (vget s.links.ports q EthPort.down).up = true) →
        .domSend s.links.domid r.dev r.tag r.va r.op ∈ t.sent) ∧
    (∀ port < 16, ∃ t, exec (.frameReceive port .other) s = .next t ∧ vget t.mem.ctr.ethDrop port 0 = vget s.mem.ctr.ethDrop port 0 + 1 ∧
      (∀ q, q ≠ port → vget t.mem.ctr.ethDrop q 0 = vget s.mem.ctr.ethDrop q 0) ∧ t.mem.ram = s.mem.ram ∧ t.links = s.links) ∧
    (∀ port k, k ≠ .other → exec (.frameReceive port k) s = .next s) ∧
    (∀ (tag : Nat) (r : Remote), s.links.remote? tag = some r →
      ((s.mgmt.count - r.last).toNat < 20000 → exec (.retransmitTimer tag) s = .next s) ∧
      (20000 ≤ (s.mgmt.count - r.last).toNat → r.tries < 7 → ∃ t, exec (.retransmitTimer tag) s = .next t ∧ (∃ y ∈ t.links.remotes, y.tag = tag ∧ y.tries = r.tries + 1 ∧ y.dev = r.dev ∧ y.op = r.op) ∧
        (s.upPorts (s.domEntry r.dev).1 ≠ [] → t.sent = .domSend s.links.domid r.dev tag r.va r.op :: s.sent) ∧ t.mem.ram = s.mem.ram ∧ t.hm = s.hm) ∧
      (20000 ≤ (s.mgmt.count - r.last).toNat → 7 ≤ r.tries → ∀ tok len, r.op = .read tok len → r.core < 64 → ∃ t, exec (.retransmitTimer tag) s = .next t ∧ (∀ y ∈ t.links.remotes, y.tag ≠ tag) ∧
        ∀ l ∈ (s.core r.core).loads, l.tok = tok → ∃ y ∈ (t.core r.core).loads, y.tok = tok ∧ y.w = l.w ∧
          ∀ n ∈ l.need, 2 ^ 52 ≤ n.pa → n.pa < 2 ^ 52 + len → (n.pos, Cause.remoteUnreachable) ∈ y.bad) ∧
      (∀ bs bd k, r.op = .write bs bd → r.stok = some k → r.core < 64 →
        (∀ old bad, ∃ t, exec (.domainAck tag old bad) s = .next t ∧ (∀ y ∈ t.links.remotes, y.tag ≠ tag) ∧ (∀ u ∈ (t.core r.core).unacked, u.tok ≠ k) ∧ t.mem.ram = s.mem.ram) ∧
        (∃ t, exec (.domainNack tag) s = .next t ∧ (∀ y ∈ t.links.remotes, y.tag ≠ tag) ∧ (∀ u ∈ (t.core r.core).unacked, u.tok ≠ k) ∧
          t.mem.ctr.domDrop = s.mem.ctr.domDrop + 1 ∧ t.mem.ram = s.mem.ram)) ∧
      (∀ tok ln op x e, r.op = .atomic tok ln op x e → ln < 32 → ∀ (y : Warp) (left : Mask) (res : Image) (b : List (Nat × Cause)) ent, s.warp? r.w = some y →
        y.begun = some (.atomic tok left res b ent) →
        (∀ old : Word, ∃ t z left' res', exec (.domainAck tag old false) s = .next t ∧ t.warp? r.w = some z ∧ z.begun = some (.atomic tok left' res' b ent) ∧
          (∀ j < 32, mbit left' j = (mbit left j && j != ln) ∧ lane res' j = if j = ln then lane res j ||| old else lane res j)) ∧
        (∃ t z left', exec (.domainNack tag) s = .next t ∧ t.warp? r.w = some z ∧ z.begun = some (.atomic tok left' res (b ++ [(ln, .remoteRange)]) ent) ∧
          (∀ j < 32, mbit left' j = (mbit left j && j != ln)) ∧ t.mem.ctr.domDrop = s.mem.ctr.domDrop + 1)) ∧
      (∀ tok len (d : List Byte), r.op = .read tok len → d.length = len → len ≤ 256 → r.core < 64 → ∃ t, exec (.rldReply tag d false) s = .next t ∧
        (∀ y ∈ t.links.remotes, y.tag ≠ tag) ∧ t.mem.ram = s.mem.ram ∧
        ∀ l ∈ (s.core r.core).loads, l.tok = tok → l.need = (List.range len).map (fun i => { pos := i, pa := 2 ^ 52 + i }) → l.data = 0 →
          ∃ y ∈ (t.core r.core).loads, y.tok = tok ∧ y.w = l.w ∧ y.need = [] ∧ y.bad = l.bad ∧ ∀ i < len, y.data.extractLsb' (8 * i) 8 = d.getD i 0)) ∧
    (∀ r : DomReq, (s.links.domEn = false ∨ r.domid ≠ s.links.domid ∨ (∀ l ∈ s.hm.leases, l.admits r.op r.va = false)) →
      exec (.domainRequest r) s = .next { s with sent := .domNack r.src r.tag :: s.sent }) ∧
    (∀ (r : DomReq) (pas : List Nat), s.domAccept r = some pas →
      (∀ n, r.op = .read n → ∃ t, exec (.domainRequest r) s = .next t ∧
        { s with sent := .domReply r.src r.tag (pas.map (readCell s.mem.ram.cells)) (pas.any s.mem.ram.poisonedAt) :: s.sent }.onlyTraffic t) ∧
      (∀ d bd, r.op = .write d bd → s.mem.ram.wf = true → pas.Nodup → ∃ t, exec (.domainRequest r) s = .next t ∧ t.sent = .domAck r.src r.tag 0 false :: s.sent ∧
        (∀ x ∈ pas.zip d, readCell t.mem.ram.cells x.1 = x.2 ∧ (bd = true → t.mem.ram.poisonedAt x.1 = true)) ∧ (∀ a, a ∉ pas → readCell t.mem.ram.cells a = readCell s.mem.ram.cells a) ∧ t.hm = s.hm) ∧
      (∀ x, r.op = .swap x → s.mem.ram.wf = true → s.mem.ram.poisonedAt (pas.headD 0) = false → ∃ t, exec (.domainRequest r) s = .next t ∧
        t.sent = .domAck r.src r.tag (word (leNat (readRun s.mem.ram.cells (pas.headD 0) 8))) false :: s.sent ∧
        readRun t.mem.ram.cells (pas.headD 0) 8 = leBytes 8 x.toNat ∧
        ∀ a, a < pas.headD 0 ∨ pas.headD 0 + 8 ≤ a → readCell t.mem.ram.cells a = readCell s.mem.ram.cells a)) ∧
    (∀ v : Word, ∃ t, exec (.domainConfigWrite v) s = .next t ∧ t.links.domid.toNat = fieldOf v 48 16 ∧ t.links.self.toNat = fieldOf v 32 10 ∧
      t.links.domEn = v.getLsbD 0 ∧ (v.getLsbD 0 = false → t.links.domCache = []) ∧ (v.getLsbD 0 = true → t.links.domCache = s.links.domCache) ∧
      t.links.remotes = s.links.remotes ∧ t.mem = s.mem ∧ t.hm = s.hm)

/-- O52. A slice serves the request at the head of its queue: a read joins or opens the window of its line; of a store one part, its bytes and no other
byte of home memory, and with the last part the store may be acknowledged; an atomic or a reduction performs its lanes' operations one after another
in some order, a lane that meets poison none, but an atom into a register is served whole, once each of its packets can be, and when one lane meets
poison none is performed (the model's reading: log 46); a gather reads its index line, and the elements homed there, and asks for the others, or for
nothing past the table's end. A fill makes a window's sectors valid; a reply leaves for every core of the window's mask, and what it decodes to is the
line's sectors; a core that receives it gives its loads their bytes. A read served in its own step joins the window that is open for its line, and
sends its reply. A dead line leaves, a phase is applied, the line dirty for longest is written back (at any moment: log 69), and an acknowledgement
ends its store. (R122, R126, R129, R131, R133, R134, R135, R136, R138, R139, R141, R168.) -/
def Obligations.SliceEvents : Prop :=
  ∀ s : State,
    (∀ n < 128,
      (∀ mask line sectors tag rest, (s.slice n).queue = .load mask line sectors tag :: rest → ∃ t w, exec (.sliceLoad n) s = .next t ∧
        (t.slice n).queue = rest ∧ (t.slice n).window? line = some w ∧ w.mask &&& mask = mask ∧ w.sectors &&& sectors = sectors ∧ tag ∈ w.toks ∧
        ((s.slice n).window? line = none → w.filling = !(s.slice n).holds line sectors ∧ w.mask = mask ∧ w.sectors = sectors) ∧
        ((s.slice n).window? line ≠ none → vget t.mem.ctr.merged n 0 = vget s.mem.ctr.merged n 0 + 1) ∧ t.mem.ram = s.mem.ram ∧
        ∀ m, m ≠ n → t.slice m = s.slice m) ∧
      (∀ core tok parts p w rest, (s.slice n).queue = .store core tok parts p w :: rest → core < 64 → s.mem.ram.wf = true → parts ≠ [] →
        (∀ part ∈ parts, (part.map Prod.fst).Nodup) → ∃ t i, exec (.sliceStore n) s = .next t ∧ i < parts.length ∧
          (parts.length = 1 → (t.slice n).queue = rest ∧ ∀ u ∈ (t.core core).unacked, u.tok = tok → u.done = true) ∧
          (1 < parts.length → (t.slice n).queue = .store core tok (parts.eraseIdx i) p w :: rest ∧ t.cores = s.cores) ∧
          (∀ x ∈ parts.getD i [], readCell t.mem.ram.cells x.1 = x.2 ∧ (p.getLsbD (x.1 / 16 % 8) = true → t.mem.ram.poisonedAt x.1 = true) ∧
            (parts.length = 1 → (∀ y ∈ parts.getD i [], y.1 / 16 = x.1 / 16) → w.getLsbD (x.1 / 16 % 8) = true → p.getLsbD (x.1 / 16 % 8) = false → t.mem.ram.poisonedAt x.1 = false)) ∧
          (∀ a, a ∉ (parts.getD i []).map Prod.fst → readCell t.mem.ram.cells a = readCell s.mem.ram.cells a) ∧
          t.hm = s.hm ∧ t.mgmt = s.mgmt ∧ ∀ m, m ≠ n → t.slice m = s.slice m) ∧
      (∀ core tok line rest, (s.slice n).queue = .clean core tok line :: rest → core < 64 → ∃ t, exec (.sliceStore n) s = .next t ∧ (t.slice n).queue = rest ∧
        (∀ l ∈ (t.slice n).lines, l.pa = line → l.dirty = 0) ∧ (∀ u ∈ (t.core core).unacked, u.tok = tok → u.done = true) ∧ t.mem = s.mem) ∧
      (∀ core w tok es rest y left res b ent, (s.slice n).queue = .atomic core (.warp w tok) es :: rest → s.warp? w = some y → y.begun = some (.atomic tok left res b ent) →
        ∃ t z left' res' b', exec (.sliceAtomic n) s = .next t ∧ (t.slice n).queue = rest ∧ t.warp? w = some z ∧ z.begun = some (.atomic tok left' res' b' ent) ∧
          (∀ j < 32, mbit left' j = (mbit left j && !es.any (·.lane == j))) ∧
          ((∀ e ∈ es, e.lane < 32) → (es.map (·.lane)).Nodup → ∃ es', es'.Perm es ∧
            let r := s.mem.ram.performs es'
            t.mem.ram = r.1 ∧ b' = b ++ r.2.2.map (fun e => (e.lane, .uncorrectable)) ∧
            ∀ x ∈ r.2.1, lane res' x.1.lane = lane res x.1.lane ||| extWord x.1.ty (word x.2))) ∧
      (∀ core w tok es rest y left res b ent, (s.slice n).queue = .atomic core (.discard w tok) es :: rest → s.warp? w = some y →
        y.begun = some (.atomic tok left res b ent) → ∃ t z left' es', exec (.sliceAtomic n) s = .next t ∧ (t.slice n).queue = rest ∧ t.warp? w = some z ∧
          z.begun = some (.atomic tok left' res b ent) ∧ (∀ j < 32, mbit left' j = (mbit left j && !es.any (·.lane == j))) ∧ es'.Perm es ∧
          t.mem.ram = (s.mem.ram.performs es').1 ∧ vget t.mem.ctr.slicePois n 0 = vget s.mem.ctr.slicePois n 0 + word (s.mem.ram.performs es').2.2.length) ∧
      (∀ core w tok es rest, (s.slice n).queue = .atomic core (.reg w tok) es :: rest → s.slices.all (fun x => atomFirst tok x.queue) = false →
        ∃ t, exec (.sliceAtomic n) s = .next t ∧ (t.slice n).queue.Perm (s.slice n).queue ∧ (∀ m, m ≠ n → t.slice m = s.slice m) ∧ t.mem = s.mem ∧ t.hm = s.hm) ∧
      (∀ core w tok es rest y left res b ent, (s.slice n).queue = .atomic core (.reg w tok) es :: rest → s.slices.all (fun x => atomFirst tok x.queue) = true →
        s.warp? w = some y → y.begun = some (.atomic tok left res b ent) →
        let all := s.slices.toList.flatMap fun x => atomElems tok x.queue
        ∃ t z left' res' b', exec (.sliceAtomic n) s = .next t ∧ (∀ m < 128, (t.slice m).queue = (s.slice m).queue.filter fun r => !r.ofAtom tok) ∧
          t.warp? w = some z ∧ z.begun = some (.atomic tok left' res' b' ent) ∧
          (∀ j < 32, mbit left' j = (mbit left j && !all.any (·.lane == j))) ∧
          ((∃ e ∈ all, s.mem.ram.poisonedAt e.pa = true) → t.mem.ram = s.mem.ram ∧ res' = res ∧
            b' = b ++ (all.filter fun e => s.mem.ram.poisonedAt e.pa).map fun e => (e.lane, .uncorrectable)) ∧
          ((∀ e ∈ all, s.mem.ram.poisonedAt e.pa = false) → (∀ e ∈ all, e.lane < 32) → (all.map (·.lane)).Nodup → ∃ es', es'.Perm all ∧
            let r := s.mem.ram.performs es'
            t.mem.ram = r.1 ∧ b' = b ∧ ∀ x ∈ r.2.1, lane res' x.1.lane = lane res x.1.lane ||| extWord x.1.ty (word x.2))) ∧
      (∀ core tok es rest, (s.slice n).queue = .reduce core tok es :: rest → core < 64 → ∃ t es', exec (.sliceReduce n) s = .next t ∧ (t.slice n).queue = rest ∧
        (∀ u ∈ (t.core core).unacked, u.tok = tok → u.done = true) ∧ es'.Perm es ∧ t.mem.ram = (s.mem.ram.performs es').1 ∧
        vget t.mem.ctr.slicePois n 0 = vget s.mem.ctr.slicePois n 0 + word (s.mem.ram.performs es').2.2.length) ∧
      (∀ g rest l, (s.slice n).queue = .gather g :: rest → g.core < 64 → (s.core g.core).load? g.tok = some l →
        let index (i : Nat) : Nat := leNat (((g.idx.drop (4 * i)).take 4).map (readCell s.mem.ram.cells))
        let pois := g.idx.any s.mem.ram.poisonedAt
        (pois = true → ∃ t y, exec (.sliceGather n) s = .next t ∧ (t.slice n).queue = rest ∧ y ∈ (t.core g.core).loads ∧ y.tok = g.tok ∧ y.need = [] ∧ y.gather = none ∧
          (0, Cause.uncorrectable) ∈ y.bad) ∧
        (pois = false → s.gatherFits g l index = false → exec (.sliceGather n) s = .next s) ∧
        (pois = false → (∀ i ∈ lanesOf g.lanes, g.len.toNat ≤ index i) → ∃ t y, exec (.sliceGather n) s = .next t ∧ (t.slice n).queue = rest ∧
          y ∈ (t.core g.core).loads ∧ y.tok = g.tok ∧ y.need = [] ∧ y.data = 0 ∧ y.bad = l.bad ∧ y.gather = none) ∧
        (pois = false → s.gatherFits g l index = true → l.atSlice = true → g.esz ≤ 8 →
          (∀ i ∈ lanesOf g.lanes, index i < g.len.toNat → ∀ p k, s.checkWin (s.spaceOf l.w.team) g.win .load (g.esz * index i) g.esz ≠ .error (.fault p k)) →
          ∃ t y, exec (.sliceGather n) s = .next t ∧ y ∈ (t.core g.core).loads ∧ y.tok = g.tok ∧ y.gather = none ∧
          t.mem.ram = s.mem.ram ∧ ∀ i ∈ lanesOf g.lanes, ∀ pas, index i < g.len.toNat →
            s.checkWin (s.spaceOf l.w.team) g.win .load (g.esz * index i) g.esz = .ok pas → ∀ j pa, pas[j]? = some pa → isHbm pa = true →
            (sliceOf pa ≠ n → ({ pos := g.esz * i + j, pa := pa } : NeedByte) ∈ y.need) ∧
            (sliceOf pa = n → j < g.esz → y.data.extractLsb' (8 * (g.esz * i + j)) 8 = readCell s.mem.ram.cells pa))) ∧
      (∀ core tok need rest, (s.slice n).queue = .elem core tok need :: rest → core < 64 → (∀ l ∈ (s.core core).loads, l.tok = tok → l.gather = none ∧ l.dst ≠ .caches) →
        ∃ t, exec (.sliceGather n) s = .next t ∧ (t.slice n).queue = rest ∧ t.mem.ram = s.mem.ram ∧
          ∀ l ∈ (s.core core).loads, l.tok = tok → ∃ y ∈ (t.core core).loads, y.tok = tok ∧ y.w = l.w ∧ ∀ b ∈ l.need, b.pa ∈ need.map (·.pa) → b ∉ y.need) ∧
      (∀ line w lo hi, (s.slice n).window? line = some w → w.filling = true → ∃ t l, exec (.hbmFillDone n line lo hi) s = .next t ∧
        (∀ y ∈ (t.slice n).windows, y.line = line → y.filling = false) ∧ (t.slice n).line? line = some l ∧ w.sectors &&& ~~~l.valid = 0 ∧
        t.mem.ram.cells = s.mem.ram.cells ∧ (lo ≠ .uncorrectable → hi ≠ .uncorrectable → t.mem.ram = s.mem.ram) ∧ t.hm = s.hm) ∧
      (∀ line w, (s.slice n).window? line = some w → w.filling = false → ∃ t r, exec (.replyInject n line) s = .next t ∧ (t.slice n).window? line = none ∧
        (∀ c < 64, (t.core c).arriving = if w.mask.getLsbD c then (s.core c).arriving ++
          [{ r := r, stored := unservedStores c line (s.slice n).queue, skip := unservedAtoms c line (s.slice n).queue }] else (s.core c).arriving) ∧
        (∀ c < 64, ∀ l ∈ (t.core c).loads, l.dst = .caches → l.tok ∈ w.toks → ∀ b ∈ l.need, lineOf b.pa ≠ w.line) ∧ r.line = w.line ∧ r.toks = w.toks ∧
        (∀ i < 8, w.sectors.getLsbD i = true → (i, s.mem.ram.sector w.line i) ∈ r.decode) ∧ (∀ x ∈ r.decode, w.sectors.getLsbD x.1 = true) ∧ t.mem.ram = s.mem.ram) ∧
      (∀ l, (s.slice n).lines.find? (fun l => s.mem.rankOf (s.slice n).phase l.cls == 0 && ((s.slice n).window? l.pa).isNone) = some l →
        ∃ t, exec (.deadLineInvalidate n) s = .next t ∧ (t.slice n).lines = (s.slice n).lines.filter (fun y => y.pa != l.pa) ∧ t.mem = s.mem) ∧
      (∃ t, exec (.phaseApply n) s = .next t ∧ (t.slice n).phase = s.mem.tidePhase.toNat ∧ (t.slice n).queue = (s.slice n).queue ∧
        (t.slice n).lines = (s.slice n).lines ∧ (∀ m, m ≠ n → t.slice m = s.slice m) ∧ t.mem = s.mem)) ∧
    (∀ ln (secs : BitVec 8) (mask : BitVec 64),
      (∀ w, (s.slice (sliceOf ln)).window? ln = some w → ∃ r : Reply, r.line = ln ∧ r.mask = w.mask ||| mask ∧ r.toks = w.toks ∧
        (∀ i < 8, (w.sectors ||| secs).getLsbD i = true → (i, s.mem.ram.sector ln i) ∈ r.decode) ∧
        let t := s.readNow ln secs mask
        s.onlyTraffic t ∧ (t.slice (sliceOf ln)).window? ln = none ∧
          vget t.mem.ctr.merged (sliceOf ln) 0 = vget s.mem.ctr.merged (sliceOf ln) 0 + 1 ∧
          ∀ c < 64, (t.core c).arriving.map (·.r) = (s.core c).arriving.map (·.r) ++ if w.mask.getLsbD c then [r] else []) ∧
      ((s.slice (sliceOf ln)).window? ln = none → let t := s.readNow ln secs mask
        s.onlyTraffic t ∧ t.cores = s.cores ∧ t.mem.ctr.merged = s.mem.ctr.merged)) ∧
    (∀ core < 64,
      (∀ n a, (s.core core).arriving[n]? = some a → ∃ t, exec (.replyReceive core n) s = .next t ∧
        (t.core core).arriving.map (·.r) = ((s.core core).arriving.eraseIdx n).map (·.r) ∧ t.mem.ram = s.mem.ram ∧ t.hm = s.hm ∧
        ∀ l ∈ (s.core core).loads, l.tok ∈ a.r.toks → l.dst ≠ .caches → ∃ y ∈ (t.core core).loads, y.tok = l.tok ∧ y.w = l.w ∧
          ∀ b ∈ l.need, (a.r.byteAt b.pa).isSome = true → b ∉ y.need) ∧
      (∀ x ∈ (s.core core).l1, x.dirty ≠ 0 → ∃ t l, exec (.dirtyWritebackTimer core) s = .next t ∧ l ∈ (s.core core).l1 ∧ l.dirty ≠ 0 ∧ l.dirtyAt ≤ x.dirtyAt ∧
        ((t.core core).line l.pa).dirty = 0 ∧ t.mem.ram = s.mem.ram ∧
        ∀ i < 128, l.dirty.getLsbD i = true → ∃ tok parts p w, SliceReq.store core tok parts p w ∈ (t.slice (sliceOf l.pa)).queue ∧ (l.pa + i, l.byte i) ∈ parts.flatten) ∧
      ((∀ x ∈ (s.core core).l1, x.dirty = 0) → exec (.dirtyWritebackTimer core) s = .next s) ∧
      (∀ u, (s.core core).unacked.find? (·.done) = some u → ∃ t, exec (.storeAcknowledged core) s = .next t ∧
        (t.core core).unacked = (s.core core).unacked.filter (fun v => v.tok != u.tok) ∧ (∀ k ∈ t.hm.teams, ∀ x ∈ k.warps, u.tok ∉ x.holdSt) ∧ t.mem = s.mem)) ∧
    (∀ pa, isHbm pa = true →
      exec (.patrolScrub pa .clean .clean) s = .next s ∧
      (∃ t, exec (.patrolScrub pa .corrected .clean) s = .next t ∧ t.mem.ram = s.mem.ram ∧
        vget t.mem.ctr.hbmCorr (stackOf (pa / 128 * 128)) 0 = vget s.mem.ctr.hbmCorr (stackOf (pa / 128 * 128)) 0 + 1) ∧
      (∃ t, exec (.patrolScrub pa .uncorrectable .clean) s = .next t ∧ t.mem.ram.cells = s.mem.ram.cells ∧
        vget t.mem.ctr.hbmUnc (stackOf (pa / 128 * 128)) 0 = vget s.mem.ctr.hbmUnc (stackOf (pa / 128 * 128)) 0 + 1 ∧
        ((s.slice (sliceOf (pa / 128 * 128))).line? (pa / 128 * 128) = none → ∀ i < 4, t.mem.ram.poisonedAt (pa / 128 * 128 + 16 * i) = true)))

/-- O53. A load of the tide table begins, and ends with the table applied or with the basic level and a count; the basic level and a phase can be set. A
walk that finds a leaf enters it in the core's TLB. An invalidation joins its queue, and every TLB drops what it covers, when it is written and again
when it is done and counted (the model's reading: log 72). A resolution ends the fault for every access that joined it, those of warps, fetches,
loads, commands and walks: with outcome 1 each has failed, at once (log 61), with outcome 0 what joined it goes on when its access no longer meets it,
and otherwise stays with the kind that it now has (log 74). A fault's record is written at the ring's tail. A write to a counter's register clears
that counter alone. (R130, R132, R133, R143, R144, R145, R147, R150, R151, R154.) -/
def Obligations.MemoryRegisterEvents : Prop :=
  ∀ s : State,
    exec .tideLoad s = .next { s with mem := { s.mem with tideLoading := true, tideFrom := s.mem.tideBase } } ∧
    (s.mem.tideLoading = true → ∀ x, s.mem.ram.tideImage (s.mem.tideFrom.toNat * 4096) = some x → ∃ t, exec .tideLoadDone s = .next t ∧ t.mem.tide = some x ∧
      t.mem.tideLevel = true ∧ t.mem.tideLoading = false ∧ (∀ n < 128, (t.slice n).ptr = []) ∧ t.mem.ram = s.mem.ram) ∧
    (s.mem.tideLoading = true → s.mem.ram.tideImage (s.mem.tideFrom.toNat * 4096) = none → ∃ t, exec .tideLoadDone s = .next t ∧ t.mem.tide = none ∧
      t.mem.tideLevel = false ∧ t.mem.tideLoading = false ∧ t.mem.ctr.tideErr = s.mem.ctr.tideErr + 1 ∧ t.mem.ram = s.mem.ram) ∧
    exec .tideBasic s = .next { s with mem := { s.mem with tide := none, tideLevel := false, tideLoading := false } } ∧
    (∀ v : Word, ∃ t, exec (.tidePhaseWrite v) s = .next t ∧ t.mem.tidePhase.toNat = fieldOf v 0 6 ∧ t.slices = s.slices ∧
      t = { s with mem := { s.mem with tidePhase := t.mem.tidePhase } }) ∧
    (∀ core < 64, ∀ asid va, va < 2 ^ 52 → ∀ f big w r, (s.coreWalk core (BitVec.ofNat 12 asid) va).res = .leaf f big w r → ∃ t e, exec (.translationWalkDone core asid va) s = .next t ∧
      e ∈ (t.core core).tlb ∧ e.asid = BitVec.ofNat 12 asid ∧ e.va = va / 2 ^ pageBits big * 2 ^ pageBits big ∧ e.pa = f ∧ e.big = big ∧ e.write = w ∧ e.replica = r ∧
      (∀ y ∈ (s.coreWalk core (BitVec.ofNat 12 asid) va).tabs,
        ({ asid := BitVec.ofNat 12 asid, level := y.1, va := va / 2 ^ levelShift y.1, table := y.2 } : WalkEntry) ∈ (t.core core).walks) ∧
      t.mem.ram = s.mem.ram ∧ t.hm = s.hm ∧ ∀ c, c ≠ core → (s.core c).onlyTraffic (t.core c)) ∧
    (∀ core asid va, (∀ f big w r, (s.coreWalk core (BitVec.ofNat 12 asid) va).res ≠ .leaf f big w r) → ∃ t, exec (.translationWalkDone core asid va) s = .next t ∧
      s.onlyTraffic t) ∧
    (∀ v : Word, ∃ t, exec (.tlbInvalidate v) s = .next t ∧ t.mem.tlbReqs = s.mem.tlbReqs ++ [{ v := v, tok := s.mem.nextTok }] ∧
      (∀ c < 64, (t.core c).tlb = (s.core c).tlb.filter fun e => !invCovers v e.asid e.va (2 ^ pageBits e.big)) ∧
      (∀ c < 64, (t.core c).walks = (s.core c).walks.filter fun e => !invCovers v e.asid (e.va * 2 ^ levelShift e.level) (2 ^ levelShift e.level)) ∧ t.mem.ram = s.mem.ram ∧ t.mem.tlbDone = s.mem.tlbDone) ∧
    (∀ r rest, s.mem.tlbReqs = r :: rest → s.settledBefore r.tok = true → ∃ t, exec .tlbInvalidateDone s = .next t ∧ t.mem.tlbReqs = rest ∧
      t.mem.tlbDone = s.mem.tlbDone + 1 ∧ (∀ c < 64, ∀ e ∈ (t.core c).tlb, invCovers r.v e.asid e.va (2 ^ pageBits e.big) = false) ∧
      (fieldOf r.v 14 2 = 3 → ∀ k ∈ t.hm.teams, ∀ x, k.warps.head? = some x → ∀ i < 8, ∀ w : Window, x.tw[i]? = some w → w.remote = none → w.limit = 0) ∧
      t.mem.ram = s.mem.ram) ∧
    (∀ r rest, s.mem.tlbReqs = r :: rest → s.settledBefore r.tok = false → exec .tlbInvalidateDone s = .next s) ∧
    (∀ (v : Word) (f : FaultSlot) (w : WarpId) (a : Acc) (x : Warp), s.faultAt (fieldOf v 0 16 / 32) (fieldOf v 0 16 % 32) = some f → f.joined = [.warp w a] → s.warp? w = some x →
      (fieldOf v 16 2 = 1 → ∃ t y, exec (.faultResolve v) s = .next t ∧ t.faultAt (fieldOf v 0 16 / 32) (fieldOf v 0 16 % 32) = none ∧
        t.warp? w = some y ∧ y.failed = f.page :: x.failed ∧ y.stall = none ∧ t.mem = s.mem) ∧
      (fieldOf v 16 2 = 0 → s.stillFaults (fieldOf v 0 16 / 32) f w.team a = none → ∃ t y, exec (.faultResolve v) s = .next t ∧
        t.faultAt (fieldOf v 0 16 / 32) (fieldOf v 0 16 % 32) = none ∧ t.warp? w = some y ∧ y.failed = x.failed ∧ y.stall = none ∧ y.recheck = true ∧ t.mem = s.mem) ∧
      (∀ k, fieldOf v 16 2 = 0 → s.stillFaults (fieldOf v 0 16 / 32) f w.team a = some k → ∃ t g, exec (.faultResolve v) s = .next t ∧
        t.faultAt (fieldOf v 0 16 / 32) (fieldOf v 0 16 % 32) = some g ∧ g.recorded = false ∧ g.kind = k ∧ g.joined = f.joined ∧ g.page = f.page)) ∧
    (∀ (v : Word) (f : FaultSlot) (tok : Nat), s.faultAt (fieldOf v 0 16 / 32) (fieldOf v 0 16 % 32) = some f → f.joined = [.load tok] → fieldOf v 16 2 = 1 →
      ∃ t, exec (.faultResolve v) s = .next t ∧ t.faultAt (fieldOf v 0 16 / 32) (fieldOf v 0 16 % 32) = none ∧
        ∀ l ∈ (s.core (fieldOf v 0 16 / 32)).loads, l.tok = tok → ∃ y ∈ (t.core (fieldOf v 0 16 / 32)).loads, y.tok = tok ∧ y.w = l.w ∧
          ∀ a ∈ l.faulted, a.touches f.page = true → (a.pos, Cause.faultFailed) ∈ y.bad ∧ a ∉ y.faulted) ∧
    -- whatever has joined: a list of accesses of every kind
    (∀ (v : Word) (f : FaultSlot), s.faultAt (fieldOf v 0 16 / 32) (fieldOf v 0 16 % 32) = some f → fieldOf v 16 2 = 1 →
      ∃ t, exec (.faultResolve v) s = .next t ∧ t.faultAt (fieldOf v 0 16 / 32) (fieldOf v 0 16 % 32) = none ∧ t.mem = s.mem ∧
        (∀ w x, (∃ a, Joined.warp w a ∈ f.joined) ∨ Joined.fetch w ∈ f.joined → s.warp? w = some x → ∃ y, t.warp? w = some y ∧ f.page ∈ y.failed ∧ y.stall = none) ∧
        (∀ tok, Joined.load tok ∈ f.joined → ∀ l ∈ (s.core (fieldOf v 0 16 / 32)).loads, l.tok = tok →
          ∃ y ∈ (t.core (fieldOf v 0 16 / 32)).loads, y.tok = tok ∧ y.w = l.w ∧
            ∀ a ∈ l.faulted, a.touches f.page = true → (a.pos, Cause.faultFailed) ∈ y.bad ∧ a ∉ y.faulted) ∧
        (∀ n e q a, Joined.cmd n e q a ∈ f.joined → ∀ k, s.team? n = some k → ∀ x ∈ k.cmds, x.e = e → x.seq = q →
          ∃ k', t.team? n = some k' ∧ ∃ y ∈ k'.cmds, y.e = e ∧ y.seq = q ∧ y.failed = true ∧ y.holding = false) ∧
        (∀ n q key a, Joined.walk n q key a ∈ f.joined → ∀ k, s.team? n = some k → ∀ x ∈ k.cmds, x.e = 2 → x.seq = q → ∀ r, x.st = .running (.pilot r) →
          ∃ k' r', t.team? n = some k' ∧ (∃ y ∈ k'.cmds, y.e = 2 ∧ y.seq = q ∧ y.st = .running (.pilot r')) ∧
            ∀ w ∈ r.walks, w.key = key → ∃ w' ∈ r'.walks, w'.key = key ∧ w'.failed = true)) ∧
    (∀ (v : Word) (f : FaultSlot), s.faultAt (fieldOf v 0 16 / 32) (fieldOf v 0 16 % 32) = some f → fieldOf v 16 2 = 0 → (∀ tok, Joined.load tok ∉ f.joined) →
      let still := s.meetsStill (fieldOf v 0 16 / 32) f
      let kinds := f.joined.filterMap still
      ∃ t, exec (.faultResolve v) s = .next t ∧ t.mem = s.mem ∧
        (kinds = [] → t.faultAt (fieldOf v 0 16 / 32) (fieldOf v 0 16 % 32) = none) ∧
        (kinds ≠ [] → ∃ g, t.faultAt (fieldOf v 0 16 / 32) (fieldOf v 0 16 % 32) = some g ∧ g.joined = f.joined.filter (fun j => (still j).isSome) ∧
          g.page = f.page ∧ g.recorded = false ∧ g.kind = kinds.foldl max 0) ∧
        (∀ w x, (∃ a, Joined.warp w a ∈ f.joined ∧ still (.warp w a) = none) → s.warp? w = some x →
          ∃ y, t.warp? w = some y ∧ y.failed = x.failed ∧ y.stall = none ∧ y.recheck = true) ∧
        (∀ w x, Joined.fetch w ∈ f.joined → still (.fetch w) = none → s.warp? w = some x → ∃ y, t.warp? w = some y ∧ y.failed = x.failed ∧ y.stall = none) ∧
        (∀ n e q a, Joined.cmd n e q a ∈ f.joined → still (.cmd n e q a) = none → ∀ k, s.team? n = some k → ∀ x ∈ k.cmds, x.e = e → x.seq = q →
          ∃ k', t.team? n = some k' ∧ ∃ y ∈ k'.cmds, y.e = e ∧ y.seq = q ∧ y.failed = x.failed ∧ y.holding = false)) ∧
    (∀ (v : Word) (f : FaultSlot) (tok : Nat) (l : PendLoad) (a : LaneAcc), s.faultAt (fieldOf v 0 16 / 32) (fieldOf v 0 16 % 32) = some f → f.joined = [.load tok] →
      fieldOf v 16 2 = 0 → (s.core (fieldOf v 0 16 / 32)).load? tok = some l → l.faulted = [a] → a.touches f.page = true → l.gather = none → l.bad = [] →
      (∀ pas, s.checkTlb (s.accSpace l a) .load a.va a.size = .ok pas → (∀ b ∈ l.later, ∃ ps, s.checkTlb (s.accSpace l b) .load b.va b.size = .ok ps) →
        ∃ t y, exec (.faultResolve v) s = .next t ∧ t.faultAt (fieldOf v 0 16 / 32) (fieldOf v 0 16 % 32) = none ∧ t.mem.ram = s.mem.ram ∧
          (t.core (fieldOf v 0 16 / 32)).load? tok = some y ∧ y.w = l.w ∧ y.dst = l.dst ∧ y.faulted = [] ∧ y.later = []) ∧
      (∀ c va, s.checkTlb (s.accSpace l a) .load a.va a.size = .error (.cause c va) → ∃ t y, exec (.faultResolve v) s = .next t ∧
        t.faultAt (fieldOf v 0 16 / 32) (fieldOf v 0 16 % 32) = none ∧ (t.core (fieldOf v 0 16 / 32)).load? tok = some y ∧ y.faulted = [] ∧ (a.pos, c) ∈ y.bad) ∧
      (∀ k, s.checkTlb (s.accSpace l a) .load a.va a.size = .error (.fault f.page k) → ∃ t g, exec (.faultResolve v) s = .next t ∧
        t.faultAt (fieldOf v 0 16 / 32) (fieldOf v 0 16 % 32) = some g ∧ g.joined = [.load tok] ∧ g.kind = k ∧ g.recorded = false ∧ g.page = f.page)) ∧
    (∀ v : Word, s.faultAt (fieldOf v 0 16 / 32) (fieldOf v 0 16 % 32) = none → exec (.faultResolve v) s = .next s) ∧
    (∀ core slot f, s.unrecorded = some (core, slot, f) → s.noRing = false → s.mem.ram.wf = true → (s.mem.fltTail - s.mem.fltHead).toNat < ringSize s.mem.fltSize.toNat →
      ∃ t g, exec .faultRecordWrite s = .next t ∧ t.mem.fltTail = s.mem.fltTail + 1 ∧ t.mem.fltMsg = true ∧ t.faultAt core slot = some g ∧ g.recorded = true ∧ g.page = f.page ∧
        readRun t.mem.ram.cells (s.mem.fltBase.toNat * 4096 + 32 * (s.mem.fltTail.toNat % ringSize s.mem.fltSize.toNat)) 32 =
          s.faultRecord core slot f (ringSize s.mem.fltSize.toNat) ∧
        ∀ a, (a < s.mem.fltBase.toNat * 4096 + 32 * (s.mem.fltTail.toNat % ringSize s.mem.fltSize.toNat) ∨
          s.mem.fltBase.toNat * 4096 + 32 * (s.mem.fltTail.toNat % ringSize s.mem.fltSize.toNat) + 32 ≤ a) →
          readCell t.mem.ram.cells a = readCell s.mem.ram.cells a) ∧
    (s.unrecorded = none → exec .faultRecordWrite s = .next s) ∧
    exec (.counterClear 0x70080) s = .next (s.setCtr { s.mem.ctr with sramCorr := 0 }) ∧ exec (.counterClear 0x70088) s = .next (s.setCtr { s.mem.ctr with hostErr := 0 }) ∧
    exec (.counterClear 0x70090) s = .next (s.setCtr { s.mem.ctr with domDrop := 0 }) ∧ exec (.counterClear 0x70098) s = .next (s.setCtr { s.mem.ctr with tideErr := 0 }) ∧
    exec (.counterClear 0x700a0) s = .next (s.setCtr { s.mem.ctr with joinErr := 0 }) ∧ exec (.counterClear 0x700a8) s = .next (s.setCtr { s.mem.ctr with recDrop := 0 }) ∧
    (∀ i < 8, exec (.counterClear (0x70000 + 8 * i)) s = .next (s.setCtr { s.mem.ctr with hbmCorr := vset s.mem.ctr.hbmCorr i 0 }) ∧
      exec (.counterClear (0x70040 + 8 * i)) s = .next (s.setCtr { s.mem.ctr with hbmUnc := vset s.mem.ctr.hbmUnc i 0 })) ∧
    (∀ i < 16, exec (.counterClear (0x70100 + 8 * i)) s = .next (s.setCtr { s.mem.ctr with ethDrop := vset s.mem.ctr.ethDrop i 0 })) ∧
    (∀ i < 128, exec (.counterClear (0x70200 + 8 * i)) s = .next (s.setCtr { s.mem.ctr with slicePois := vset s.mem.ctr.slicePois i 0 }) ∧
      exec (.counterClear (0x70600 + 32 * i)) s = .next (s.setCtr { s.mem.ctr with reqFlits := vset s.mem.ctr.reqFlits i 0 }) ∧
      exec (.counterClear (0x70608 + 32 * i)) s = .next (s.setCtr { s.mem.ctr with repFlits := vset s.mem.ctr.repFlits i 0 }) ∧
      exec (.counterClear (0x70610 + 32 * i)) s = .next (s.setCtr { s.mem.ctr with merged := vset s.mem.ctr.merged i 0 }) ∧
      exec (.counterClear (0x70618 + 32 * i)) s = .next (s.setCtr { s.mem.ctr with elided := vset s.mem.ctr.elided i 0 }))

/-- O54. An enabled area that is not halted reads its next record, which it takes off its ring: a launch that passes its checks becomes a task, a no-op or
a refused record does not; a record that cannot be read halts the area with error 2. A lease's walk pins its next page, activates the lease after the
last and stops at one that is absent; a release ends a held lease and is kept for an active one. The tail, control and completion-head registers take
their fields, an overrun halts the area with error 1. A due message is sent with its vector. A write of BAR0 sets the fields of its register and
nothing else, or does what that register's write does, and a misaligned one nothing; the PF reaches the areas of the VFs through their mirror. With no
room for its record an area keeps it on its ring (R96). The slot of a record (log 89), a lease in use whose descriptor is not read again (log 88) and
a task_ctl write that joins the list whatever its length (log 91) are the model's readings. (R71, R72, R73, R74, R85, R86, R88, R95, R96, R106, R150,
R407.) -/
def Obligations.HostRegisterEvents : Prop :=
  ∀ s : State,
    (∀ a < 80, s.mgmt.stage = .running → (s.area a).en = true → (s.area a).halted = false → (s.area a).subHead ≠ (s.area a).subTail → (s.area a).kept.length < 64 →
      let x := s.area a
      (s.hmGet (.area a) x.asid x.recordVa 64 = .fail → ∃ t, exec (.recordFetch a) s = .next t ∧ (t.area a).halted = true ∧ (t.area a).err = 2 ∧
        (t.area a).subHead = x.subHead ∧ t.hm.tasks = s.hm.tasks) ∧
      (∀ b, s.hmGet (.area a) x.asid x.recordVa 64 = .bytes b →
        (recFld (recOf b) 0 56 8 = 0 → ∃ t, exec (.recordFetch a) s = .next t ∧ (t.area a).subHead = x.subHead + 1 ∧ t.hm.tasks = s.hm.tasks) ∧
        (1 < recFld (recOf b) 0 56 8 → ∃ t, exec (.recordFetch a) s = .next t ∧ (t.area a).subHead = x.subHead + 1 ∧ t.hm.tasks = s.hm.tasks) ∧
        (∀ y, s.checkRecord (.area a) a x.asid (recOf b) = .ok y →
          (s.recRoom false = true → fieldOf (vget (recOf b) 6 0) 0 12 = 0 → ∃ t k, exec (.recordFetch a) s = .next t ∧ (t.area a).subHead = x.subHead + 1 ∧
            t.hm.tasks = s.hm.tasks ++ [k] ∧ k.id = s.hm.nextTask ∧ k.record = recOf b ∧ k.area = a ∧ k.index = x.subHead ∧ k.asid = x.asid ∧ k.st = .queued ∧
            k.spawned = false ∧ k.launch = y.launch ∧ k.slot = s.recSlot ∧ k.level = min (recFld (recOf b) 6 16 4) x.pcap.toNat ∧ t.hm.nextTask = s.hm.nextTask + 1 ∧ t.hm.teams = s.hm.teams) ∧
          (s.recRoom false = false → exec (.recordFetch a) s = .next s)))) ∧
    (∀ a < 80, (s.area a).en = false ∨ (s.area a).halted = true ∨ (s.area a).subHead = (s.area a).subTail → exec (.recordFetch a) s = .next s) ∧
    (∀ area id l, s.lease? area id = some l →
      (l.st = .walking → ∀ va, leasePage l.ranges l.pinned = some va →
        (∀ f big w r, s.walk l.asid va = .leaf f big w r → isHbm (leafPa f big va) = true → (∃ k ∈ s.hm.tasks, k.area = area ∧ k.lease = id) →
          ∃ t m, exec (.leaseWalk area id) s = .next t ∧ t.lease? area id = some m ∧ m.ranges = l.ranges ∧ m.pinned = l.pinned + 1 ∧ t.mem.ram = s.mem.ram ∧
            m.st = (if leasePage l.ranges (l.pinned + 1) = none then .active else .walking) ∧
            (leasePage l.ranges (l.pinned + 1) = none → ∀ k ∈ t.hm.tasks, k.area = area → k.lease = id → k.st ≠ .leaseWait)) ∧
        (s.walk l.asid va = .absent → ∃ t m, exec (.leaseWalk area id) s = .next t ∧ t.lease? area id = some m ∧ m.st = .waiting ∧ m.pinned = l.pinned ∧
          ∀ k ∈ s.waitingOn l, k.id ∈ m.told)) ∧
      (l.st = .held → ∀ v : Word, area < 16 → fieldOf v 12 4 = area → fieldOf v 0 12 = id → ∃ t, exec (.leaseReleaseWrite .pf v) s = .next t ∧
        t.lease? area id = none ∧ t.mem = s.mem) ∧
      (l.st = .active → ∀ v : Word, area < 16 → fieldOf v 12 4 = area → fieldOf v 0 12 = id → ∃ t, exec (.leaseReleaseWrite .pf v) s = .next t ∧
        t.lease? area id = some { l with relPend := true } ∧ t.mem = s.mem)) ∧
    (∀ a < 80, ∀ v : Word, ∃ t, exec (.subTailWrite a v) s = .next t ∧ (t.area a).subTail.toNat = fieldOf v 0 32 ∧ (t.area a).subHead = (s.area a).subHead ∧
      (ringSize (s.area a).subSize.toNat < ((t.area a).subTail - (s.area a).subHead).toNat → (t.area a).halted = true ∧ (t.area a).err = 1) ∧
      (((t.area a).subTail - (s.area a).subHead).toNat ≤ ringSize (s.area a).subSize.toNat → (t.area a).halted = (s.area a).halted ∧ (t.area a).err = (s.area a).err) ∧
      (∀ l ∈ t.hm.leases, l.area = a → l.st ≠ .waiting) ∧ (∀ b, b ≠ a → t.area b = s.area b) ∧ t.mem = s.mem) ∧
    (∀ a < 80, ∀ v : Word, ∃ t, exec (.subCtlWrite .pf a v) s = .next t ∧ (t.area a).en = v.getLsbD 0 ∧ (t.area a).irq = v.getLsbD 1 ∧
      (t.area a).asid.toNat = fieldOf v 16 12 ∧ (t.area a).pcap.toNat = fieldOf v 4 4 ∧
      (v.getLsbD 0 = false → (s.area a).en = true → (t.area a).halted = false ∧ (t.area a).err = 0) ∧ (∀ b, b ≠ a → t.area b = s.area b) ∧ t.hm = s.hm) ∧
    (∀ a < 80, ∀ n, ∀ v : Word, areaFn a = .vf n → ∃ t, exec (.subCtlWrite (.vf n) a v) s = .next t ∧ (t.area a).en = v.getLsbD 0 ∧ (t.area a).asid = (s.area a).asid ∧
      (t.area a).pcap = (s.area a).pcap) ∧
    (∀ a n, ∀ v : Word, areaFn a ≠ .vf n → exec (.subCtlWrite (.vf n) a v) s = .next s) ∧
    (∀ a < 80, ∀ v : Word, ∃ t, exec (.cplHeadWrite a v) s = .next t ∧ (t.area a).cplHead.toNat = fieldOf v 0 32 ∧ (∀ b, b ≠ a → t.area b = s.area b) ∧ t.hm = s.hm ∧
      ((s.area a).kept = [] → t.mem = s.mem ∧ t.sent = s.sent)) ∧
    (∀ a < 80, (s.area a).msgDue = true → s.mayMessage (s.area a).msgAt = true → ∃ t, exec (.msixMessage a) s = .next t ∧
      t.sent = .msix (areaFn a) (s.area a).vec.toNat :: s.sent ∧ (t.area a).msgDue = false ∧ t.mem = s.mem ∧ t.hm = s.hm) ∧
    (s.mem.fltMsg = true → s.mayMessage s.mem.fltMsgAt = true → ∃ t, exec (.msixMessage 80) s = .next t ∧ t.sent = .msix .pf s.mem.fltVec.toNat :: s.sent ∧
      t.mem.fltMsg = false ∧ t.mem.ram = s.mem.ram) ∧
    (s.hm.parkMsg = true → s.mayMessage s.hm.parkMsgAt = true → ∃ t, exec (.msixMessage 81) s = .next t ∧ t.sent = .msix .pf s.hm.parkVec.toNat :: s.sent ∧
      t.hm.parkMsg = false ∧ t.mem = s.mem) ∧
    (∀ v : Word, ∃ t, exec (.collListsWrite v) s = .next t ∧ t.links.collBase.toNat = fieldOf v 13 27 ∧ t.links.lists.length = 64 ∧ t.mem.ram = s.mem.ram ∧ t.hm = s.hm ∧
      ∀ i l, t.links.lists[i]? = some l → l.lost = false ∧ l.ops = 0 ∧
        ∀ n < 1024, (n ∈ l.members ↔ (readCell s.mem.ram.cells (fieldOf v 13 27 * 8192 + 128 * i + n / 8)).getLsbD (n % 8) = true)) ∧
    (∀ fn off, ∀ v : Word, off % 8 ≠ 0 → exec (.registerWrite fn off v) s = .next s) ∧
    (∀ v : Word,
      exec (.registerWrite .pf 0x10048 v) s = exec (.powerCapWrite v) s ∧ exec (.registerWrite .pf 0x30100 v) s = exec (.domainConfigWrite v) s ∧
      exec (.registerWrite .pf 0x30110 v) s = exec (.collListsWrite v) s ∧ exec (.registerWrite .pf 0x4f000 v) s = exec (.leaseReleaseWrite .pf v) s ∧
      exec (.registerWrite .pf 0x60020 v) s = exec (.faultResolve v) s ∧ exec (.registerWrite .pf 0x60028 v) s = exec (.tlbInvalidate v) s ∧
      (mbCode v = 3 → exec (.registerWrite .pf 0x20000 v) s = exec (.attest v) s) ∧
      (∀ a < 16, exec (.registerWrite .pf (0x40008 + 0x40 * a) v) s = exec (.subTailWrite a v) s ∧
        exec (.registerWrite .pf (0x40018 + 0x40 * a) v) s = exec (.subCtlWrite .pf a v) s) ∧
      (∀ n i, 1 ≤ n → n ≤ 16 → i < 4 → exec (.registerWrite (.vf n) (0x40 * i + 0x18) v) s = exec (.subCtlWrite (.vf n) (16 + 4 * (n - 1) + i) v) s) ∧
      exec (.registerWrite .pf 0x10000 v) s = .next { s with mgmt := { s.mgmt with devTol := v.setWidth 32 } } ∧
      (∃ t, exec (.registerWrite .pf 0x30000 v) s = .next t ∧ t.links.apBase.toNat = fieldOf v 36 28 ∧ t.links.ats = v.getLsbD 1 ∧ t.links.apEn = v.getLsbD 0) ∧
      (∃ t, exec (.registerWrite .pf 0x60000 v) s = .next t ∧ t.mem.domAsid.toNat = fieldOf v 52 12 ∧ t.mem.asBase.toNat = fieldOf v 16 24 ∧ t.mem.asEn = v.getLsbD 0 ∧
        t.mem.ram = s.mem.ram) ∧
      (∃ t, exec (.registerWrite .pf 0x50000 v) s = .next t ∧ t.hm.parkTo.toNat = fieldOf v 48 16 ∧ t.hm.pdelta.toNat = fieldOf v 32 4 ∧ t.hm.ageUs.toNat = fieldOf v 0 16) ∧
      (1 ≤ fieldOf v 0 8 → fieldOf v 0 8 ≤ 6 →
        exec (.registerWrite .pf 0x50030 v) s = .next { s with hm := { s.hm with ctl := s.hm.ctl ++ [{ fn := .pf, v := v }] } }) ∧
      (∀ i < 8, exec (.registerWrite .pf (0x10008 + 8 * i) v) s = .next { s with mgmt := { s.mgmt with clsTol := vset s.mgmt.clsTol i (v.setWidth 32) } }) ∧
      (∃ t, exec (.registerWrite .pf 0x30108 v) s = .next t ∧ t.links.domTab.toNat = fieldOf v 15 25 ∧ t = { s with links := { s.links with domTab := t.links.domTab } }) ∧
      (∃ t, exec (.registerWrite .pf 0x50008 v) s = .next t ∧ t.hm.recBase.toNat = fieldOf v 21 19 ∧ t.hm.recSize.toNat = fieldOf v 0 4 ∧
        t = { s with hm := { s.hm with recBase := t.hm.recBase, recSize := t.hm.recSize } }) ∧
      (∃ t, exec (.registerWrite .pf 0x50010 v) s = .next t ∧ t.hm.saveBase.toNat = fieldOf v 21 19 ∧ t.hm.saveSize.toNat = fieldOf v 0 8 ∧
        t = { s with hm := { s.hm with saveBase := t.hm.saveBase, saveSize := t.hm.saveSize } }) ∧
      (∃ t, exec (.registerWrite .pf 0x50018 v) s = .next t ∧ t.hm.parkBase.toNat = fieldOf v 12 28 ∧ t.hm.parkVec.toNat = fieldOf v 4 6 ∧ t.hm.parkSize.toNat = fieldOf v 0 4 ∧
        t = { s with hm := { s.hm with parkBase := t.hm.parkBase, parkVec := t.hm.parkVec, parkSize := t.hm.parkSize } }) ∧
      (∃ t, exec (.registerWrite .pf 0x50028 v) s = .next t ∧ t.hm.parkHead.toNat = fieldOf v 0 32 ∧
        (s.hm.parkWait = [] → t = { s with hm := { s.hm with parkHead := t.hm.parkHead } })) ∧
      (∃ t, exec (.registerWrite .pf 0x60008 v) s = .next t ∧ t.mem.fltBase.toNat = fieldOf v 12 28 ∧ t.mem.fltVec.toNat = fieldOf v 4 6 ∧ t.mem.fltSize.toNat = fieldOf v 0 4 ∧
        t = { s with mem := { s.mem with fltBase := t.mem.fltBase, fltVec := t.mem.fltVec, fltSize := t.mem.fltSize } }) ∧
      (∃ t, exec (.registerWrite .pf 0x60018 v) s = .next t ∧ t.mem.fltHead.toNat = fieldOf v 0 32 ∧ t = { s with mem := { s.mem with fltHead := t.mem.fltHead } }) ∧
      (∃ t, exec (.registerWrite .pf 0x60040 v) s = .next t ∧ t.mem.tideBase.toNat = fieldOf v 12 28 ∧ t = { s with mem := { s.mem with tideBase := t.mem.tideBase } }) ∧
      (∃ t, exec (.registerWrite .pf 0x60048 v) s = .next t ∧ t.mem.tidePhase.toNat = fieldOf v 0 6 ∧
        (v.getLsbD 8 = true → t.mem.tideLoading = true ∧ t.mem.tideFrom = s.mem.tideBase) ∧
        (v.getLsbD 8 = false → t.mem.tide = none ∧ t.mem.tideLevel = false ∧ t.mem.tideLoading = false)) ∧
      (∀ i < 128, (s.mgmt.mbRun ≠ none → exec (.registerWrite .pf (0x20100 + 8 * i) v) s = .next s) ∧
        (s.mgmt.mbRun = none → ∃ t, exec (.registerWrite .pf (0x20100 + 8 * i) v) s = .next t ∧ t = { s with mgmt := { s.mgmt with mbBuf := t.mgmt.mbBuf } } ∧
          ∀ j < 1024, (vget t.mgmt.mbBuf j 0).toNat = if 8 * i ≤ j ∧ j < 8 * i + 8 then fieldOf v (8 * (j - 8 * i)) 8 else (vget s.mgmt.mbBuf j 0).toNat)) ∧
      (v.getLsbD 8 = false → v.getLsbD 15 = true → exec (.registerWrite .pf 0 v) s = exec .thermClear s) ∧
      (v.getLsbD 8 = true → v.getLsbD 15 = false → exec (.registerWrite .pf 0 v) s = exec .deviceReset s) ∧
      (v.getLsbD 8 = false → v.getLsbD 15 = false → exec (.registerWrite .pf 0 v) s = .next s) ∧
      (∀ i code ss unused, mbRow v i code ss unused → mbCode v = code → exec (.registerWrite .pf 0x20000 v) s = exec i s) ∧
      (mbCode v ∉ mbCodes → exec (.registerWrite .pf 0x20000 v) s = exec (.mailboxBadCode v) s) ∧
      -- the areas: through the PF's own registers, its mirror of the VFs' (from 0x41000), and a VF's own
      (∀ (fn : Fn) (a base : Nat), (fn = .pf ∧ a < 16 ∧ base = 0x40000 + 0x40 * a) ∨ (fn = .pf ∧ 16 ≤ a ∧ a < 80 ∧ base = 0x41000 + 0x40 * (a - 16)) ∨
          (∃ n i, 1 ≤ n ∧ n ≤ 16 ∧ i < 4 ∧ fn = .vf n ∧ a = 16 + 4 * (n - 1) + i ∧ base = 0x40 * i) →
        let sets (off : Nat) (f : Area → Prop) : Prop := ∃ t, exec (.registerWrite fn (base + off) v) s = .next t ∧ f (t.area a) ∧ (∀ b, b ≠ a → t.area b = s.area b) ∧
          t.mem = s.mem ∧ t.hm = s.hm ∧ t.links = s.links ∧ t.mgmt = s.mgmt
        let x := s.area a
        sets 0x00 (fun y => y.subVa.toNat = fieldOf v 12 40 ∧ y.subSize.toNat = fieldOf v 0 4 ∧ y = { x with subVa := y.subVa, subSize := y.subSize }) ∧
        sets 0x20 (fun y => y.cplVa.toNat = fieldOf v 12 40 ∧ y.cplSize.toNat = fieldOf v 0 4 ∧ y = { x with cplVa := y.cplVa, cplSize := y.cplSize }) ∧
        sets 0x38 (fun y => y.leaseCnt.toNat = fieldOf v 52 12 ∧ y.leaseVa.toNat = fieldOf v 6 46 ∧ y = { x with leaseCnt := y.leaseCnt, leaseVa := y.leaseVa }) ∧
        sets 0x10 (fun y => if x.en = true then y = x else y.subHead.toNat = fieldOf v 0 32 ∧ y = { x with subHead := y.subHead }) ∧
        exec (.registerWrite fn (base + 0x08) v) s = exec (.subTailWrite a v) s ∧ exec (.registerWrite fn (base + 0x18) v) s = exec (.subCtlWrite fn a v) s ∧
        exec (.registerWrite fn (base + 0x30) v) s = exec (.cplHeadWrite a v) s) ∧
      (∀ n, 1 ≤ n → n ≤ 16 → exec (.registerWrite (.vf n) 0xf000 v) s = exec (.leaseReleaseWrite (.vf n) v) s ∧
        (1 ≤ fieldOf v 0 8 → fieldOf v 0 8 ≤ 6 →
          exec (.registerWrite (.vf n) 0xf008 v) s = .next { s with hm := { s.hm with ctl := s.hm.ctl ++ [{ fn := .vf n, v := v }] } })) ∧
      (∀ i < 0x2c0, exec (.registerWrite .pf (0x70000 + 8 * i) v) s = exec (.counterClear (0x70000 + 8 * i)) s))

/-- O55. A request at the head of task_ctl is taken: a kill ends every team of the task and the task, or the one team; a withdrawal ends the records that
have no block placed; a resumption clears the team's reason 3 conditions; a pre-emption drains, saves or discards; a kill or a pre-emption comes too
late for a team that is ending, and a kill for a task whose teams all are. A head candidate that fits is placed: a block's teams start at their
entries with the launch state, a saved team is restored. A candidate that has waited the interval rises a level. A running command that stands at a
suspension point is suspended for its team's save, any other is not. A save or a restore that has everything it waits for completes: the image is
written to its run of the save store. A task whose record or image has been lost ends. A team parks with the condition that has arisen, and after the
timeout goes on at its park handler; a team whose warps and commands have ended retires. A spawned record or a continuation with a slot becomes a
task. When a lost record or image is noticed (log 89), the image's bytes (log 93), the waiting time of a candidate (log 90) and the withdrawal of
continuations that wait (log 91) are the model's. (R90, R93, R97, R98, R99, R102, R104, R107, R112, R114, R116, R117.) -/
def Obligations.SchedulerEvents : Prop :=
  ∀ s : State,
    (∀ r rest, s.hm.ctl = r :: rest →
      (∀ op : Nat, fieldOf r.v 0 8 = op → s.ctlTeam r = none →
        (op = 1 → exec .killTask s = .next { s with hm := { s.hm with ctl := rest } }) ∧ (op = 3 → exec .resumeTeam s = .next { s with hm := { s.hm with ctl := rest } }) ∧
        (op = 4 → exec .killTeam s = .next { s with hm := { s.hm with ctl := rest } }) ∧
        (op = 5 → exec .preemptTeam s = .next { s with hm := { s.hm with ctl := rest } })) ∧
      (fieldOf r.v 0 8 = 2 → ∃ t, exec .withdrawRecord s = .next t ∧ t.hm.ctl = rest ∧
        ∀ x ∈ t.hm.tasks, x.area = r.area → x.index.toNat = r.target → x.st ≠ .queued ∧ x.st ≠ .leaseWait) ∧
      (∀ k, s.ctlTeam r = some k →
        (fieldOf r.v 0 8 = 1 → (∀ x ∈ s.hm.teams, x.task = k.task → x.ending = false) → ∃ t, exec .killTask s = .next t ∧ t.hm.ctl = rest ∧ t.task? k.task = none ∧ ∀ x ∈ t.hm.teams, x.task ≠ k.task) ∧
        (fieldOf r.v 0 8 = 1 → (∀ y, s.task? k.task = some y → y.st = .placed) → (∀ x ∈ s.hm.teams, x.task = k.task → x.ending = true) →
          exec .killTask s = .next { s with hm := { s.hm with ctl := rest } }) ∧
        (fieldOf r.v 0 8 = 3 → ∃ t u, exec .resumeTeam s = .next t ∧ t.hm.ctl = rest ∧ t.team? k.num = some u ∧ u.parks = k.parks.filter (fun p => p.reason != 3) ∧
          u.st = (if k.st = .parked ∧ k.parks.filter (fun p => p.reason != 3) = [] then .resident else k.st) ∧ u.warps = k.warps ∧ t.mem = s.mem) ∧
        (fieldOf r.v 0 8 = 4 → k.ending = false → ∃ t, exec .killTeam s = .next t ∧ t.hm.ctl = rest ∧ t.team? k.num = none) ∧
        (fieldOf r.v 0 8 = 4 → k.ending = true → exec .killTeam s = .next { s with hm := { s.hm with ctl := rest } }) ∧
        ((∀ x, s.task? k.task = some x → x.launch.liveCnt = 0) → k.preemptable = true →
          (fieldOf r.v 0 8 = 5 → fieldOf r.v 11 2 = 1 → ∃ t u, exec .preemptTeam s = .next t ∧ t.hm.ctl = rest ∧ t.team? k.num = some u ∧ u.draining = true ∧ u.st = k.st) ∧
          (fieldOf r.v 0 8 = 5 → fieldOf r.v 11 2 = 2 → ∀ a, s.saveRun (s.saveMax k) = some a → ∃ t u, exec .preemptTeam s = .next t ∧ t.hm.ctl = rest ∧
            t.team? k.num = some u ∧ u.st = .saving ∧ u.saveRun = some (a, s.saveMax k)) ∧
          (fieldOf r.v 0 8 = 5 → fieldOf r.v 11 2 = 3 → ∀ x, s.task? k.task = some x → (vget x.record 6 0).getLsbD 23 = true → x.tpb = 1 → s.block? k.block ≠ none →
            ∃ t, exec .preemptTeam s = .next t ∧ t.hm.ctl = rest ∧ t.team? k.num = none) ∧
          (fieldOf r.v 0 8 = 6 → fieldOf r.v 11 2 = 1 → (s.hm.teams.map (·.num)).Nodup → ∃ t, exec .preemptTask s = .next t ∧ t.hm.ctl = rest ∧
            ∀ u ∈ t.hm.teams, u.task = k.task → u.st = .resident ∨ u.st = .parked → u.ending = false → u.draining = true)))) ∧
    (s.mgmt.stage = .running → ∀ h more f, s.cands = h :: more → s.fitOn h [] [] s.coreAwake = some f →
      (∀ i k, h.kind = .block i → s.task? h.task = some k → s.recordKept k = false → ∃ t, exec .placement s = .next t ∧ t.task? k.id = none ∧
        ∀ x ∈ t.hm.teams, x.task ≠ k.id) ∧
      (∀ i k, h.kind = .block i → s.task? h.task = some k → s.recordKept k = true → ∃ t b, exec .placement s = .next t ∧ t.hm.head = none ∧ t.hm.blocks = s.hm.blocks ++ [b] ∧ b.task = k.id ∧
        b.index = i ∧ b.cores = f.set ∧ b.shm = recFld k.record 4 32 16 ∧ t.hm.nextBlock = s.hm.nextBlock + 1 ∧
        t.hm.teams.length = s.hm.teams.length + f.cores.length ∧ t.mem.ram = s.mem.ram ∧
        (∀ m, ∀ u : Team, t.hm.teams[s.hm.teams.length + m]? = some u → f.cores[m]? = some u.core ∧ u.task = k.id ∧ u.block = b.id ∧ u.index = m ∧ u.st = .resident ∧
          u.warps.length = k.xw + 1 ∧ ∀ j, ∀ x : Warp, u.warps[j]? = some x → x.hdr = (if j = 0 then recFld k.record 1 0 32 else recFld k.record 1 32 32 : Nat) ∧
            x.slot = 0 ∧ x.clause = none ∧ x.live = allLanes ∧ x.m = allLanes ∧ vget x.k 0 0 = word (recFld k.record 2 0 52) ∧ vget x.k 1 0 = word i ∧
            vget x.k 2 0 = word m ∧ vget x.k 3 0 = (if j = 0 then BitVec.allOnes 64 else word (j - 1)) ∧ vget x.k 4 0 = word (recFld k.record 4 0 16) ∧
            (∀ n, 5 ≤ n → n < 64 → vget x.k n 0 = 0) ∧ x.v.length = (if j = 0 then 0 else 32 * recFld k.record 4 24 6) ∧ x.retired = 0 ∧ x.ended = false)) ∧
      (∀ n c x, h.kind = .alone → h.teams = [n] → f.cores = [c] → s.team? n = some x → ∃ t u, exec .placement s = .next t ∧ t.hm.head = none ∧
        t.team? n = some u ∧ u.st = .restoring ∧ u.core = c ∧ t.mem.ram = s.mem.ram)) ∧
    (s.mgmt.stage = .running → s.cands = [] → exec .placement s = .next { s with hm := { s.hm with head := none, victims := [] } }) ∧
    (s.mgmt.stage ≠ .running → exec .placement s = .next s) ∧
    (∀ id k, s.task? id = some k → k.cand.isSome = true → k.level < 16 → s.ageNs ≤ (s.mgmt.count - k.since).toNat → ∃ t x, exec (.ageing id) s = .next t ∧
      t.task? id = some x ∧ x.level = k.level + 1 ∧ x.st = k.st ∧ x.record = k.record ∧ t.mem = s.mem) ∧
    (∀ n k, s.team? n = some k →
      (k.st = .saving → s.saveReady k = true → k.flushed = true → (∀ x, k.warps.head? = some x → x.holdSt = []) → s.links.apWrites = [] →
        (∀ x, s.task? k.task = some x → x.launch.liveCnt = 0) → ∃ t u, exec (.saveComplete n) s = .next t ∧ t.team? n = some u ∧ u.st = .saved ∧ u.queues = k.queues ∧ u.loads = (s.core k.core).loads.filter k.keepsLoad ∧
          u.warps.map (·.hdr) = k.warps.map (·.hdr) ∧ u.warps.map (·.v) = k.warps.map (·.v) ∧ u.warps.map (·.k) = k.warps.map (·.k) ∧
          (∀ l ∈ (t.core k.core).loads, l.w.team ≠ n) ∧ (k.saveRun = none → t.mem.ram = s.mem.ram) ∧
          (∀ a z, k.saveRun = some (a, z) → let z' := s.saveSize k (k.warps.map fun _ => none)
            u.saveRun = some (a, z') ∧ t.mem.ram = (s.storeHome (cellsAt (s.hm.saveBase.toNat * 2 ^ 21 + a) (imageBytes u.image z'))).mem.ram)) ∧
      (k.st = .saving → s.saveReady k = false → exec (.saveComplete n) s = .next s) ∧
      (k.st = .restoring → k.loads = [] → k.faults = [] → s.imageKept k = false → s.task? k.task ≠ none → ∃ t, exec (.restoreComplete n) s = .next t ∧ t.task? k.task = none ∧
        ∀ x ∈ t.hm.teams, x.task ≠ k.task) ∧
      -- a load that had failed before the save was over stays failed (R117)
      (∀ l : PendLoad, k.core < 64 → l.bad ≠ [] → l.gather = none → ∃ y, y ∈ ((s.restoreLoad k l).core k.core).loads ∧ y.tok = s.mem.nextTok ∧ y.dst = l.dst ∧
        y.bad = l.bad ∧ y.faulted = [] ∧ y.need = [] ∧ y.performed = true) ∧
      (k.st = .restoring → k.loads = [] → k.faults = [] → k.parks = [] → s.imageKept k = true → ∃ t u, exec (.restoreComplete n) s = .next t ∧ t.team? n = some u ∧ u.st = .resident ∧
        u.saveRun = none ∧ u.parks = [] ∧ u.core = k.core ∧ u.queues = k.queues ∧ u.warps.map (·.hdr) = k.warps.map (·.hdr) ∧ t.mem.ram = s.mem.ram) ∧
      (∀ e c, e ≠ 3 → k.st = .saving → k.cmds.find? (fun c => c.e == e && !c.suspended && (match c.st with | .running p => c.suspends p | _ => false)) = some c →
        ∃ t u x, exec (.engineSuspend n e) s = .next t ∧ t.team? n = some u ∧ x ∈ u.cmds ∧ x.e = e ∧ x.seq = c.seq ∧ x.suspended = true ∧ x.st = c.st ∧ t.mem = s.mem ∧
        (e = 0 → (k.num, c.seq) ∉ (t.core k.core).copyCmd) ∧ (e = 1 → (t.core k.core).lightCmd ≠ some (k.num, c.seq))) ∧
      (∀ e, (∀ c ∈ k.cmds, c.e = e → c.suspended = false → ∀ p, c.st = .running p → c.suspends p = false) → exec (.engineSuspend n e) s = .next s) ∧
      (∀ p, k.st = .resident ∨ k.st = .parked → (k.warps.zipIdx.filterMap fun x => s.parkCond k x.2 x.1).find? (fun p => !k.parks.contains p) = some p →
        ∃ t u, exec (.parkTeam n) s = .next t ∧ t.team? n = some u ∧ u.st = .parked ∧ u.parks = k.parks ++ [p]) ∧
      (k.st = .parked → s.hm.parkTo ≠ 0 → s.hm.parkTo.toNat * 1000000 ≤ s.parkedNs k → k.parks ≠ [] → (∀ p ∈ k.parks, p.reason = 3) → ∀ x y, s.task? k.task = some x →
        k.warps.head? = some y →
        (x.launch.parkh ≠ 0 → ∃ t u z, exec (.parkTimeout n) s = .next t ∧ t.team? n = some u ∧ u.st = .resident ∧ u.parks = [] ∧ u.warps.head? = some z ∧
          z.hdr = (x.launch.parkh : Nat) ∧ z.slot = 0 ∧ vget z.k 63 0 = word (y.hdr % 2 ^ 32).toNat) ∧
        (x.launch.parkh = 0 → ∃ t, exec (.parkTimeout n) s = .next t ∧ t.team? n = none)) ∧
      (k.st = .resident → k.warps.all (·.ended) = true → (∀ c ∈ k.cmds, c.e = 4) → k.flushed = true → (∀ x, k.warps.head? = some x → x.holdSt = []) →
        s.links.apWrites = [] → ∃ t, exec (.teamRetire n) s = .next t ∧ t.team? n = none) ∧
      (∀ c x y, k.head 4 = some c → s.task? k.task = some x → s.afterDone k c = true → s.checkRecord (.spawn n c.seq) x.area x.asid c.q = .ok y → s.recRoom true = true →
        fieldOf (vget c.q 6 0) 0 12 = 0 → ∃ t z u, exec (.spawnRecord n) s = .next t ∧ t.hm.tasks = s.hm.tasks ++ [z] ∧ z.record = c.q ∧ z.spawned = true ∧
          z.area = x.area ∧ z.index = x.index ∧ z.asid = x.asid ∧ z.st = .queued ∧ t.team? n = some u ∧ vget u.edone 4 0 = c.seq ∧
          (∀ d ∈ u.cmds, d.e = 4 → d.seq ≠ c.seq))) ∧
    (∀ area asid index q rest y, s.hm.conts = (area, asid, index, some q) :: rest → s.checkRecord .cont area (BitVec.ofNat 12 asid) q = .ok y → s.recRoom true = true →
      fieldOf (vget q 6 0) 0 12 = 0 → ∃ t z, exec .continuationAccept s = .next t ∧ t.hm.conts = rest ∧ t.hm.tasks = s.hm.tasks ++ [z] ∧ z.record = q ∧
        z.spawned = true ∧ z.area = area ∧ z.index = index ∧ z.st = .queued) ∧
    (∀ area asid index rest, s.hm.conts = (area, asid, index, none) :: rest → ∃ t, exec .continuationAccept s = .next t ∧ t.hm.conts = rest ∧ t.hm.tasks = s.hm.tasks)

/-- O56. Each word of a running Lighter program does what Table 14.7 gives it and moves to its next word. A program counter inside the program keeps the
program running with one more word counted; one outside ends it at once (log entry 58, DEDUCED) with status 0, or 5 with errors. An error discards the
tile, writes its record while the area holds it, and goes on at the recovery target; a unit that fails again keeps its first cause (log entry 59,
DEDUCED). The service of a read changes slices, counters and what is on its way to the cores alone. (R393, R394, R395, R396, R397.) -/
def Obligations.LighterWords : Prop :=
  ∀ (s : State) (t : Team) (c : Cmd) (m : Lighter), s.lighter? = some (t, c, m) → m.err = none →
    let limit : Nat := fieldOf (vget c.q 3 0) 16 32
    m.run < (if limit = 0 then 2 ^ 32 else limit) →
    let r (n : BitVec 4) : Word := vget m.s n.toNat 0
    let put (d : BitVec 4) (v : Word) : Lighter := { m with s := vset m.s d.toNat v, pc := m.pc + 1 }
    let on (i : Instr) (m' : Lighter) : Prop := exec i s = .next (s.lightNext t c m')
    let rd (a : Word) (n : Nat) : EngGot := if c.failed = true then .fail .faultFailed else s.engRead (.cmd t.num c.e c.seq) (s.spaceOf t.num) a.toNat n
    let srv (a : Word) (n : Nat) : State := s.engServed (s.spaceOf t.num) a.toNat n
    let area : Nat := 16 * fieldOf (vget c.q 7 0) 4 48
    let room : Nat := fieldOf (vget c.q 3 0) 48 16
    let q : Nat := fieldOf (vget c.q 3 0) 0 6
    -- how a word ends
    (∀ m' : Lighter, 0 ≤ m'.pc → m'.pc < m'.prog.length → ∃ t' c',
      (s.lightNext t c m').lighter? = some (t', c', { m' with run := m'.run + 1 }) ∧ t'.num = t.num ∧ c'.seq = c.seq ∧ c'.q = c.q ∧
      (s.lightNext t c m').mem = s.mem) ∧
    (∀ m' : Lighter, m'.pc < 0 ∨ m'.prog.length ≤ m'.pc → ∃ t' c', (s.lightNext t c m').team? t.num = some t' ∧
      c' ∈ t'.cmds ∧ c'.e = 1 ∧ c'.seq = c.seq ∧ c'.st = .finished (if m'.errors = 0 then 0 else 5) 0 m'.errors ∧
      (s.lightNext t c m').mem.ram = s.mem.ram) ∧
    (∃ t' c' u, exec .xend s = .next u ∧ u.team? t.num = some t' ∧ c' ∈ t'.cmds ∧ c'.e = 1 ∧ c'.seq = c.seq ∧
      c'.st = .finished (if m.errors = 0 then 0 else 5) 0 m.errors) ∧
    -- words that compute
    (∀ d i, on (.xli d i) (put d (BitVec.ofInt 64 i.toInt))) ∧
    (∀ d i, on (.xlsh d i) (put d (r d * 2 ^ 15 + BitVec.ofNat 64 i.toNat))) ∧
    (∀ d a b i, on (.xadd d a b i) (put d (r a + r b + BitVec.ofInt 64 i.toInt))) ∧
    (∀ d a b, on (.xsub d a b) (put d (r a - r b))) ∧
    (∀ d a b, on (.xmul d a b) (put d (BitVec.ofNat 64 ((r a).toNat * (r b).toNat)))) ∧
    (∀ d a b, on (.xand d a b) (put d (BitVec.ofNat 64 ((r a).toNat &&& (r b).toNat)))) ∧
    (∀ d a n, on (.xshl d a n) (put d (BitVec.ofNat 64 ((r a).toNat * 2 ^ n.toNat)))) ∧
    (∀ d a n, on (.xshr d a n) (put d (BitVec.ofNat 64 ((r a).toNat / 2 ^ n.toNat)))) ∧
    (∀ d a, on (.xpopc d a) (put d (BitVec.ofNat 64 (((List.range 64).filter fun k => (r a).getLsbD k).length)))) ∧
    (∀ k a b i, let holds : Prop := if k.toNat = 0 then r a = r b else if k.toNat = 1 then r a ≠ r b else
        if k.toNat = 2 then (r a).toNat < (r b).toNat else (r b).toNat ≤ (r a).toNat
      (holds → on (.xbr k a b i) { m with pc := m.pc + i.toInt }) ∧ (¬ holds → on (.xbr k a b i) { m with pc := m.pc + 1 })) ∧
    (∀ i, on (.xblk i) { m with recov := m.pc + i.toInt, pc := m.pc + 1 }) ∧
    (∀ a, ∃ k : Mask, (∀ j < 32, mbit k j = (mbit m.mask j || j == (r a).toNat % 32)) ∧ on (.xmask a) { m with mask := k, pc := m.pc + 1 }) ∧
    -- loads
    (∀ d a z i bs, rd (r a + BitVec.ofInt 64 i.toInt) (2 ^ z.toNat) = .bytes bs →
      ((∀ x ∈ bs, x.2 = false) →
        exec (.xld d a z i) s = .next ((srv (r a + BitVec.ofInt 64 i.toInt) (2 ^ z.toNat)).lightNext t c (put d (BitVec.ofNat 64 (leNat (bs.map (·.1))))))) ∧
      ((∃ x ∈ bs, x.2 = true) → exec (.xld d a z i) s = .next ((srv (r a + BitVec.ofInt 64 i.toInt) (2 ^ z.toNat)).lightError t c m 2 0))) ∧
    (∀ d a z i k, rd (r a + BitVec.ofInt 64 i.toInt) (2 ^ z.toNat) = .fail k → exec (.xld d a z i) s = .next (s.lightError t c m 3 k.code)) ∧
    (∀ d a b i, 32 ≤ (r a).toNat ∨ 8 * m.tile.length < (r b).toNat + i.toNat → exec (.xput d a b i) s = .next (s.lightError t c m 4 0)) ∧
    (∀ d a b i, (r a).toNat < 32 → (r b).toNat + i.toNat ≤ 8 * m.tile.length →
      (∀ bs, rd (r d) i.toNat = .bytes bs → bs.length = i.toNat →
        ∃ m' : Lighter, exec (.xput d a b i) s = .next ((srv (r d) i.toNat).lightNext t c { m' with pc := m.pc + 1 }) ∧ m' = { m with tile := m'.tile, tpois := m'.tpois } ∧ m'.tile.length = m.tile.length ∧
          ((∀ x ∈ bs, x.2 = false) → m'.tpois = m.tpois ∧ ∀ u < m.tile.length, ∀ k < 256, imgByte (m'.tile.getD u 0) k =
            if k / 8 = (r a).toNat ∧ (r b).toNat ≤ 8 * u + k % 8 ∧ 8 * u + k % 8 < (r b).toNat + i.toNat then (bs.map (·.1)).getD (8 * u + k % 8 - (r b).toNat) 0
            else imgByte (m.tile.getD u 0) k) ∧
          (∀ j < i.toNat, (bs.getD j (0, false)).2 = true → m.tpois.length = m.tile.length →
            ∃ w, m'.tpois[((r b).toNat + j) / 8]? = some (some w) ∧
              w = ((m.tpois.getD (((r b).toNat + j) / 8) none).getD .uncorrectable))) ∧
      (∀ k, rd (r d) i.toNat = .fail k → m.tpois.length = m.tile.length → ∃ m' : Lighter, on (.xput d a b i) { m' with pc := m.pc + 1 } ∧
        m' = { m with tpois := m'.tpois } ∧ ∀ u < m.tile.length, m'.tpois.getD u none =
          if ∃ j < i.toNat, ((r b).toNat + j) / 8 = u then some ((m.tpois.getD u none).getD k) else m.tpois.getD u none)) ∧
    -- errors
    (∀ a b, r a = r b → on (.xchk a b) { m with pc := m.pc + 1 }) ∧
    (∀ a b, r a ≠ r b → exec (.xchk a b) s = .next (s.lightError t c m 1 0)) ∧
    (∀ a n, s.onlyTraffic (srv a n)) ∧
    (∀ (u : State) (cause code : Nat),
      let m' : Lighter := { m with
        tile := List.replicate m.tile.length 0, tpois := List.replicate m.tile.length none, mask := 0, err := none, errors := m.errors + 1, pc := m.recov }
      let note : List Byte := leBytes 4 m.tileNo.toNat ++ [BitVec.ofNat 8 cause, BitVec.ofNat 8 code, 0, 0] ++ leBytes 4 (m.pc % 2 ^ 32).toNat ++ [0, 0, 0, 0]
      (area = 0 ∨ room ≤ m.errors → u.lightError t c m cause code = u.lightNext t c m') ∧
      (∀ pas, area ≠ 0 → m.errors < room → u.checkTlb (u.spaceOf t.num) .store (area + 16 * m.errors) 16 = .ok pas →
        u.lightError t c m cause code = (u.engWrite (.cmd t.num c.e c.seq) pas (note.map fun b => (b, false))).lightNext t c m')) ∧
    -- emission
    (∀ a, let es : List Entry := lightHeader m (r a) :: lightUnits m
      (s.engPush t q es = none → exec (.xemit a) s = .next s) ∧
      (∀ u, s.engPush t q es = some u → exec (.xemit a) s = .next (u.lightNext t c { m with
        tile := List.replicate m.tile.length 0, tpois := List.replicate m.tile.length none, mask := 0, tileNo := m.tileNo + 1, pc := m.pc + 1 })) ∧
      (lightHeader m (r a)).st = .ready ∧ (lightUnits m).length = m.tile.length ∧
      (∀ u < m.tile.length, (lightUnits m)[u]? = some (match m.tpois.getD u none with
        | some w => { st := .poisoned w, data := 0, psec := 0 } | none => { st := .ready, data := m.tile.getD u 0, psec := 0 })) ∧
      (lightHeader m (r a)).data.extractLsb' 0 16 = 0x0b01 ∧ ((lightHeader m (r a)).data.extractLsb' 16 8).toNat = m.tile.length % 256 ∧
      (lightHeader m (r a)).data.extractLsb' 32 32 = (r a).extractLsb' 0 32 ∧ (lightHeader m (r a)).data.extractLsb' 64 32 = m.tileNo ∧
      (lightHeader m (r a)).data.extractLsb' 128 32 = m.mask)

/-- O57. Each rule word of a running walk does what Table 14.11 gives it and adds one to the walk's count; a step resets the count, fills the node buffer
from the node and moves on. A program counter outside the program ends the walk as not found, as a null pointer does; the step limit or 256 words end
it with outcome 2; a misaligned node, an offset past the node and a failed access end it with outcome 3 and the cause. That a pnext whose read fails
counts as a step is the model's reading (log entry 26, DEDUCED). (R400, R401, R402, R403, R421.) -/
def Obligations.PilotWords : Prop :=
  ∀ (s : State) (t : Team) (c : Cmd) (p : PilotRun) (w : Walk), s.pilot? = some (t, c, p, w) →
    let r (n : BitVec 3) : Word := vget w.w n.toNat 0
    let nsz : Nat := 16 * 2 ^ fieldOf (vget c.q 4 0) 32 2
    let maxs : Nat := fieldOf (vget c.q 4 0) 16 16
    let waits : Prop := fieldOf (vget c.q 4 0) 34 1 = 1
    let ends (u : State) (x : Walk) (outcome cause : Nat) : Prop := ∃ t' c' p', u.team? t.num = some t' ∧ c' ∈ t'.cmds ∧ c'.e = 2 ∧ c'.seq = c.seq ∧
      c'.st = .running (.pilot p') ∧ p' = { p with walks := p.walks.map fun y => if y.key = w.key then { x with out := some (outcome, cause), failed := false } else y }
    let stops (i : Instr) (x : Walk) (outcome cause : Nat) : Prop := ∃ u, exec i s = .next u ∧ ends u x outcome cause ∧ u.mem.ram = s.mem.ram
    -- the walk goes on, or passes the last word
    (∀ x : Walk, x.key = w.key → x.started = true → x.out = none →
      (0 ≤ x.pc → x.pc < p.prog.length → ∃ t' c' p', (s.walkNext t c p x).pilot? = some (t', c', p', { x with failed := false }) ∧
        t'.num = t.num ∧ c'.seq = c.seq ∧ p'.prog = p.prog ∧ (∀ y ∈ p.walks, y.key ≠ w.key → y ∈ p'.walks)) ∧
      (x.pc < 0 ∨ p.prog.length ≤ x.pc → ends (s.walkNext t c p x) x 1 0)) ∧
    (256 ≤ w.count → ∀ d a b n z o k i19 i6 e, ∀ i ∈ [Instr.pend e, .pli d i19, .padd d a b i19, .psub d a b, .pmul d a b, .pand d a b, .pxor d a b, .pshr d a i6,
      .pshl d a i6, .pld d z o, .pldx d a z o, .pbr k a b n, .pnext a, .pwr a z o], stops i w 2 0) ∧
    (w.count < 256 →
      let put (d : BitVec 3) (v : Word) : Walk := { w with w := vset w.w d.toNat v, pc := w.pc + 1, count := w.count + 1 }
      let on (i : Instr) (x : Walk) : Prop := exec i s = .next (s.walkNext t c p x)
      (∀ e, stops (.pend e) w e.toNat 0) ∧
      (∀ d i, on (.pli d i) (put d (BitVec.ofInt 64 i.toInt))) ∧
      (∀ d a b i, on (.padd d a b i) (put d (r a + r b + BitVec.ofInt 64 i.toInt))) ∧
      (∀ d a b, on (.psub d a b) (put d (r a - r b))) ∧
      (∀ d a b, on (.pmul d a b) (put d (BitVec.ofNat 64 ((r a).toNat * (r b).toNat)))) ∧
      (∀ d a b, on (.pand d a b) (put d (BitVec.ofNat 64 ((r a).toNat &&& (r b).toNat)))) ∧
      (∀ d a b, on (.pxor d a b) (put d (BitVec.ofNat 64 ((r a).toNat ^^^ (r b).toNat)))) ∧
      (∀ d a n, on (.pshr d a n) (put d (BitVec.ofNat 64 ((r a).toNat / 2 ^ n.toNat)))) ∧
      (∀ d a n, on (.pshl d a n) (put d (BitVec.ofNat 64 ((r a).toNat * 2 ^ n.toNat)))) ∧
      (∀ k a b i, let holds : Prop := if k.toNat = 0 then r a = r b else if k.toNat = 1 then r a ≠ r b else
          if k.toNat = 2 then (r a).toNat < (r b).toNat else (r b).toNat ≤ (r a).toNat
        (holds → on (.pbr k a b i) { w with pc := w.pc + i.toInt, count := w.count + 1 }) ∧
        (¬ holds → on (.pbr k a b i) { w with pc := w.pc + 1, count := w.count + 1 })) ∧
      (∀ d (z : BitVec 2) (o : BitVec 8), let n := 2 ^ z.toNat
        (nsz < o.toNat + n → stops (.pld d z o) w 3 Cause.range.code) ∧
        (o.toNat + n ≤ nsz → w.buf = none → on (.pld d z o) (put d 0)) ∧
        (∀ b, o.toNat + n ≤ nsz → w.buf = some b → on (.pld d z o) (put d (BitVec.ofNat 64 (leNat ((b.drop o.toNat).take n)))))) ∧
      (∀ d a (z : BitVec 2) (o : BitVec 8), let n := 2 ^ z.toNat
        let off := ((r a).toNat + o.toNat) % 2 ^ 64
        (nsz < off + n → stops (.pldx d a z o) w 3 Cause.range.code) ∧
        (off + n ≤ nsz → w.buf = none → on (.pldx d a z o) (put d 0)) ∧
        (∀ b, off + n ≤ nsz → w.buf = some b → on (.pldx d a z o) (put d (BitVec.ofNat 64 (leNat ((b.drop off).take n)))))) ∧
      (∀ a, let va := (r a).toNat
        let got : EngGot := if w.failed = true then .fail .faultFailed else s.engRead (.walk t.num c.seq w.key) (s.spaceOf t.num) va nsz
        (va = 0 → stops (.pnext a) w 1 0) ∧
        (va ≠ 0 → w.steps = maxs → stops (.pnext a) w 2 0) ∧
        (va ≠ 0 → w.steps ≠ maxs → va % nsz ≠ 0 → stops (.pnext a) w 3 Cause.misaligned.code) ∧
        (va ≠ 0 → w.steps ≠ maxs → va % nsz = 0 →
          (∀ bs, got = .bytes bs → (∀ x ∈ bs, x.2 = false) →
            exec (.pnext a) s = .next ((s.engServed (s.spaceOf t.num) va nsz).walkNext t c p
              { w with steps := w.steps + 1, node := va, buf := some (bs.map (·.1)), count := 0, pc := w.pc + 1 })) ∧
          (∀ bs, got = .bytes bs → (∃ x ∈ bs, x.2 = true) → stops (.pnext a) { w with steps := w.steps + 1 } 3 Cause.uncorrectable.code) ∧
          (∀ k, got = .fail k → stops (.pnext a) { w with steps := w.steps + 1 } 3 k.code) ∧
          (∀ page kind, got = .fault page kind → ¬ waits → stops (.pnext a) { w with steps := w.steps + 1 } 3 Cause.faultFailed.code) ∧
          (∀ page kind n u, got = .fault page kind → waits → s.noRing = false →
            s.raiseFault (s.spaceOf t.num) t.num page kind (.walk t.num c.seq w.key .load) = some (n, u) → exec (.pnext a) s = .next u))) ∧
      (∀ a (z : BitVec 2) (o : BitVec 8), let n := 2 ^ z.toNat
        (w.buf = none ∨ nsz < o.toNat + n → stops (.pwr a z o) w 3 Cause.range.code) ∧
        (∀ b pas, w.failed = false → w.buf = some b → b.length = nsz → o.toNat + n ≤ nsz → s.checkTlb (s.spaceOf t.num) .store (w.node + o.toNat) n = .ok pas →
          ∃ b', exec (.pwr a z o) s =
              .next ((s.engWrite (.cmd t.num c.e c.seq) pas ((leBytes n (r a).toNat).map fun y => (y, false))).walkNext t c p { w with buf := some b', pc := w.pc + 1, count := w.count + 1 }) ∧
            b'.length = nsz ∧ ∀ j < nsz, b'.getD j 0 = if o.toNat ≤ j ∧ j < o.toNat + n then (leBytes n (r a).toNat).getD (j - o.toNat) 0 else b.getD j 0) ∧
        (∀ b k va, w.failed = false → w.buf = some b → o.toNat + n ≤ nsz → s.checkTlb (s.spaceOf t.num) .store (w.node + o.toNat) n = .error (.cause k va) →
          stops (.pwr a z o) w 3 k.code) ∧
        (∀ b page kind, w.buf = some b → o.toNat + n ≤ nsz → s.checkTlb (s.spaceOf t.num) .store (w.node + o.toNat) n = .error (.fault page kind) → ¬ waits →
          stops (.pwr a z o) w 3 Cause.faultFailed.code) ∧
        (∀ b, w.buf = some b → o.toNat + n ≤ nsz → w.failed = true → stops (.pwr a z o) w 3 Cause.faultFailed.code)))

/-- O58. A free port takes the eligible warp with the earliest eligibility time (a number of steps: log entry 57, DESIGN CHOICE), the lowest slot on a
tie, opens its clause with the class and count of its header, or goes on with a suspended one, and ends the spins of the port's other warps. A header
that fails its checks raises "illegal clause" at slot 0 with the number of the queue at fault or 0, a fetch that fails raises its own trap there, and
one that waits stalls its warp. A warp is eligible only when its header's waits are met (one resumed at slot 0 meets its header's waits again: log
entry 29, DEDUCED), one whose header waits for a queue is stalled on it (log entry 30, DEDUCED), and a suspended one is eligible only when its stall
has gone. The holder that stalls gives the port back, at any moment (log entry 98, DESIGN CHOICE), and keeps its place. A decoupling deadlock that has
held for 4,096 ns raises a trap (who counts as stalled: log entry 30, DEDUCED). A long-latency instruction completes. A queue entry whose load is
performed becomes Ready, or Poisoned with the cause of the lowest position that failed (R352). (R185, R186, R187, R199, R200, R207, R248, R250, R251,
R253, R254, R287.) -/
def Obligations.CoreEvents : Prop :=
  ∀ s : State,
    let u : State := s.stamp
    -- the check of a header
    (∀ (t : Team) (w : WarpId) (h : Word),
      let en (i : Nat) : Bool := h.getLsbD (46 - 7 * i)
      let n (i : Nat) : Nat := fieldOf h (40 - 7 * i) 6
      let bad (i : Nat) : Prop := if en i = true then ∀ q, t.queues[n i]? = some q → Team.consumes w q = false ∧ Team.produces w q = false else n i ≠ 0
      let form : Prop := fieldOf h 60 4 ≠ 15 ∨ 4 < fieldOf h 57 3 ∨ w.idx = 0 ∧ fieldOf h 57 3 = 1 ∨ w.idx ≠ 0 ∧ 2 < fieldOf h 57 3 ∨ fieldOf h 0 32 ≠ 0
      (form → hdrFault t w h = some 0) ∧ (¬ form → bad 0 → hdrFault t w h = some (n 0)) ∧
      (¬ form → ¬ bad 0 → bad 1 → hdrFault t w h = some (n 1)) ∧ (¬ form → ¬ bad 0 → ¬ bad 1 → hdrFault t w h = none)) ∧
    -- eligibility
    (∀ t ∈ s.hm.teams, ∀ (i : Nat) (x : Warp), t.warps[i]? = some x → ∃ t' ∈ u.hm.teams, t'.num = t.num ∧
      let x' : Warp := { x with stall := s.headerStall t ⟨t.num, i⟩ x }
      t'.warps[i]? = some { x' with elig := if x.elig = none ∧ s.eligible t ⟨t.num, i⟩ x' = true then some s.tick else x.elig }) ∧
    (∀ (t : Team) (w : WarpId) (x : Warp) (h : Word) (q : Nat) (y : Queue), x.clause = none → x.resumed = false → x.awake = true → s.peekHeader t w x = .word h → hdrFault t w h = none →
      fieldOf h 40 6 = q → h.getLsbD 46 = true → t.queues[q]? = some y →
      (Team.consumes w y = true → t.exhausted q y = false → y.headHere = false → s.headerStall t w x = some (.popQ q)) ∧
      (Team.consumes w y = false → y.hasRoom 1 = false → s.headerStall t w x = some (.pushQ q))) ∧
    (∀ (t : Team) (w : WarpId) (x : Warp), s.eligible t w x = true → x.resumed = true → t.st = .resident ∧
      (∀ n pos q, x.stall = some (.popQ n) ∧ pos = 0 ∨ x.stall = some (.popAt n pos) → t.queues[n]? = some q →
        (q.entries[pos]? = none ∧ t.exhausted n q = true ∨ ∃ e, q.entries[pos]? = some e ∧ e.st ≠ .issued ∧ e.st ≠ .pending)) ∧
      (∀ n k q, x.stall = some (.pushQ n) ∧ k = 1 ∨ x.stall = some (.room n k) → t.queues[n]? = some q → t.noConsumer q = true ∨ q.hasRoom k = true) ∧
      (∀ n g i, x.stall = some (.barrier n) → (s.teamBlock t).groups.find? (·.gnum == n) = some g → x.lastAt n = some i → i < g.results.length) ∧
      (∀ rs, x.stall = some (.regs rs) → ∀ r ∈ rs, s.vBusy { w := w, t := t, x := x } r = false) ∧
      (∀ fs, x.stall = some (.fields fs) → ∀ f ∈ fs, s.fieldBusy { w := w, t := t, x := x } (BitVec.ofNat 11 f) = false) ∧
      (∀ b, x.stall = some (.acks b) → x.holdSt = []) ∧ (∀ i, x.stall = some (.quiet i) → s.quiet { team := t.num, idx := i } = true) ∧
      (x.stall = some .look → x.lookaheadOut = false) ∧ (x.stall = some .held → s.heldBy t.core x = false) ∧
      (∀ e v, x.stall = some (.command e v) → (vget t.edone e 0 - v).toNat < 2 ^ 31)) ∧
    (∀ (t : Team) (w : WarpId) (x : Warp) (h : Word), s.eligible t w x = true → x.resumed = false → s.peekHeader t w x = .word h → hdrFault t w h = none →
      t.st = .resident ∧ x.ended = false ∧ x.spinning = false ∧ x.gridWait = false ∧ (s.core t.core).holds w = false ∧
      (∀ p < 6, h.getLsbD (47 + p) = true → ∀ l, x.window[p]? = some l → l.done = true) ∧
      (∀ i < 2, h.getLsbD (46 - 7 * i) = true → ∀ q, t.queues[fieldOf h (40 - 7 * i) 6]? = some q →
        (Team.consumes w q = true → t.exhausted (fieldOf h (40 - 7 * i) 6) q = true ∨
          ∃ d, q.entries.head? = some d ∧ (d.st = .ready ∨ ∃ k, d.st = .poisoned k)) ∧
        (Team.consumes w q = false → q.hasRoom 1 = true))) ∧
    -- CLAUSE_ISSUE
    (∀ core port, 64 ≤ core ∨ portValid port = false ∨ ((s.core core).holder port).isSome = true → exec (.clauseIssue core port) s = .next u) ∧
    (∀ core port, u.portChoices core port = [] → exec (.clauseIssue core port) s = .next u) ∧
    (∀ core < 64, ∀ port, portValid port = true → (s.core core).holder port = none →
      ∀ (e n : Nat) (w : WarpId), (e, n, w) ∈ u.portChoices core port →
      (∀ y ∈ u.portChoices core port, y = (e, n, w) ∨ e < y.1 ∨ e = y.1 ∧ n < y.2.1) →
      ∀ (t : Team) (x : Warp), u.team? w.team = some t → t.core = core → u.warp? w = some x →
      (∀ c, x.clause = some c → ∃ v, exec (.clauseIssue core port) s = .next v ∧ (v.core core).holder port = some w ∧
        v.warp? w = some { x with clause := some c, resumed := false, stall := none } ∧ v.mem.ram = s.mem.ram ∧
        (∀ (j : Nat) (y : Warp), j ≠ w.idx → u.warp? ⟨w.team, j⟩ = some y → portServes port j y = true →
          v.warp? ⟨w.team, j⟩ = some { y with spinning := false })) ∧
      (∀ (s' : State) (h : Word) (x' : Warp), x.clause = none → u.fetch { w := w, t := t, x := x } x.hdr = (s', .ok h) → s'.warp? w = some x' → hdrFault t w h = none →
        (x.resumed = false → hdrMet t w x h = false → ∃ v, exec (.clauseIssue core port) s = .next v ∧ (v.core core).holder port = none ∧ v.warp? w = some { x' with elig := none }) ∧
        (x.resumed = false → hdrMet t w x h = true → x'.resumed = false → h.getLsbD 32 = false → ∃ v, exec (.clauseIssue core port) s = .next v ∧ (v.core core).holder port = some w ∧
          v.warp? w = some { x' with
            clause := some { cls := fieldOf h 57 3, count := fieldOf h 53 4 + 1 }, resumed := false, stall := none }) ∧
        (x.resumed = true → x'.resumed = true → x'.slot < fieldOf h 53 4 + 1 → ∃ v, exec (.clauseIssue core port) s = .next v ∧ (v.core core).holder port = some w ∧
          v.warp? w = some { x' with
            clause := some { cls := fieldOf h 57 3, count := fieldOf h 53 4 + 1 }, resumed := false, stall := none }) ∧
        (x.resumed = true → x'.resumed = true → fieldOf h 53 4 + 1 ≤ x'.slot →
          exec (.clauseIssue core port) s = .next (s'.raiseInfo w { x'.trapInfo { cause := .illegalClause } with slot := 0, rep := 0 }))) ∧
      (∀ (s' : State) (h : Word) (x' : Warp) (n : Nat), x.clause = none → u.fetch { w := w, t := t, x := x } x.hdr = (s', .ok h) → s'.warp? w = some x' → hdrFault t w h = some n →
        exec (.clauseIssue core port) s = .next (s'.raiseInfo w { x'.trapInfo { cause := .illegalClause, reg := n } with slot := 0, rep := 0 })) ∧
      (∀ (s' : State) (q : TrapReq), x.clause = none → u.fetch { w := w, t := t, x := x } x.hdr = (s', .error (.trap q)) →
        exec (.clauseIssue core port) s = .next (s'.raiseInfo w { x.trapInfo q with slot := 0, rep := 0 })) ∧
      (∀ (s' : State) (y : Stall) (x' : Warp), x.clause = none → u.fetch { w := w, t := t, x := x } x.hdr = (s', .error (.stall y)) → s'.warp? w = some x' →
        ∃ v, exec (.clauseIssue core port) s = .next v ∧ (v.core core).holder port = (s'.core core).holder port ∧ v.warp? w = some { x' with stall := some y, elig := none })) ∧
    -- CLAUSE_SUSPEND
    (∀ core port, (s.core core).holder port = none → exec (.clauseSuspend core port) s = .next s) ∧
    (∀ core < 64, ∀ (port : Port) (w : WarpId) (t : Team) (x : Warp), portValid port = true → (s.core core).holder port = some w → s.team? w.team = some t →
      t.core = core → s.warp? w = some x →
      (x.stall = none → t.st = .resident → exec (.clauseSuspend core port) s = .next s) ∧
      (x.stall.isSome = true ∨ t.st ≠ .resident → ∃ v, exec (.clauseSuspend core port) s = .next v ∧ (v.core core).holder port = none ∧
        v.warp? w = some { x with resumed := true } ∧ v.mem.ram = s.mem.ram ∧
        ∀ p y, (s.core core).holder p = some y → y ≠ w → (v.core core).holder p = some y)) ∧
    -- DECOUPLING_DEADLOCK
    (∀ (t : Team) (x : Warp), s.team? t.num = some t → t.warps[0]? = some x → ∀ a n q, t.deadAt = some a → t.deadOn x = some (n, q) → t.deadlocked = true →
      (4096 ≤ (s.memCount t.core - a).toNat → exec (.decouplingDeadlock t.num) s = .next (s.raise ⟨t.num, 0⟩ { cause := .decouplingDeadlock, reg := 1536 + n })) ∧
      ((s.memCount t.core - a).toNat < 4096 → exec (.decouplingDeadlock t.num) s = .next s)) ∧
    -- LONG_LATENCY_COMPLETE
    (∀ (w : WarpId) (x : Warp) (pos : Nat) (l : LongLat), s.warp? w = some x → x.window[pos]? = some l →
      (l.done = true ∨ l.grid = true → ∃ v, exec (.longLatencyComplete w.team w.idx pos) s = .next v ∧ v.warp? w = some x ∧ v.mem = s.mem) ∧
      (l.done = false → l.grid = false → ∃ v, exec (.longLatencyComplete w.team w.idx pos) s = .next v ∧ v.mem = s.mem ∧
        v.warp? w = some { x with window := x.window.map fun y => if y.tok = l.tok then { y with done := true, left := none } else y })) ∧
    -- QUEUE_ENTRY_READY
    (∀ core < 64, ∀ (n : Nat) (l : PendLoad) (q slot : Nat) (g : BitVec 2) (t : Team) (y : Queue) (i : Nat) (d : Entry),
      ((s.core core).loads.filter s.entryDue)[n]? = some l → l.dst = .entry q slot g → l.need = [] → l.faulted = [] → l.gather = none → l.later = [] →
      s.team? l.w.team = some t → t.queues[q]? = some y → y.find slot g = some i → y.entries[i]? = some d → (d.st = .issued ∨ d.st = .pending) →
      ∃ v t' y', exec (.queueEntryReady core n) s = .next v ∧ (∀ z ∈ (v.core core).loads, z.tok ≠ l.tok) ∧ v.team? l.w.team = some t' ∧ t'.queues[q]? = some y' ∧
        y'.entries.length = y.entries.length ∧ (∀ j, j ≠ i → y'.entries[j]? = y.entries[j]?) ∧
        (l.bad = [] → y'.entries[i]? = some { st := .ready, data := l.image, psec := 0 }) ∧
        (l.bad ≠ [] → ∃ p k, (p, k) ∈ l.bad ∧ (∀ z ∈ l.bad, p ≤ z.1) ∧ y'.entries[i]? = some { st := .poisoned k, data := 0, psec := 0 }))

/-- O59. push and spawn append the command made of eight k registers under the queue's next number, or refuse it with 16 outstanding. The command at the
front of a queue is checked and starts once its predecessors have completed and its engine is free, while those before it run on (log entry 56, DESIGN
CHOICE): the Lighter of a core takes commands in push order over its teams, a collective list in push order, a stream context one at a time; a decode
command whose context another team has taken meanwhile is bad (log entry 64); one suspended goes on. A completion arrives at the group, writes its
record and advances edone. The copy engine writes what it read, or pushes it as an entry, sector after sector of a unit of 256 bytes (its points: log
entry 65, DEDUCED), reading the index of each row that begins, and stops at a failing access. A Lighter or Pilot program is read and checked; a
Lighter command ends at its limit; a walk starts with its key, and the walks' results enter the queue in key order. (R373, R374, R375, R383, R384,
R385, R386, R388, R390, R391, R397, R403.) -/
def Obligations.EngineEvents : Prop :=
  ∀ s : State,
    -- push and spawn
    (∀ (c : Ctx) (f : PushF) (p : Nat) (i : Instr) (e : Nat), s.ctx? = some c → s.memFree c → f.d.toNat = 1728 + p → p < 8 → 1664 ≤ f.a.toNat → f.a.toNat ≤ 1720 →
      (i = .push f ∧ e = f.e.toNat) ∨ (i = .spawn f ∧ e = 4) →
      (c.x.cond f.g = false → ∃ t u, exec i s = .next t ∧ retiredIn c t ∧ t.team? c.w.team = some u ∧ u.cmds = c.t.cmds ∧ u.eseq = c.t.eseq) ∧
      (c.x.cond f.g = true → 16 ≤ (c.t.cmds.filter fun x => x.e == e).length → ∃ t u y, exec i s = .next t ∧ retiredIn c t ∧ t.team? c.w.team = some u ∧
        u.cmds = c.t.cmds ∧ u.eseq = c.t.eseq ∧ t.warp? c.w = some y ∧ ∀ j < 32, mbit (vget y.p p 0) j = true) ∧
      (c.x.cond f.g = true → (c.t.cmds.filter fun x => x.e == e).length < 16 → ∃ t u y cmd, exec i s = .next t ∧ retiredIn c t ∧ t.team? c.w.team = some u ∧
        u.cmds = c.t.cmds ++ [cmd] ∧ u.eseq = vset c.t.eseq e (vget c.t.eseq e 0 + 1) ∧ u.edone = c.t.edone ∧ t.warp? c.w = some y ∧ vget y.p p 0 = 0 ∧
        cmd.e = e ∧ cmd.seq = vget c.t.eseq e 0 + 1 ∧ cmd.st = .queued ∧ ∀ j < 8, vget cmd.q j 0 = vget c.x.k (f.a.toNat - 1664 + j) 0)) ∧
    -- the head of a queue
    (∀ (t : Team) (e : Nat), s.team? t.num = some t → t.runsEngines = true →
      let put (i : Instr) (c : Cmd) (st : CmdState) (susp : Bool) : Prop := ∃ u t' c', exec i s = .next u ∧ u.team? t.num = some t' ∧ c' ∈ t'.cmds ∧ c'.e = e ∧
        c'.seq = c.seq ∧ c'.q = c.q ∧ c'.st = st ∧ c'.suspended = susp ∧ t'.edone = t.edone ∧ u.mem = s.mem
      let i : Instr := .engineCommandStart t.num e
      (e = 4 → exec i s = .next s) ∧
      (∀ c : Cmd, c.e ≠ 4 → (fieldOf (vget c.q 0 0) 0 8 = 0 ∨ (vget c.q 0 0).getLsbD 31 = true ∨ c.badPre = true) → s.cmdBad t c = true) ∧
      (∀ c, e ≠ 4 → t.suspendedOn e = none → t.front e = some c →
        (c.st = .queued → s.cmdBad t c = true → put i c (.finished 1 0 0) c.suspended) ∧
        (c.st = .queued → s.cmdBad t c = false → put i c .checked c.suspended) ∧
        (c.st = .checked → t.st ≠ .saving → (∀ x ∈ c.pre, (vget t.edone x.1 0 - x.2).toNat < 2 ^ 31) → s.afterDone t c = true → s.engineFree t c = true →
          s.streamLost t c = true → put i c (.finished 1 0 0) c.suspended) ∧
        (c.st = .checked → t.st ≠ .saving → (∀ x ∈ c.pre, (vget t.edone x.1 0 - x.2).toNat < 2 ^ 31) → s.afterDone t c = true → s.engineFree t c = true →
          s.streamLost t c = false → put i c (.running c.begin) c.suspended ∧ ∀ u, exec i s = .next u → t.core < 64 →
            (e = 0 → (t.num, c.seq) ∈ (u.core t.core).copyCmd) ∧ (e = 1 → (u.core t.core).lightCmd = some (t.num, c.seq))) ∧
        (c.st = .checked → (∃ x ∈ c.pre, 2 ^ 31 ≤ (vget t.edone x.1 0 - x.2).toNat) → exec i s = .next s) ∧
        (e = 0 ∨ e = 2 → s.engineFree t c = true) ∧
        (c.st = .checked → e = 1 → (∃ u ∈ s.hm.teams, ∃ d, u.core = t.core ∧ u.num ≠ t.num ∧ (u.st = .resident ∨ u.st = .parked) ∧ d.ord < c.ord ∧
          (u.suspendedOn 1 = some d ∨ u.front 1 = some d ∧ d.preDone u = true ∧ s.afterDone u d = true)) → exec i s = .next s) ∧
        (c.st = .checked → e = 3 → (∃ u ∈ s.hm.teams, ∃ d ∈ u.cmds, d.e = 3 ∧ d.ord < c.ord ∧ fieldOf (vget d.q 4 0) 40 6 = fieldOf (vget c.q 4 0) 40 6 ∧
          (d.st = .queued ∨ d.st = .checked ∨ ∃ p, d.st = .running p)) → exec i s = .next s) ∧
        (c.st = .checked → 8 ≤ e → (∃ u ∈ s.hm.teams, ∃ d ∈ u.cmds, d.e = e ∧ d.ord ≠ c.ord ∧ fieldOf (vget d.q 3 0) 48 3 = fieldOf (vget c.q 3 0) 48 3 ∧ d.suspended = false ∧
          ∃ p, d.st = .running p) → exec i s = .next s)) ∧
      (∀ c p, e ≠ 4 → t.suspendedOn e = some c → c.st = .running p → t.st ≠ .saving → s.engineFree t c = true → put i c (.running p) false) ∧
      -- completion
      (∀ c, t.head e = some c → ∀ st cause count, c.st = .finished st cause count → c.holding = false →
        ((∃ w ∈ s.links.apWrites, w.own = .cmd t.num c.e c.seq) → exec (.commandComplete t.num e) s = .next s) ∧
        ((∀ w ∈ s.links.apWrites, w.own ≠ .cmd t.num c.e c.seq) →
        let done (u : State) : Prop := exec (.commandComplete t.num e) s = .next u ∧ ∃ t', u.team? t.num = some t' ∧
          t'.cmds = t.cmds.filter (fun x => !(x.e == c.e && x.seq == c.seq)) ∧ (e < 16 → vget t'.edone e 0 = c.seq)
        (c.group = none → c.crec = 0 → ∃ u, done u ∧ u.mem = s.mem ∧ u.hm.blocks = (s.complete t c).hm.blocks) ∧
        (∀ pas, c.group = none → c.crec ≠ 0 → c.failed = false → s.checkTlb (s.spaceOf t.num) .store c.crec 16 = .ok pas → ∃ u, done u ∧
          u.mem = (s.engWrite (.cmd t.num c.e c.seq) pas ((leBytes 4 c.seq.toNat ++ [BitVec.ofNat 8 st, BitVec.ofNat 8 cause, 0, 0] ++ leBytes 8 count).map fun b => (b, false))).mem) ∧
        (∀ g, c.group = some g → c.crec = 0 → s.groupHolds t c = true → (e < 8 ∨ st = 1) →
          ∃ u, done u ∧ u.hm.blocks = ((s.arrive t.block g (.chan (chanOf e)) (st != 0)).complete t c).hm.blocks)))) ∧
    -- the copy engine
    (∀ (t : Team) (c : Cmd) (off misses idx : Nat) (gather : Bool),
      s.running? t.num 0 = some (t, c, if gather then .gather off misses idx else .copy off) → c.kind = (if gather then 2 else 1) → c.failed = false →
      let len : Nat := if gather then fieldOf (vget c.q 4 0) 48 13 * fieldOf (vget c.q 4 0) 32 16 else fieldOf (vget c.q 4 0) 0 32
      let stop : Nat := min len ((off / 256 + 1) * 256)
      let i : Instr := if gather then .rowGather t.num else .copyLinear t.num
      let src : Nat := fieldOf (vget c.q 2 0) 0 52
      let dst : Nat := fieldOf (vget c.q 3 0) 0 52
      let ssh : Bool := (vget c.q 2 0).getLsbD 52
      let dsh : Bool := (vget c.q 3 0).getLsbD 52
      let dq : Bool := (vget c.q 3 0).getLsbD 53
      let headSt (u : State) (st : CmdState) : Prop := ∃ t' c', u.team? t.num = some t' ∧ c' ∈ t'.cmds ∧ c'.e = 0 ∧ c'.seq = c.seq ∧ c'.st = st
      (len ≤ off → ∃ u, exec i s = .next u ∧ headSt u (.finished 0 0 (if gather then misses else 0)) ∧ u.mem = s.mem) ∧
      (gather = false → off < len → dq = false → stop - off ≤ 16 →
        (∀ bs v, s.copyRead t c ssh (src + off) (stop - off) = .bytes bs → s.copyWrite t c dsh (dst + off) bs = .ok v → ∃ u, exec i s = .next u ∧
          u.mem.ram = v.mem.ram ∧ u.hm.blocks = v.hm.blocks ∧ headSt u (if stop = len then .finished 0 0 0 else .running (.copy stop))) ∧
        (∀ k, s.copyRead t c ssh (src + off) (stop - off) = .fail k → ∃ u, exec i s = .next u ∧ u.mem = s.mem ∧ headSt u (.finished 2 k.code off))) ∧
      (gather = false → off < len → dq = true → ssh = false → ∀ (bs : List (Byte × Bool)) (v : State), bs.length = stop - off →
        (∀ k, 16 * k < stop - off → s.engRead (.cmd t.num c.e c.seq) (s.spaceOf t.num) (src + off + 16 * k) (min 16 (stop - off - 16 * k)) =
          .bytes ((bs.drop (16 * k)).take 16)) →
        s.engPush t (fieldOf (vget c.q 3 0) 0 6) [if ∃ x ∈ bs, x.2 = true then { st := .poisoned .uncorrectable, data := 0, psec := 0 }
          else { st := .ready, data := ofBytes (bs.map (·.1)), psec := 0 }] = some v →
        ∃ u t' v', exec i s = .next u ∧ headSt u (if stop = len then .finished 0 0 0 else .running (.copy stop)) ∧ u.mem.ram = s.mem.ram ∧
          u.team? t.num = some t' ∧ v.team? t.num = some v' ∧ t'.queues = v'.queues) ∧
      (gather = true → off < len → dq = false → stop - off ≤ 16 →
        let row : Nat := fieldOf (vget c.q 4 0) 32 16
        let n : Nat := off / row
        let at_ : Nat := dst + n * fieldOf (vget c.q 6 0) 0 32 + 16 * ((off % row / 16) ^^^ (n % 2 ^ fieldOf (vget c.q 6 0) 32 4))
        off % row = 0 → ∀ ib, s.engRead (.cmd t.num c.e c.seq) (s.spaceOf t.num) (fieldOf (vget c.q 5 0) 0 52 + 4 * n) 4 = .bytes ib → (∀ x ∈ ib, x.2 = false) →
          let x := leNat (ib.map (·.1))
          let nrow := fieldOf (vget c.q 4 0) 0 32
          (nrow ≤ x → ∀ v, s.copyWrite t c dsh at_ (List.replicate (stop - off) (0, false)) = .ok v → ∃ u, exec i s = .next u ∧ u.mem.ram = v.mem.ram ∧
            u.hm.blocks = v.hm.blocks ∧ headSt u (if stop = len then .finished 0 0 (misses + 1) else .running (.gather stop (misses + 1) x))) ∧
          (x < nrow → ∀ bs v, s.copyRead t c ssh (src + x * row) (stop - off) = .bytes bs → s.copyWrite t c dsh at_ bs = .ok v → ∃ u, exec i s = .next u ∧
            u.mem.ram = v.mem.ram ∧ u.hm.blocks = v.hm.blocks ∧ headSt u (if stop = len then .finished 0 0 misses else .running (.gather stop misses x)))) ∧
      -- a whole unit, from any place of it
      (∀ (v : Nat → State) (p : Nat → CopyPos) (b : Nat → List (Byte × Bool)), off < len → v 0 = s → p 0 = { off := off, misses := if gather then misses else 0, idx := if gather then idx else 0 } →
        let good (n : Nat) : Prop := ∀ k < n, (v k).copiesSector t c stop (p k) (p (k + 1)) (b k) (v (k + 1))
        let at_ (q : CopyPos) : CmdState := .running (if gather then .gather q.off q.misses q.idx else .copy q.off)
        let K := (stop - off + 15) / 16
        (good K → dq = false → ∃ u, exec i s = .next u ∧ u.mem.ram = (v K).mem.ram ∧ u.hm.blocks = (v K).hm.blocks ∧ (p K).off = stop ∧
          headSt u (if stop = len then .finished 0 0 (p K).misses else at_ (p K))) ∧
        (good K → dq = true →
          let es : List Entry := let bs := (List.range K).flatMap b
            [if ∃ x ∈ bs, x.2 = true then { st := .poisoned .uncorrectable, data := 0, psec := 0 } else { st := .ready, data := ofBytes (bs.map (·.1)), psec := 0 }]
          ((v K).engPush t (fieldOf (vget c.q 3 0) 0 6) es = none → ∃ u, exec i s = .next u ∧ headSt u (at_ (p 0)) ∧ u.mem.ram = s.mem.ram) ∧
          (∀ w, (v K).engPush t (fieldOf (vget c.q 3 0) 0 6) es = some w → ∃ u t' w', exec i s = .next u ∧ u.mem.ram = s.mem.ram ∧ u.team? t.num = some t' ∧
            w.team? t.num = some w' ∧ t'.queues = w'.queues ∧ headSt u (if stop = len then .finished 0 0 (p K).misses else at_ (p K)))) ∧
        (∀ k n, n < K → good n → (v n).copySource t c ((v n).copyIndex t c (p n)).2 (min 16 (stop - (p n).off)) = .fail k → (∃ ib, ((v n).copyIndex t c (p n)).1 = .bytes ib) →
          ∃ u, exec i s = .next u ∧ u.mem.ram = (v n).mem.ram ∧ u.hm.blocks = (v n).hm.blocks ∧ headSt u (.finished 2 k.code (p n).off)) ∧
        (∀ k n, n < K → good n → ((v n).copyIndex t c (p n)).1 = .fail k →
          ∃ u, exec i s = .next u ∧ u.mem.ram = (v n).mem.ram ∧ u.hm.blocks = (v n).hm.blocks ∧ headSt u (.finished 2 k.code (p n).off)))) ∧
    -- Lighter and Pilot commands
    (∀ (t : Team) (c : Cmd) (m : Lighter), s.running? t.num 1 = some (t, c, .lighter m) → m.prog = [] → c.failed = false →
      let headSt (u : State) (st : CmdState) : Prop := ∃ t' c', u.team? t.num = some t' ∧ c' ∈ t'.cmds ∧ c'.e = 1 ∧ c'.seq = c.seq ∧ c'.st = st
      let got : WordsGot := s.engWords (.cmd t.num c.e c.seq) (s.spaceOf t.num) (fieldOf (vget c.q 2 0) 52 12 + 1) (fieldOf (vget c.q 2 0) 0 52)
      (∀ ws, got = .words ws → lighterProgOk ws = true → ∃ u, exec (.lighterRun t.num) s = .next u ∧ headSt u (.running (.lighter { m with prog := ws }))) ∧
      (∀ ws, got = .words ws → (∃ x ∈ ws, decodeX x = none) → ∃ u, exec (.lighterRun t.num) s = .next u ∧ headSt u (.finished 1 0 0) ∧ u.mem.ram = s.mem.ram) ∧
      (∀ k, got = .fail k → ∃ u, exec (.lighterRun t.num) s = .next u ∧ headSt u (.finished 1 k.code 0) ∧ u.mem = s.mem)) ∧
    (∀ (core : Nat) (t : Team) (c : Cmd) (m : Lighter), s.lighterOn core = some (t, c, m) → m.err = none →
      let limit : Nat := if fieldOf (vget c.q 3 0) 16 32 = 0 then 2 ^ 32 else fieldOf (vget c.q 3 0) 16 32
      (m.run < limit → exec (.lighterLimit core) s = .next s) ∧
      (limit ≤ m.run → ∃ u t' c', exec (.lighterLimit core) s = .next u ∧ u.team? t.num = some t' ∧ c' ∈ t'.cmds ∧ c'.e = 1 ∧ c'.seq = c.seq ∧
        c'.st = .finished 4 0 m.errors ∧ u.mem = s.mem)) ∧
    (∀ (t : Team) (c : Cmd) (p : PilotRun), s.running? t.num 2 = some (t, c, .pilot p) → c.failed = false →
      let headSt (u : State) (st : CmdState) : Prop := ∃ t' c', u.team? t.num = some t' ∧ c' ∈ t'.cmds ∧ c'.e = 2 ∧ c'.seq = c.seq ∧ c'.st = st
      let got : WordsGot := s.engWords (.cmd t.num c.e c.seq) (s.spaceOf t.num) (fieldOf (vget c.q 2 0) 52 5 + 1) (fieldOf (vget c.q 2 0) 0 52)
      let nk : Nat := fieldOf (vget c.q 4 0) 8 8 + 1
      (∀ ws, p.prog = [] → got = .words ws → pilotProgOk ws = true → ∃ u, exec (.pilotWalk t.num) s = .next u ∧ headSt u (.running (.pilot { p with prog := ws }))) ∧
      (∀ ws, p.prog = [] → got = .words ws → (∃ x ∈ ws, decodeP x = none) → ∃ u, exec (.pilotWalk t.num) s = .next u ∧ headSt u (.finished 1 0 0) ∧ u.mem.ram = s.mem.ram) ∧
      (∀ bs, p.prog ≠ [] → (∀ y ∈ p.walks, (y.started = true ∨ y.out.isSome = true) ∧ y.key < p.next) → p.next < nk →
        (p.walks.filter fun y => y.out.isNone).length < 32 →
        s.engRead (.walk t.num c.seq p.next) (s.spaceOf t.num) (fieldOf (vget c.q 3 0) 0 52 + 8 * p.next) 8 = .bytes bs → (∀ x ∈ bs, x.2 = false) →
        ∃ u w, exec (.pilotWalk t.num) s = .next u ∧ headSt u (.running (.pilot { p with next := p.next + 1, walks := p.walks ++ [w] })) ∧ u.mem.ram = s.mem.ram ∧
          w.key = p.next ∧ w.started = true ∧ w.steps = 0 ∧ w.pc = 0 ∧ w.node = 0 ∧ w.buf = none ∧ w.out = none ∧
          w.w = #v[BitVec.ofNat 64 (leNat (bs.map (·.1))), vget c.q 5 0, vget c.q 6 0, vget c.q 7 0, 0, 0, 0, 0]) ∧
      (∀ (w : Walk) (rest : List Walk) (o k : Nat), p.walks = w :: rest → w.out = some (o, k) →
        let ent : Entry := w.entry o k
        let limits : Nat := p.limits + (if o = 2 then 1 else 0)
        let faults : Nat := p.faults + (if o = 3 then 1 else 0)
        ent.st = .ready ∧ (w.node < 2 ^ 64 → (ent.data.extractLsb' 0 64).toNat = w.node) ∧ (w.steps < 2 ^ 32 → (ent.data.extractLsb' 64 32).toNat = w.steps) ∧
        (o < 4 → (ent.data.extractLsb' 96 8).toNat = o) ∧ (k < 256 → (ent.data.extractLsb' 104 8).toNat = k) ∧
        (∀ j < 8, ent.data.extractLsb' (128 + 64 * j) 64 = vget w.w j 0) ∧
        (∀ b, w.buf = some b → b.length ≤ 128 → ∀ j < b.length, ent.data.extractLsb' (640 + 8 * j) 8 = b.getD j 0) ∧
        (s.engPush t (fieldOf (vget c.q 4 0) 0 6) [ent] = none → exec (.pilotResultDelivery t.num) s = .next s) ∧
        ((vget c.q 0 0).getLsbD 9 = true → (∃ w ∈ s.links.apWrites, w.own = .cmd t.num c.e c.seq) → exec (.pilotResultDelivery t.num) s = .next s) ∧
        (∀ v, ((vget c.q 0 0).getLsbD 9 = false ∨ ∀ w ∈ s.links.apWrites, w.own ≠ .cmd t.num c.e c.seq) →
          s.engPush t (fieldOf (vget c.q 4 0) 0 6) [ent] = some v → ∃ u, exec (.pilotResultDelivery t.num) s = .next u ∧ u.mem = s.mem ∧
          headSt u (if p.done + 1 = nk then .finished (if faults ≠ 0 then 5 else if limits ≠ 0 then 4 else 0) 0 (limits + faults)
            else .running (.pilot { p with walks := rest, done := p.done + 1, limits := limits, faults := faults })))))

/-- O60. A collective whose members' contributions name the same operation writes its kind's result and ends with status 0; a mismatch ends it with status
1, and otherwise a lost member with status 3; a lost member beside either makes every later command on the list end with status 3. A reduce leaves
nothing to a member that is not its root, and a barrier nothing to any (log entry 63), a ring's cut that the count does not divide is a free value,
and a poisoned source ends with status 2 (log entry 62); the domain's en bit does not enter (log entry 127; all three DEDUCED). A small reduction
folds to a power of two and doubles; a large one combines along the ring. A decode command begins or continues the stream of its context, or ends as
bad when another team holds it, the owner looked at again at its start (log entry 64, DEDUCED, as is one tile in each event). A frame's bytes are read
in order; a missing frame counts as an error, and every frame after it, or of no bytes at all, is missing; a decoder in a group arrives once its
writes to the host have been performed; the tiles of a corrupt frame from its error on are in the zero form, all of them where the error stands in a
header or a reference; a frame's tiles are written or pushed, one in each event, and after the last its slots are valid if it is not corrupt; a frame
is corrupt by a failed read, an excluded sequence header or its own error. That the contributions arrive with the event is the model's choice (log
entry 32), and what a bitstream decodes to is a free value (log entry 7). (R62, R63, R65, R66, R69, R70, R385, R404, R405, R406, R408, R409.) -/
def Obligations.CollectiveAndDecode : Prop :=
  ∀ s : State,
    (∀ (t : Team) (c : Cmd) (others : List Contribution), s.running? t.num 3 = some (t, c, .coll) → c.failed = false →
      let l := s.collList (fieldOf (vget c.q 4 0) 40 6)
      let self := s.links.self.toNat
      let len := c.collBytes self
      let k := l.rank self
      let headSt (u : State) (st : CmdState) : Prop := ∃ t' c', u.team? t.num = some t' ∧ c' ∈ t'.cmds ∧ c'.e = 3 ∧ c'.seq = c.seq ∧ c'.st = st
      ∀ (i : Instr) (xs : List (Option Contribution)),
      (c.kind = 1 ∧ i = .allReduce t.num xs) ∨ (c.kind = 2 ∧ i = .reduceScatter t.num xs) ∨ (c.kind = 3 ∧ i = .reduce t.num xs) ∨
        (c.kind = 4 ∧ i = .allGather t.num xs) ∨ (c.kind = 5 ∧ i = .broadcast t.num xs) ∨ (c.kind = 6 ∧ i = .collectiveBarrier t.num xs) →
      (l.lost = true → ∃ u, exec i s = .next u ∧ headSt u (.finished 3 0 0)) ∧
      (l.lost = false → c.collFits l self xs = true →
      (xs = others.map some → (∀ y ∈ others, c.collSame y = true) → ∀ own out v,
        s.readRunOf (.cmd t.num c.e c.seq) (s.spaceOf t.num) (len / 16 + 2) (fieldOf (vget c.q 2 0) 0 52) len = .bytes own →
        (let data : List (List Byte) := (others.take k).map (·.data) ++ own :: (others.drop k).map (·.data)
          let z := accSize c.collTy
          let elem (n : Nat) : List Byte := leBytes z (reduceElem c.collTy c.collOp c.collCount n (data.map fun d => leNat ((d.drop (n * z)).take z)))
          out = if c.kind = 1 ∨ (c.kind = 3 ∧ self = c.collRoot) then (List.range c.collCount).flatMap elem
            else if c.kind = 2 then (List.range (c.collCount / data.length)).flatMap fun n => elem (k * (c.collCount / data.length) + n)
            else if c.kind = 4 then data.flatten else if c.kind = 5 then data.getD (l.rank c.collRoot) [] else []) →
        s.writeRunOf (.cmd t.num c.e c.seq) (s.spaceOf t.num) (out.length / 16 + 2) (fieldOf (vget c.q 3 0) 0 52) out = (v, none) →
        ∃ u, exec i s = .next u ∧ headSt u (.finished 0 0 0) ∧ u.mem.ram = v.mem.ram ∧ .coll own ∈ u.sent) ∧
      (none ∈ xs → (∀ y, some y ∈ xs → c.collSame y = true) → ∃ u, exec i s = .next u ∧ headSt u (.finished 3 0 0) ∧
        ((fieldOf (vget c.q 4 0) 40 6) < s.links.lists.length → (u.collList (fieldOf (vget c.q 4 0) 40 6)).lost = true)) ∧
      ((∃ y, some y ∈ xs ∧ c.collSame y = false) → ∃ u, exec i s = .next u ∧ headSt u (.finished 1 0 0) ∧ u.mem = s.mem ∧
        (none ∈ xs → (fieldOf (vget c.q 4 0) 40 6) < s.links.lists.length → (u.collList (fieldOf (vget c.q 4 0) 40 6)).lost = true)))) ∧
    -- the combining orders
    (∀ (ty : BitVec 4) (op : BitVec 3) (count n x y z w : Nat), let f (p q : Nat) : Nat := atomOp ty op p q 0
      (count * accSize ty ≤ 4096 → reduceElem ty op count n [x, y] = f x y ∧ reduceElem ty op count n [x, y, z] = f (f x z) y ∧
        reduceElem ty op count n [x, y, z, w] = f (f x y) (f z w)) ∧
      (4096 < count * accSize ty → count % 3 = 0 → 3 ≤ count →
        (n < count / 3 → reduceElem ty op count n [x, y, z] = f (f y z) x) ∧
        (count / 3 ≤ n → n < 2 * (count / 3) → reduceElem ty op count n [x, y, z] = f (f z x) y) ∧
        (2 * (count / 3) ≤ n → n < count → reduceElem ty op count n [x, y, z] = f (f x y) z))) ∧
    -- AV1
    (∀ unit < 8, ∀ (t : Team) (c : Cmd) (r : Av1Run), s.running? t.num (8 + unit) = some (t, c, .av1 r) → c.failed = false →
      let n : Nat := fieldOf (vget c.q 3 0) 48 3
      let x := s.av1Ctx unit n
      let frames : Nat := fieldOf (vget c.q 3 0) 32 16
      let headSt (u : State) (st : CmdState) : Prop := ∃ t' c', u.team? t.num = some t' ∧ c' ∈ t'.cmds ∧ c'.e = 8 + unit ∧ c'.seq = c.seq ∧ c'.st = st
      let part : Av1Part := { annexb := (vget c.q 3 0).getLsbD 52, op := fieldOf (vget c.q 3 0) 57 5, grain := (vget c.q 3 0).getLsbD 53, frames := 0, bytes := [], mark := 0 }
      (r.begun = false → x.owner.isSome = true → x.owner ≠ some t.num →
        ∃ u, exec (.av1Decode t.num unit) s = .next u ∧ headSt u (.finished 1 0 0) ∧ u.mem = s.mem ∧ u.av1Ctx unit n = x) ∧
      (r.begun = false → (x.owner = none ∨ x.owner = some t.num) →
        ∃ u, exec (.av1Decode t.num unit) s = .next u ∧ headSt u (.running (.av1 { r with begun := true })) ∧ u.mem = s.mem ∧
          u.av1Ctx unit n = (if (vget c.q 3 0).getLsbD 51 = true then { owner := some t.num, slots := 0, parts := [part], excluded := false, unread := false } else { x with parts := x.parts ++ [part] }) ∧
          ∀ m < 8, m ≠ n → u.av1Ctx unit m = s.av1Ctx unit m) ∧
      (r.begun = false → exec (.av1Frame t.num unit) s = .next s) ∧
      (r.begun = true → r.ended = true ∨ fieldOf (vget c.q 3 0) 0 32 = 0 →
        (c.group.isSome = true → (∃ w ∈ s.links.apWrites, w.own = .cmd t.num c.e c.seq) → exec (.av1Frame t.num unit) s = .next s) ∧
        (c.group = none → ∃ u, exec (.av1Frame t.num unit) s = .next u ∧ u.mem = s.mem ∧ headSt u (if r.frame + 1 = frames then .finished 5 0 (r.bad + 1) else .running (.av1 { r with
          frame := r.frame + 1, pos := 0, tileNo := if (vget c.q 5 0).getLsbD 32 = true then 0 else r.tileNo, bad := r.bad + 1, waitFor := none })))) ∧
      (r.begun = true → r.ended = false → fieldOf (vget c.q 3 0) 0 32 ≠ 0 → ∀ (ps : List Av1Part) (lp : Av1Part), x.parts = ps ++ [lp] →
        let stop := min (x.factRead r.frame) (fieldOf (vget c.q 3 0) 0 32)
        let at_ := fieldOf (vget c.q 2 0) 0 52 + lp.bytes.length
        let len := min (16 - at_ % 16) (stop - lp.bytes.length)
        (lp.bytes.length < stop →
          (∀ bs, s.engRead (.cmd t.num c.e c.seq) (s.spaceOf t.num) at_ len = .bytes bs → ∃ u, exec (.av1Frame t.num unit) s = .next u ∧
            headSt u (.running (.av1 r)) ∧ (u.av1Ctx unit n).parts =
              ps ++ [{ lp with bytes := lp.bytes ++ if ∃ b ∈ bs, b.2 = true then List.replicate len none else bs.map fun b => some b.1 }]) ∧
          (∀ k, s.engRead (.cmd t.num c.e c.seq) (s.spaceOf t.num) at_ len = .fail k → ∃ u, exec (.av1Frame t.num unit) s = .next u ∧
            headSt u (.running (.av1 r)) ∧ (u.av1Ctx unit n).parts = ps ++ [{ lp with bytes := lp.bytes ++ List.replicate len none }])) ∧
        (stop ≤ lp.bytes.length → x.missing r.frame = true → c.group.isSome = true → (∃ w ∈ s.links.apWrites, w.own = .cmd t.num c.e c.seq) →
          exec (.av1Frame t.num unit) s = .next s) ∧
        (stop ≤ lp.bytes.length → x.missing r.frame = true → c.group = none → ∃ u, exec (.av1Frame t.num unit) s = .next u ∧ u.mem = s.mem ∧
          headSt u (if r.frame + 1 = frames then .finished 5 0 (r.bad + 1) else .running (.av1 { r with
            ended := true, frame := r.frame + 1, pos := 0, tileNo := if (vget c.q 5 0).getLsbD 32 = true then 0 else r.tileNo, bad := r.bad + 1, waitFor := none }))) ∧
        (∀ (k : Nat) (tile : TileAt) (zero : Bool), stop ≤ lp.bytes.length → x.missing r.frame = false → c.group = none →
          let bf := (vget c.q 3 0).getLsbD 54
          let head := x.header r.frame n bf zero tile
          let units := x.units r.frame bf zero tile
          (fieldOf (vget c.q 3 0) 55 2 ≠ 0 → x.pieceTile r.frame false r.pos = some (k, tile, zero) → ∀ v : State,
            s.copyWrite t c (fieldOf (vget c.q 3 0) 55 2 == 1) (fieldOf (vget c.q 4 0) 0 52 + (r.tileNo + k) * fieldOf (vget c.q 5 0) 0 32)
              ((head ++ units.flatMap imgBytes).map fun b => (b, false)) = .ok v →
            ∃ u, exec (.av1Frame t.num unit) s = .next u ∧ u.mem.ram = v.mem.ram ∧ u.hm.blocks = v.hm.blocks ∧ u.av1Ctx unit n = x ∧
              headSt u (.running (.av1 { r with pos := r.pos + 1 }))) ∧
          (fieldOf (vget c.q 3 0) 55 2 = 0 → r.pos % (units.length + 1) = 0 → x.pieceTile r.frame true (r.pos / (units.length + 1)) = some (k, tile, zero) →
            (s.engPush t (fieldOf (vget c.q 4 0) 0 6) [Entry.ready (ofBytes head)] = none → ∃ u, exec (.av1Frame t.num unit) s = .next u ∧ u.mem = s.mem ∧
              headSt u (.running (.av1 r))) ∧
            (∀ v : State, s.engPush t (fieldOf (vget c.q 4 0) 0 6) (Entry.ready (ofBytes head) :: units.map Entry.ready) = some v →
              ∃ u t' v', exec (.av1Frame t.num unit) s = .next u ∧ u.mem = s.mem ∧ headSt u (.running (.av1 { r with pos := r.pos + (units.length + 1) })) ∧
                u.team? t.num = some t' ∧ v.team? t.num = some v' ∧ t'.queues = v'.queues))) ∧
        (stop ≤ lp.bytes.length → x.missing r.frame = false → c.group = none → x.pieceTile r.frame (fieldOf (vget c.q 3 0) 55 2 == 0) (r.pos / c.av1Per) = none →
          let bad : Nat := r.bad + (if x.cause r.frame = 0 then 0 else 1)
          ∃ u, exec (.av1Frame t.num unit) s = .next u ∧ u.mem = s.mem ∧ u.hm.blocks = s.hm.blocks ∧ (u.av1Ctx unit n).slots = x.slotsAfter r.frame ∧
            headSt u (if r.frame + 1 = frames then .finished (if bad = 0 then 0 else 5) 0 bad else .running (.av1 { r with
              frame := r.frame + 1, pos := 0, tileNo := if (vget c.q 5 0).getLsbD 32 = true then 0 else r.tileNo + (x.tiles r.frame).length, bad := bad, whole := r.whole + (if x.cause r.frame = 0 then 1 else 0), waitFor := none }))))) ∧
    -- the tiles of a corrupt frame
    (∀ (x : Av1Ctx) (f k : Nat) (queue : Bool),
      ((x.settled f).unread = true ∨ (x.settled f).excluded = true ∨ x.largeScale f = true ∨ (∃ i < 8, (x.uses f).getLsbD i = true ∧ (x.settled f).slots.getLsbD i = false) → x.sound f = 0) ∧
      (x.cause f = 0 → x.pieceTile f queue k = ((x.tiles f)[k]?).map fun t => (k, t, false)) ∧
      (x.cause f ≠ 0 → k < x.sound f → x.pieceTile f queue k = ((x.tiles f)[k]?).map fun t => (k, t, false)) ∧
      (x.cause f ≠ 0 → x.sound f ≤ k → x.pieceTile f true k = ((x.tiles f)[k]?).map fun t => (k, t, true)) ∧
      (x.cause f ≠ 0 → x.sound f ≤ k → x.pieceTile f false k = ((x.tiles f)[k - x.sound f]?).map fun t => (k - x.sound f, t, true)) ∧
      (∀ (n : Nat) (bf zero : Bool) (tl : TileAt), (x.header f n bf zero tl).getD 14 0 = (if zero then 1 else if x.grained f then 2 else 0) ∧
        (x.header f n bf zero tl).getD 20 0 = (if zero then BitVec.ofNat 8 (x.cause f) else 0) ∧ ∀ img ∈ x.units f bf true tl, img = 0)) ∧
    -- what makes a frame corrupt
    (∀ (x : Av1Ctx) (f : Nat),
      (x.charged f = true ∨ (x.settled f).unread = true → x.cause f = 4) ∧
      (x.charged f = false → (x.settled f).unread = false →
        ((x.settled f).excluded = true → x.cause f = 2) ∧
        ((x.settled f).excluded = false → x.broken f = true → x.cause f = 1) ∧
        ((x.settled f).excluded = false → x.broken f = false → x.largeScale f = true → x.cause f = 2) ∧
        ((x.settled f).excluded = false → x.broken f = false → x.largeScale f = false → (∃ i < 8, (x.uses f).getLsbD i = true ∧ (x.settled f).slots.getLsbD i = false) → x.cause f = 3)) ∧
      (∀ i < 8, (x.slotsAfter f).getLsbD i = if (x.refreshes f).getLsbD i then decide (x.cause f = 0) else (x.settled f).slots.getLsbD i)) ∧
    (∀ v < 256, av1Int8 8 v = (v + 128) % 256) ∧ av1Bf16 8 255 = 0x3f80 ∧ av1Bf16 8 0 = 0 ∧
    (∀ (x : Av1Ctx) (f : Nat) (bf : Bool) (tl : TileAt) (row col : Nat), x.validRows f tl ≤ row ∨ x.validCols f tl ≤ col → x.element f bf tl row col = 0)
end

