-- ==== Sys2Proof/Laws/Bits.lean ====
section
/-! SUPPORT. What the bit helpers read back: packed numbers, lanes, sub-elements, masks, vectors, byte strings. -/

namespace Sys2Proof.Machine

/-- A packed number stays within its width. -/
theorem packNat_lt (w : Nat) (f : Nat → Nat) (n : Nat) : packNat w f n < 2 ^ (w * n) := by
  induction n with
  | zero => simp [packNat]
  | succ n ih =>
    simp only [packNat]
    apply Nat.or_lt_two_pow
    · exact Nat.lt_of_lt_of_le ih (Nat.pow_le_pow_right (by omega) (by rw [Nat.mul_succ]; omega))
    · rw [Nat.shiftLeft_eq, Nat.mul_succ, Nat.pow_add, Nat.mul_comm]
      exact Nat.mul_lt_mul_of_pos_left (Nat.mod_lt _ (Nat.two_pow_pos w)) (Nat.two_pow_pos _)

/-- A bit of a packed number. -/
theorem packNat_testBit (w : Nat) (f : Nat → Nat) (n i j : Nat) (hj : j < w) : (packNat w f n).testBit (w * i + j) = (decide (i < n) && (f i).testBit j) := by
  induction n with
  | zero => simp [packNat]
  | succ n ih =>
    simp only [packNat, Nat.testBit_or, ih, Nat.testBit_shiftLeft, Nat.testBit_mod_two_pow]
    by_cases hin : i = n
    · subst hin
      simp [hj]
    · by_cases hlt : i < n
      · have h1 : ¬ (w * n ≤ w * i + j) := by
          have : w * (i + 1) ≤ w * n := Nat.mul_le_mul_left w hlt
          rw [Nat.mul_succ] at this
          omega
        simp [hlt, h1, Nat.lt_succ_of_lt hlt]
      · have h1 : w * n ≤ w * i + j ∧ ¬ (w * i + j - w * n < w) := by
          have : w * (n + 1) ≤ w * i := Nat.mul_le_mul_left w (by omega)
          rw [Nat.mul_succ] at this
          omega
        have h2 : ¬ (i < n + 1) := by omega
        simp [hlt, h1, h2]

/-- A field of a packed number is the number packed there. -/
theorem packNat_bitsOf (w : Nat) (f : Nat → Nat) (n i : Nat) (h : i < n) : bitsOf (packNat w f n) (w * i) w = f i % 2 ^ w := by
  apply Nat.eq_of_testBit_eq
  intro j
  simp only [bitsOf, Nat.testBit_mod_two_pow, Nat.testBit_shiftRight]
  by_cases hj : j < w
  · rw [packNat_testBit w f n i j hj]; simp [hj, h]
  · simp [hj]

/-- A lane of an image built from its lanes. -/
@[simp] theorem lane_ofLanes (f : Nat → Word) (t : Nat) (h : t < 32) : lane (ofLanes f) t = f t := by
  apply BitVec.eq_of_toNat_eq
  have hp : packNat 64 (fun t => (f t).toNat) 32 < 2 ^ 2048 := packNat_lt 64 _ 32
  have hb := packNat_bitsOf 64 (fun t => (f t).toNat) 32 t h
  simp only [bitsOf] at hb
  simp only [lane, ofLanes, BitVec.extractLsb'_toNat, BitVec.toNat_ofNat, Nat.mod_eq_of_lt hp, hb]
  exact Nat.mod_eq_of_lt (f t).isLt

/-- A sub-element of a lane built from its sub-elements, at each of the widths 4, 8, 16, 32 and 64 that a type has. -/
theorem subEl_ofSubs (w : Nat) (f : Nat → Nat) (e : Nat) (h : e < 64 / w) : subEl w (ofSubs w f) e = f e % 2 ^ w := by
  have hp : packNat w f (64 / w) < 2 ^ 64 :=
    Nat.lt_of_lt_of_le (packNat_lt w f (64 / w)) (Nat.pow_le_pow_right (by omega) (by rw [Nat.mul_comm]; exact Nat.div_mul_le_self 64 w))
  simp only [subEl, ofSubs, BitVec.toNat_ofNat, Nat.mod_eq_of_lt hp]
  exact packNat_bitsOf w f (64 / w) e h

/-- A sub-element fits its width. -/
theorem subEl_lt (w : Nat) (x : Word) (e : Nat) : subEl w x e < 2 ^ w := Nat.mod_lt _ (Nat.two_pow_pos w)

/-- A bit of a mask built from its bits. -/
@[simp] theorem mbit_maskOf (f : Nat → Bool) (t : Nat) (h : t < 32) : mbit (maskOf f) t = f t := by
  have hp : packNat 1 (fun t => b2n (f t)) 32 < 2 ^ 32 := packNat_lt 1 _ 32
  have hb := packNat_testBit 1 (fun t => b2n (f t)) 32 t 0 (by omega)
  simp only [Nat.one_mul, Nat.add_zero, h, decide_true, Bool.true_and] at hb
  simp only [mbit, maskOf, BitVec.getLsbD, BitVec.toNat_ofNat, Nat.mod_eq_of_lt hp, hb]
  cases f t <;> simp [b2n]

/-- A lane of a merge. -/
theorem lane_mergeLanes (act : Mask) (new old : Image) (t : Nat) (h : t < 32) :
    lane (mergeLanes act new old) t = if mbit act t then lane new t else lane old t := by
  simp [mergeLanes, h]

/-- A word built from a number that fits. -/
theorem word_toNat (n : Nat) (h : n < 2 ^ 64) : (word n).toNat = n := by
  simp only [word, BitVec.toNat_ofNat, Nat.mod_eq_of_lt h]

/-- A replaced element reads back. -/
@[simp] theorem vget_vset_same {α : Type} {n : Nat} (v : Vector α n) (i : Nat) (x d : α) (h : i < n) : vget (vset v i x) i d = x := by
  simp [vget, vset, h]

/-- Another element is as it was. -/
@[simp] theorem vget_vset_other {α : Type} {n : Nat} (v : Vector α n) (i j : Nat) (x d : α) (h : i ≠ j) : vget (vset v i x) j d = vget v j d := by
  simp [vget, vset, Vector.getElem?_setIfInBounds, h]

/-- The length of a little-endian string. -/
@[simp] theorem leBytes_length (n x : Nat) : (leBytes n x).length = n := by
  induction n generalizing x with
  | zero => rfl
  | succ n ih => simp [leBytes, ih]

/-- A number read from its little-endian bytes. -/
theorem leNat_leBytes (n x : Nat) : leNat (leBytes n x) = x % 2 ^ (8 * n) := by
  induction n generalizing x with
  | zero => simp [leBytes, leNat, Nat.mod_one]
  | succ n ih =>
    simp only [leBytes, leNat, ih, BitVec.toNat_ofNat]
    rw [Nat.mul_succ, Nat.add_comm (8 * n) 8, Nat.pow_add]
    rw [Nat.mod_mul]

end Sys2Proof.Machine
end

