-- ==== Sys2Proof/Laws/Decode.lean ====
section
/-! SUPPORT. The fields of a packed word, read back: for each word format the number that the word is, its opcode, and its fields. -/

namespace Sys2Proof

/-- The number of two strings of bits joined. -/
theorem Dec.cat_toNat {a b : Nat} (x : BitVec a) (y : BitVec b) : (x ++ y).toNat = x.toNat * 2 ^ b + y.toNat := by
  rw [BitVec.toNat_append, ← Nat.shiftLeft_add_eq_or_of_lt y.isLt, Nat.shiftLeft_eq]

/-- The number of one bit. -/
theorem Dec.b1_toNat (b : Bool) : (Dec.b1 b).toNat = b.toNat := by cases b <;> rfl

/-- A field, from the number of the word. -/
theorem Dec.fld_eq {w : Word} {lo width : Nat} {x : BitVec width} (h : w.toNat / 2 ^ lo % 2 ^ width = x.toNat) : Dec.fld w lo width = x := by
  apply BitVec.eq_of_toNat_eq
  rw [Dec.fld, BitVec.extractLsb'_toNat, Nat.shiftRight_eq_div_pow, h]

/-- A bit, from the number of the word. -/
theorem Dec.bit_eq {w : Word} {n : Nat} {b : Bool} (h : w.toNat / 2 ^ n % 2 = b.toNat) : Dec.bit w n = b := by
  rw [Dec.bit, BitVec.getLsbD, Nat.testBit_eq_decide_div_mod_eq, h]
  cases b <;> rfl

/-- The top four bits are those of the opcode. -/
theorem Dec.top_of_op {w : Word} {op : BitVec 9} (h : Dec.fld w 55 9 = op) : Dec.fld w 60 4 = op.extractLsb' 5 4 := by
  subst h
  apply Dec.fld_eq
  simp only [Dec.fld, BitVec.extractLsb'_toNat, Nat.shiftRight_eq_div_pow]
  omega

/-! ## Alu1 -/

/-- The word as a number. -/
theorem Dec.packAlu1_toNat (op : BitVec 9) (f : Alu1) : (Dec.packAlu1 op f).toNat =
    (((((((op.toNat * 2 ^ 4 + f.ty.toNat) * 2 ^ 11 + f.d.toNat) * 2 ^ 11 + f.a.toNat) * 2 ^ 22 + (0#22).toNat) * 2 ^ 2 + f.cc.toNat) * 2 ^ 3 + f.g.p.toNat) * 2 ^ 1 + f.g.neg.toNat) * 2 ^ 1 + f.uni.toNat := by
  rw [Dec.packAlu1]
  repeat erw [Dec.cat_toNat]
  simp only [Dec.b1_toNat]

/-- Its opcode. -/
theorem Dec.packAlu1_op (op : BitVec 9) (f : Alu1) : Dec.fld (Dec.packAlu1 op f) 55 9 = op := by
  apply Dec.fld_eq
  have := op.isLt; have := f.ty.isLt; have := f.d.isLt; have := f.a.isLt; have := f.cc.isLt; have := f.g.p.isLt; have := Bool.toNat_lt f.g.neg; have := Bool.toNat_lt f.uni
  rw [Dec.packAlu1_toNat]
  simp only [BitVec.toNat_ofNat, Nat.zero_mod]
  omega

/-- Its fields. -/
theorem Dec.getAlu1_pack (op : BitVec 9) (f : Alu1) : Dec.getAlu1 (Dec.packAlu1 op f) = f := by
  obtain ⟨ty, d, a, cc, ⟨p, neg⟩, uni⟩ := f
  have := op.isLt; have := ty.isLt; have := d.isLt; have := a.isLt; have := cc.isLt; have := p.isLt; have := Bool.toNat_lt neg; have := Bool.toNat_lt uni
  simp only [Dec.getAlu1, Alu1.mk.injEq, Guard.mk.injEq]
  refine ⟨?_, ?_, ?_, ?_, ⟨?_, ?_⟩, ?_⟩ <;> first | apply Dec.fld_eq | apply Dec.bit_eq
  all_goals (rw [Dec.packAlu1_toNat]; simp only [BitVec.toNat_ofNat, Nat.zero_mod]; omega)

/-! ## Alu2 -/

/-- The word as a number. -/
theorem Dec.packAlu2_toNat (op : BitVec 9) (f : Alu2) : (Dec.packAlu2 op f).toNat =
    ((((((((op.toNat * 2 ^ 4 + f.ty.toNat) * 2 ^ 11 + f.d.toNat) * 2 ^ 11 + f.a.toNat) * 2 ^ 11 + f.b.toNat) * 2 ^ 11 + (0#11).toNat) * 2 ^ 2 + f.cc.toNat) * 2 ^ 3 + f.g.p.toNat) * 2 ^ 1 + f.g.neg.toNat) * 2 ^ 1 + f.uni.toNat := by
  rw [Dec.packAlu2]
  repeat erw [Dec.cat_toNat]
  simp only [Dec.b1_toNat]

/-- Its opcode. -/
theorem Dec.packAlu2_op (op : BitVec 9) (f : Alu2) : Dec.fld (Dec.packAlu2 op f) 55 9 = op := by
  apply Dec.fld_eq
  have := op.isLt; have := f.ty.isLt; have := f.d.isLt; have := f.a.isLt; have := f.b.isLt; have := f.cc.isLt; have := f.g.p.isLt; have := Bool.toNat_lt f.g.neg; have := Bool.toNat_lt f.uni
  rw [Dec.packAlu2_toNat]
  simp only [BitVec.toNat_ofNat, Nat.zero_mod]
  omega

/-- Its fields. -/
theorem Dec.getAlu2_pack (op : BitVec 9) (f : Alu2) : Dec.getAlu2 (Dec.packAlu2 op f) = f := by
  obtain ⟨ty, d, a, b, cc, ⟨p, neg⟩, uni⟩ := f
  have := op.isLt; have := ty.isLt; have := d.isLt; have := a.isLt; have := b.isLt; have := cc.isLt; have := p.isLt; have := Bool.toNat_lt neg; have := Bool.toNat_lt uni
  simp only [Dec.getAlu2, Alu2.mk.injEq, Guard.mk.injEq]
  refine ⟨?_, ?_, ?_, ?_, ?_, ⟨?_, ?_⟩, ?_⟩ <;> first | apply Dec.fld_eq | apply Dec.bit_eq
  all_goals (rw [Dec.packAlu2_toNat]; simp only [BitVec.toNat_ofNat, Nat.zero_mod]; omega)

/-! ## Alu3 -/

/-- The word as a number. -/
theorem Dec.packAlu3_toNat (op : BitVec 9) (f : Alu3) : (Dec.packAlu3 op f).toNat =
    ((((((((op.toNat * 2 ^ 4 + f.ty.toNat) * 2 ^ 11 + f.d.toNat) * 2 ^ 11 + f.a.toNat) * 2 ^ 11 + f.b.toNat) * 2 ^ 11 + f.c.toNat) * 2 ^ 2 + f.cc.toNat) * 2 ^ 3 + f.g.p.toNat) * 2 ^ 1 + f.g.neg.toNat) * 2 ^ 1 + f.uni.toNat := by
  rw [Dec.packAlu3]
  repeat erw [Dec.cat_toNat]
  simp only [Dec.b1_toNat]

/-- Its opcode. -/
theorem Dec.packAlu3_op (op : BitVec 9) (f : Alu3) : Dec.fld (Dec.packAlu3 op f) 55 9 = op := by
  apply Dec.fld_eq
  have := op.isLt; have := f.ty.isLt; have := f.d.isLt; have := f.a.isLt; have := f.b.isLt; have := f.c.isLt; have := f.cc.isLt; have := f.g.p.isLt; have := Bool.toNat_lt f.g.neg; have := Bool.toNat_lt f.uni
  rw [Dec.packAlu3_toNat]
  omega

/-- Its fields. -/
theorem Dec.getAlu3_pack (op : BitVec 9) (f : Alu3) : Dec.getAlu3 (Dec.packAlu3 op f) = f := by
  obtain ⟨ty, d, a, b, c, cc, ⟨p, neg⟩, uni⟩ := f
  have := op.isLt; have := ty.isLt; have := d.isLt; have := a.isLt; have := b.isLt; have := c.isLt; have := cc.isLt; have := p.isLt; have := Bool.toNat_lt neg; have := Bool.toNat_lt uni
  simp only [Dec.getAlu3, Alu3.mk.injEq, Guard.mk.injEq]
  refine ⟨?_, ?_, ?_, ?_, ?_, ?_, ⟨?_, ?_⟩, ?_⟩ <;> first | apply Dec.fld_eq | apply Dec.bit_eq
  all_goals (rw [Dec.packAlu3_toNat]; simp only []; omega)

/-! ## AluImm -/

/-- The word as a number. -/
theorem Dec.packAluImm_toNat (op : BitVec 9) (f : AluImm) : (Dec.packAluImm op f).toNat =
    ((((((op.toNat * 2 ^ 4 + f.ty.toNat) * 2 ^ 11 + f.d.toNat) * 2 ^ 33 + f.imm.toNat) * 2 ^ 2 + f.cc.toNat) * 2 ^ 3 + f.g.p.toNat) * 2 ^ 1 + f.g.neg.toNat) * 2 ^ 1 + f.uni.toNat := by
  rw [Dec.packAluImm]
  repeat erw [Dec.cat_toNat]
  simp only [Dec.b1_toNat]

/-- Its opcode. -/
theorem Dec.packAluImm_op (op : BitVec 9) (f : AluImm) : Dec.fld (Dec.packAluImm op f) 55 9 = op := by
  apply Dec.fld_eq
  have := op.isLt; have := f.ty.isLt; have := f.d.isLt; have := f.imm.isLt; have := f.cc.isLt; have := f.g.p.isLt; have := Bool.toNat_lt f.g.neg; have := Bool.toNat_lt f.uni
  rw [Dec.packAluImm_toNat]
  omega

/-- Its fields. -/
theorem Dec.getAluImm_pack (op : BitVec 9) (f : AluImm) : Dec.getAluImm (Dec.packAluImm op f) = f := by
  obtain ⟨ty, d, imm, cc, ⟨p, neg⟩, uni⟩ := f
  have := op.isLt; have := ty.isLt; have := d.isLt; have := imm.isLt; have := cc.isLt; have := p.isLt; have := Bool.toNat_lt neg; have := Bool.toNat_lt uni
  simp only [Dec.getAluImm, AluImm.mk.injEq, Guard.mk.injEq]
  refine ⟨?_, ?_, ?_, ?_, ⟨?_, ?_⟩, ?_⟩ <;> first | apply Dec.fld_eq | apply Dec.bit_eq
  all_goals (rw [Dec.packAluImm_toNat]; simp only []; omega)

/-! ## AluCmp -/

/-- The word as a number. -/
theorem Dec.packAluCmp_toNat (op : BitVec 9) (f : AluCmp) : (Dec.packAluCmp op f).toNat =
    ((((((((((op.toNat * 2 ^ 4 + f.ty.toNat) * 2 ^ 11 + f.d.toNat) * 2 ^ 11 + f.a.toNat) * 2 ^ 11 + f.b.toNat) * 2 ^ 7 + (0#7).toNat) * 2 ^ 1 + f.any.toNat) * 2 ^ 3 + f.cond.toNat) * 2 ^ 2 + f.cc.toNat) * 2 ^ 3 + f.g.p.toNat) * 2 ^ 1 + f.g.neg.toNat) * 2 ^ 1 + f.uni.toNat := by
  rw [Dec.packAluCmp]
  repeat erw [Dec.cat_toNat]
  simp only [Dec.b1_toNat]

/-- Its opcode. -/
theorem Dec.packAluCmp_op (op : BitVec 9) (f : AluCmp) : Dec.fld (Dec.packAluCmp op f) 55 9 = op := by
  apply Dec.fld_eq
  have := op.isLt; have := f.ty.isLt; have := f.d.isLt; have := f.a.isLt; have := f.b.isLt; have := Bool.toNat_lt f.any; have := f.cond.isLt; have := f.cc.isLt; have := f.g.p.isLt; have := Bool.toNat_lt f.g.neg; have := Bool.toNat_lt f.uni
  rw [Dec.packAluCmp_toNat]
  simp only [BitVec.toNat_ofNat, Nat.zero_mod]
  omega

/-- Its fields. -/
theorem Dec.getAluCmp_pack (op : BitVec 9) (f : AluCmp) : Dec.getAluCmp (Dec.packAluCmp op f) = f := by
  obtain ⟨ty, d, a, b, any, cond, cc, ⟨p, neg⟩, uni⟩ := f
  have := op.isLt; have := ty.isLt; have := d.isLt; have := a.isLt; have := b.isLt; have := Bool.toNat_lt any; have := cond.isLt; have := cc.isLt; have := p.isLt; have := Bool.toNat_lt neg; have := Bool.toNat_lt uni
  simp only [Dec.getAluCmp, AluCmp.mk.injEq, Guard.mk.injEq]
  refine ⟨?_, ?_, ?_, ?_, ?_, ?_, ?_, ⟨?_, ?_⟩, ?_⟩ <;> first | apply Dec.fld_eq | apply Dec.bit_eq
  all_goals (rw [Dec.packAluCmp_toNat]; simp only [BitVec.toNat_ofNat, Nat.zero_mod]; omega)

/-! ## AluClass -/

/-- The word as a number. -/
theorem Dec.packAluClass_toNat (op : BitVec 9) (f : AluClass) : (Dec.packAluClass op f).toNat =
    (((((((((op.toNat * 2 ^ 4 + f.ty.toNat) * 2 ^ 11 + f.d.toNat) * 2 ^ 11 + f.a.toNat) * 2 ^ 11 + (0#11).toNat) * 2 ^ 1 + f.any.toNat) * 2 ^ 10 + f.mask.toNat) * 2 ^ 2 + f.cc.toNat) * 2 ^ 3 + f.g.p.toNat) * 2 ^ 1 + f.g.neg.toNat) * 2 ^ 1 + f.uni.toNat := by
  rw [Dec.packAluClass]
  repeat erw [Dec.cat_toNat]
  simp only [Dec.b1_toNat]

/-- Its opcode. -/
theorem Dec.packAluClass_op (op : BitVec 9) (f : AluClass) : Dec.fld (Dec.packAluClass op f) 55 9 = op := by
  apply Dec.fld_eq
  have := op.isLt; have := f.ty.isLt; have := f.d.isLt; have := f.a.isLt; have := Bool.toNat_lt f.any; have := f.mask.isLt; have := f.cc.isLt; have := f.g.p.isLt; have := Bool.toNat_lt f.g.neg; have := Bool.toNat_lt f.uni
  rw [Dec.packAluClass_toNat]
  simp only [BitVec.toNat_ofNat, Nat.zero_mod]
  omega

/-- Its fields. -/
theorem Dec.getAluClass_pack (op : BitVec 9) (f : AluClass) : Dec.getAluClass (Dec.packAluClass op f) = f := by
  obtain ⟨ty, d, a, any, mask, cc, ⟨p, neg⟩, uni⟩ := f
  have := op.isLt; have := ty.isLt; have := d.isLt; have := a.isLt; have := Bool.toNat_lt any; have := mask.isLt; have := cc.isLt; have := p.isLt; have := Bool.toNat_lt neg; have := Bool.toNat_lt uni
  simp only [Dec.getAluClass, AluClass.mk.injEq, Guard.mk.injEq]
  refine ⟨?_, ?_, ?_, ?_, ?_, ?_, ⟨?_, ?_⟩, ?_⟩ <;> first | apply Dec.fld_eq | apply Dec.bit_eq
  all_goals (rw [Dec.packAluClass_toNat]; simp only [BitVec.toNat_ofNat, Nat.zero_mod]; omega)

/-! ## Long1 -/

/-- The word as a number. -/
theorem Dec.packLong1_toNat (op : BitVec 9) (f : Long1) : (Dec.packLong1 op f).toNat =
    (((((((((op.toNat * 2 ^ 4 + f.ty.toNat) * 2 ^ 11 + f.d.toNat) * 2 ^ 11 + f.a.toNat) * 2 ^ 11 + (0#11).toNat) * 2 ^ 4 + f.la.toNat) * 2 ^ 7 + (0#7).toNat) * 2 ^ 2 + f.cc.toNat) * 2 ^ 3 + f.g.p.toNat) * 2 ^ 1 + f.g.neg.toNat) * 2 ^ 1 + (0#1).toNat := by
  rw [Dec.packLong1]
  repeat erw [Dec.cat_toNat]
  simp only [Dec.b1_toNat]

/-- Its opcode. -/
theorem Dec.packLong1_op (op : BitVec 9) (f : Long1) : Dec.fld (Dec.packLong1 op f) 55 9 = op := by
  apply Dec.fld_eq
  have := op.isLt; have := f.ty.isLt; have := f.d.isLt; have := f.a.isLt; have := f.la.isLt; have := f.cc.isLt; have := f.g.p.isLt; have := Bool.toNat_lt f.g.neg
  rw [Dec.packLong1_toNat]
  simp only [BitVec.toNat_ofNat, Nat.zero_mod]
  omega

/-- Its fields. -/
theorem Dec.getLong1_pack (op : BitVec 9) (f : Long1) : Dec.getLong1 (Dec.packLong1 op f) = f := by
  obtain ⟨ty, d, a, la, cc, ⟨p, neg⟩⟩ := f
  have := op.isLt; have := ty.isLt; have := d.isLt; have := a.isLt; have := la.isLt; have := cc.isLt; have := p.isLt; have := Bool.toNat_lt neg
  simp only [Dec.getLong1, Long1.mk.injEq, Guard.mk.injEq]
  refine ⟨?_, ?_, ?_, ?_, ?_, ⟨?_, ?_⟩⟩ <;> first | apply Dec.fld_eq | apply Dec.bit_eq
  all_goals (rw [Dec.packLong1_toNat]; simp only [BitVec.toNat_ofNat, Nat.zero_mod]; omega)

/-! ## Long2 -/

/-- The word as a number. -/
theorem Dec.packLong2_toNat (op : BitVec 9) (f : Long2) : (Dec.packLong2 op f).toNat =
    (((((((((op.toNat * 2 ^ 4 + f.ty.toNat) * 2 ^ 11 + f.d.toNat) * 2 ^ 11 + f.a.toNat) * 2 ^ 11 + f.b.toNat) * 2 ^ 4 + f.la.toNat) * 2 ^ 7 + (0#7).toNat) * 2 ^ 2 + f.cc.toNat) * 2 ^ 3 + f.g.p.toNat) * 2 ^ 1 + f.g.neg.toNat) * 2 ^ 1 + (0#1).toNat := by
  rw [Dec.packLong2]
  repeat erw [Dec.cat_toNat]
  simp only [Dec.b1_toNat]

/-- Its opcode. -/
theorem Dec.packLong2_op (op : BitVec 9) (f : Long2) : Dec.fld (Dec.packLong2 op f) 55 9 = op := by
  apply Dec.fld_eq
  have := op.isLt; have := f.ty.isLt; have := f.d.isLt; have := f.a.isLt; have := f.b.isLt; have := f.la.isLt; have := f.cc.isLt; have := f.g.p.isLt; have := Bool.toNat_lt f.g.neg
  rw [Dec.packLong2_toNat]
  simp only [BitVec.toNat_ofNat, Nat.zero_mod]
  omega

/-- Its fields. -/
theorem Dec.getLong2_pack (op : BitVec 9) (f : Long2) : Dec.getLong2 (Dec.packLong2 op f) = f := by
  obtain ⟨ty, d, a, b, la, cc, ⟨p, neg⟩⟩ := f
  have := op.isLt; have := ty.isLt; have := d.isLt; have := a.isLt; have := b.isLt; have := la.isLt; have := cc.isLt; have := p.isLt; have := Bool.toNat_lt neg
  simp only [Dec.getLong2, Long2.mk.injEq, Guard.mk.injEq]
  refine ⟨?_, ?_, ?_, ?_, ?_, ?_, ⟨?_, ?_⟩⟩ <;> first | apply Dec.fld_eq | apply Dec.bit_eq
  all_goals (rw [Dec.packLong2_toNat]; simp only [BitVec.toNat_ofNat, Nat.zero_mod]; omega)

/-! ## BraF -/

/-- The word as a number. -/
theorem Dec.packBraF_toNat (op : BitVec 9) (f : BraF) : (Dec.packBraF op f).toNat =
    ((((((op.toNat * 2 ^ 14 + (0#14).toNat) * 2 ^ 1 + f.all.toNat) * 2 ^ 33 + f.disp.toNat) * 2 ^ 2 + (0#2).toNat) * 2 ^ 3 + f.g.p.toNat) * 2 ^ 1 + f.g.neg.toNat) * 2 ^ 1 + (0#1).toNat := by
  rw [Dec.packBraF]
  repeat erw [Dec.cat_toNat]
  simp only [Dec.b1_toNat]

/-- Its opcode. -/
theorem Dec.packBraF_op (op : BitVec 9) (f : BraF) : Dec.fld (Dec.packBraF op f) 55 9 = op := by
  apply Dec.fld_eq
  have := op.isLt; have := Bool.toNat_lt f.all; have := f.disp.isLt; have := f.g.p.isLt; have := Bool.toNat_lt f.g.neg
  rw [Dec.packBraF_toNat]
  simp only [BitVec.toNat_ofNat, Nat.zero_mod]
  omega

/-- Its fields. -/
theorem Dec.getBraF_pack (op : BitVec 9) (f : BraF) : Dec.getBraF (Dec.packBraF op f) = f := by
  obtain ⟨all, disp, ⟨p, neg⟩⟩ := f
  have := op.isLt; have := Bool.toNat_lt all; have := disp.isLt; have := p.isLt; have := Bool.toNat_lt neg
  simp only [Dec.getBraF, BraF.mk.injEq, Guard.mk.injEq]
  refine ⟨?_, ?_, ⟨?_, ?_⟩⟩ <;> first | apply Dec.fld_eq | apply Dec.bit_eq
  all_goals (rw [Dec.packBraF_toNat]; simp only [BitVec.toNat_ofNat, Nat.zero_mod]; omega)

/-! ## BrcF -/

/-- The word as a number. -/
theorem Dec.packBrcF_toNat (op : BitVec 9) (f : BrcF) : (Dec.packBrcF op f).toNat =
    ((((((op.toNat * 2 ^ 4 + (0#4).toNat) * 2 ^ 22 + f.tdisp.toNat) * 2 ^ 22 + f.jdisp.toNat) * 2 ^ 2 + (0#2).toNat) * 2 ^ 3 + f.g.p.toNat) * 2 ^ 1 + f.g.neg.toNat) * 2 ^ 1 + (0#1).toNat := by
  rw [Dec.packBrcF]
  repeat erw [Dec.cat_toNat]
  simp only [Dec.b1_toNat]

/-- Its opcode. -/
theorem Dec.packBrcF_op (op : BitVec 9) (f : BrcF) : Dec.fld (Dec.packBrcF op f) 55 9 = op := by
  apply Dec.fld_eq
  have := op.isLt; have := f.tdisp.isLt; have := f.jdisp.isLt; have := f.g.p.isLt; have := Bool.toNat_lt f.g.neg
  rw [Dec.packBrcF_toNat]
  simp only [BitVec.toNat_ofNat, Nat.zero_mod]
  omega

/-- Its fields. -/
theorem Dec.getBrcF_pack (op : BitVec 9) (f : BrcF) : Dec.getBrcF (Dec.packBrcF op f) = f := by
  obtain ⟨tdisp, jdisp, ⟨p, neg⟩⟩ := f
  have := op.isLt; have := tdisp.isLt; have := jdisp.isLt; have := p.isLt; have := Bool.toNat_lt neg
  simp only [Dec.getBrcF, BrcF.mk.injEq, Guard.mk.injEq]
  refine ⟨?_, ?_, ⟨?_, ?_⟩⟩ <;> first | apply Dec.fld_eq | apply Dec.bit_eq
  all_goals (rw [Dec.packBrcF_toNat]; simp only [BitVec.toNat_ofNat, Nat.zero_mod]; omega)

/-! ## Guard -/

/-- The word as a number. -/
theorem Dec.packGuard_toNat (op : BitVec 9) (f : Guard) : (Dec.packGuard op f).toNat =
    (((op.toNat * 2 ^ 50 + (0#50).toNat) * 2 ^ 3 + f.p.toNat) * 2 ^ 1 + f.neg.toNat) * 2 ^ 1 + (0#1).toNat := by
  rw [Dec.packGuard]
  repeat erw [Dec.cat_toNat]
  simp only [Dec.b1_toNat]

/-- Its opcode. -/
theorem Dec.packGuard_op (op : BitVec 9) (f : Guard) : Dec.fld (Dec.packGuard op f) 55 9 = op := by
  apply Dec.fld_eq
  have := op.isLt; have := f.p.isLt; have := Bool.toNat_lt f.neg
  rw [Dec.packGuard_toNat]
  simp only [BitVec.toNat_ofNat, Nat.zero_mod]
  omega

/-- Its fields. -/
theorem Dec.getGuard_pack (op : BitVec 9) (f : Guard) : Dec.getGuard (Dec.packGuard op f) = f := by
  obtain ⟨p, neg⟩ := f
  have := op.isLt; have := p.isLt; have := Bool.toNat_lt neg
  simp only [Dec.getGuard, Guard.mk.injEq]
  refine ⟨?_, ?_⟩ <;> first | apply Dec.fld_eq | apply Dec.bit_eq
  all_goals (rw [Dec.packGuard_toNat]; simp only [BitVec.toNat_ofNat, Nat.zero_mod]; omega)

/-! ## JmpiF -/

/-- The word as a number. -/
theorem Dec.packJmpiF_toNat (op : BitVec 9) (f : JmpiF) : (Dec.packJmpiF op f).toNat =
    ((((((op.toNat * 2 ^ 14 + (0#14).toNat) * 2 ^ 1 + f.all.toNat) * 2 ^ 11 + f.a.toNat) * 2 ^ 24 + (0#24).toNat) * 2 ^ 3 + f.g.p.toNat) * 2 ^ 1 + f.g.neg.toNat) * 2 ^ 1 + (0#1).toNat := by
  rw [Dec.packJmpiF]
  repeat erw [Dec.cat_toNat]
  simp only [Dec.b1_toNat]

/-- Its opcode. -/
theorem Dec.packJmpiF_op (op : BitVec 9) (f : JmpiF) : Dec.fld (Dec.packJmpiF op f) 55 9 = op := by
  apply Dec.fld_eq
  have := op.isLt; have := Bool.toNat_lt f.all; have := f.a.isLt; have := f.g.p.isLt; have := Bool.toNat_lt f.g.neg
  rw [Dec.packJmpiF_toNat]
  simp only [BitVec.toNat_ofNat, Nat.zero_mod]
  omega

/-- Its fields. -/
theorem Dec.getJmpiF_pack (op : BitVec 9) (f : JmpiF) : Dec.getJmpiF (Dec.packJmpiF op f) = f := by
  obtain ⟨all, a, ⟨p, neg⟩⟩ := f
  have := op.isLt; have := Bool.toNat_lt all; have := a.isLt; have := p.isLt; have := Bool.toNat_lt neg
  simp only [Dec.getJmpiF, JmpiF.mk.injEq, Guard.mk.injEq]
  refine ⟨?_, ?_, ⟨?_, ?_⟩⟩ <;> first | apply Dec.fld_eq | apply Dec.bit_eq
  all_goals (rw [Dec.packJmpiF_toNat]; simp only [BitVec.toNat_ofNat, Nat.zero_mod]; omega)

/-! ## LoopF -/

/-- The word as a number. -/
theorem Dec.packLoopF_toNat (op : BitVec 9) (f : LoopF) : (Dec.packLoopF op f).toNat =
    ((((((op.toNat * 2 ^ 4 + (0#4).toNat) * 2 ^ 11 + f.d.toNat) * 2 ^ 33 + f.disp.toNat) * 2 ^ 2 + (0#2).toNat) * 2 ^ 3 + f.g.p.toNat) * 2 ^ 1 + f.g.neg.toNat) * 2 ^ 1 + (0#1).toNat := by
  rw [Dec.packLoopF]
  repeat erw [Dec.cat_toNat]
  simp only [Dec.b1_toNat]

/-- Its opcode. -/
theorem Dec.packLoopF_op (op : BitVec 9) (f : LoopF) : Dec.fld (Dec.packLoopF op f) 55 9 = op := by
  apply Dec.fld_eq
  have := op.isLt; have := f.d.isLt; have := f.disp.isLt; have := f.g.p.isLt; have := Bool.toNat_lt f.g.neg
  rw [Dec.packLoopF_toNat]
  simp only [BitVec.toNat_ofNat, Nat.zero_mod]
  omega

/-- Its fields. -/
theorem Dec.getLoopF_pack (op : BitVec 9) (f : LoopF) : Dec.getLoopF (Dec.packLoopF op f) = f := by
  obtain ⟨d, disp, ⟨p, neg⟩⟩ := f
  have := op.isLt; have := d.isLt; have := disp.isLt; have := p.isLt; have := Bool.toNat_lt neg
  simp only [Dec.getLoopF, LoopF.mk.injEq, Guard.mk.injEq]
  refine ⟨?_, ?_, ⟨?_, ?_⟩⟩ <;> first | apply Dec.fld_eq | apply Dec.bit_eq
  all_goals (rw [Dec.packLoopF_toNat]; simp only [BitVec.toNat_ofNat, Nat.zero_mod]; omega)

/-! ## CodeF -/

/-- The word as a number. -/
theorem Dec.packCodeF_toNat (op : BitVec 9) (f : CodeF) : (Dec.packCodeF op f).toNat =
    (((((op.toNat * 2 ^ 37 + (0#37).toNat) * 2 ^ 11 + f.n.toNat) * 2 ^ 2 + (0#2).toNat) * 2 ^ 3 + f.g.p.toNat) * 2 ^ 1 + f.g.neg.toNat) * 2 ^ 1 + (0#1).toNat := by
  rw [Dec.packCodeF]
  repeat erw [Dec.cat_toNat]
  simp only [Dec.b1_toNat]

/-- Its opcode. -/
theorem Dec.packCodeF_op (op : BitVec 9) (f : CodeF) : Dec.fld (Dec.packCodeF op f) 55 9 = op := by
  apply Dec.fld_eq
  have := op.isLt; have := f.n.isLt; have := f.g.p.isLt; have := Bool.toNat_lt f.g.neg
  rw [Dec.packCodeF_toNat]
  simp only [BitVec.toNat_ofNat, Nat.zero_mod]
  omega

/-- Its fields. -/
theorem Dec.getCodeF_pack (op : BitVec 9) (f : CodeF) : Dec.getCodeF (Dec.packCodeF op f) = f := by
  obtain ⟨n, ⟨p, neg⟩⟩ := f
  have := op.isLt; have := n.isLt; have := p.isLt; have := Bool.toNat_lt neg
  simp only [Dec.getCodeF, CodeF.mk.injEq, Guard.mk.injEq]
  refine ⟨?_, ⟨?_, ?_⟩⟩ <;> first | apply Dec.fld_eq | apply Dec.bit_eq
  all_goals (rw [Dec.packCodeF_toNat]; simp only [BitVec.toNat_ofNat, Nat.zero_mod]; omega)

/-! ## RepF -/

/-- The word as a number. -/
theorem Dec.packRepF_toNat (op : BitVec 9) (f : RepF) : (Dec.packRepF op f).toNat =
    (((((op.toNat * 2 ^ 6 + f.n.toNat) * 2 ^ 8 + f.sd.toNat) * 2 ^ 8 + f.sa.toNat) * 2 ^ 8 + f.sb.toNat) * 2 ^ 8 + f.sc.toNat) * 2 ^ 17 + (0#17).toNat := by
  rw [Dec.packRepF]
  repeat erw [Dec.cat_toNat]

/-- Its opcode. -/
theorem Dec.packRepF_op (op : BitVec 9) (f : RepF) : Dec.fld (Dec.packRepF op f) 55 9 = op := by
  apply Dec.fld_eq
  have := op.isLt; have := f.n.isLt; have := f.sd.isLt; have := f.sa.isLt; have := f.sb.isLt; have := f.sc.isLt
  rw [Dec.packRepF_toNat]
  simp only [BitVec.toNat_ofNat, Nat.zero_mod]
  omega

/-- Its fields. -/
theorem Dec.getRepF_pack (op : BitVec 9) (f : RepF) : Dec.getRepF (Dec.packRepF op f) = f := by
  obtain ⟨n, sd, sa, sb, sc⟩ := f
  have := op.isLt; have := n.isLt; have := sd.isLt; have := sa.isLt; have := sb.isLt; have := sc.isLt
  simp only [Dec.getRepF, RepF.mk.injEq]
  refine ⟨?_, ?_, ?_, ?_, ?_⟩ <;> first | apply Dec.fld_eq | apply Dec.bit_eq
  all_goals (rw [Dec.packRepF_toNat]; simp only [BitVec.toNat_ofNat, Nat.zero_mod]; omega)

/-! ## RgnF -/

/-- The word as a number. -/
theorem Dec.packRgnF_toNat (op : BitVec 9) (f : RgnF) : (Dec.packRgnF op f).toNat =
    (((((((((op.toNat * 2 ^ 15 + (0#15).toNat) * 2 ^ 11 + f.a.toNat) * 2 ^ 3 + (0#3).toNat) * 2 ^ 8 + f.count.toNat) * 2 ^ 10 + (0#10).toNat) * 2 ^ 1 + f.new.toNat) * 2 ^ 2 + (0#2).toNat) * 2 ^ 3 + f.g.p.toNat) * 2 ^ 1 + f.g.neg.toNat) * 2 ^ 1 + (0#1).toNat := by
  rw [Dec.packRgnF]
  repeat erw [Dec.cat_toNat]
  simp only [Dec.b1_toNat]

/-- Its opcode. -/
theorem Dec.packRgnF_op (op : BitVec 9) (f : RgnF) : Dec.fld (Dec.packRgnF op f) 55 9 = op := by
  apply Dec.fld_eq
  have := op.isLt; have := f.a.isLt; have := f.count.isLt; have := Bool.toNat_lt f.new; have := f.g.p.isLt; have := Bool.toNat_lt f.g.neg
  rw [Dec.packRgnF_toNat]
  simp only [BitVec.toNat_ofNat, Nat.zero_mod]
  omega

/-- Its fields. -/
theorem Dec.getRgnF_pack (op : BitVec 9) (f : RgnF) : Dec.getRgnF (Dec.packRgnF op f) = f := by
  obtain ⟨a, count, new, ⟨p, neg⟩⟩ := f
  have := op.isLt; have := a.isLt; have := count.isLt; have := Bool.toNat_lt new; have := p.isLt; have := Bool.toNat_lt neg
  simp only [Dec.getRgnF, RgnF.mk.injEq, Guard.mk.injEq]
  refine ⟨?_, ?_, ?_, ⟨?_, ?_⟩⟩ <;> first | apply Dec.fld_eq | apply Dec.bit_eq
  all_goals (rw [Dec.packRgnF_toNat]; simp only [BitVec.toNat_ofNat, Nat.zero_mod]; omega)

/-! ## DAF -/

/-- The word as a number. -/
theorem Dec.packDAF_toNat (op : BitVec 9) (f : DAF) : (Dec.packDAF op f).toNat =
    ((((((op.toNat * 2 ^ 4 + (0#4).toNat) * 2 ^ 11 + f.d.toNat) * 2 ^ 11 + f.a.toNat) * 2 ^ 24 + (0#24).toNat) * 2 ^ 3 + f.g.p.toNat) * 2 ^ 1 + f.g.neg.toNat) * 2 ^ 1 + (0#1).toNat := by
  rw [Dec.packDAF]
  repeat erw [Dec.cat_toNat]
  simp only [Dec.b1_toNat]

/-- Its opcode. -/
theorem Dec.packDAF_op (op : BitVec 9) (f : DAF) : Dec.fld (Dec.packDAF op f) 55 9 = op := by
  apply Dec.fld_eq
  have := op.isLt; have := f.d.isLt; have := f.a.isLt; have := f.g.p.isLt; have := Bool.toNat_lt f.g.neg
  rw [Dec.packDAF_toNat]
  simp only [BitVec.toNat_ofNat, Nat.zero_mod]
  omega

/-- Its fields. -/
theorem Dec.getDAF_pack (op : BitVec 9) (f : DAF) : Dec.getDAF (Dec.packDAF op f) = f := by
  obtain ⟨d, a, ⟨p, neg⟩⟩ := f
  have := op.isLt; have := d.isLt; have := a.isLt; have := p.isLt; have := Bool.toNat_lt neg
  simp only [Dec.getDAF, DAF.mk.injEq, Guard.mk.injEq]
  refine ⟨?_, ?_, ⟨?_, ?_⟩⟩ <;> first | apply Dec.fld_eq | apply Dec.bit_eq
  all_goals (rw [Dec.packDAF_toNat]; simp only [BitVec.toNat_ofNat, Nat.zero_mod]; omega)

/-! ## ABF -/

/-- The word as a number. -/
theorem Dec.packABF_toNat (op : BitVec 9) (f : ABF) : (Dec.packABF op f).toNat =
    ((((((op.toNat * 2 ^ 15 + (0#15).toNat) * 2 ^ 11 + f.a.toNat) * 2 ^ 11 + f.b.toNat) * 2 ^ 13 + (0#13).toNat) * 2 ^ 3 + f.g.p.toNat) * 2 ^ 1 + f.g.neg.toNat) * 2 ^ 1 + (0#1).toNat := by
  rw [Dec.packABF]
  repeat erw [Dec.cat_toNat]
  simp only [Dec.b1_toNat]

/-- Its opcode. -/
theorem Dec.packABF_op (op : BitVec 9) (f : ABF) : Dec.fld (Dec.packABF op f) 55 9 = op := by
  apply Dec.fld_eq
  have := op.isLt; have := f.a.isLt; have := f.b.isLt; have := f.g.p.isLt; have := Bool.toNat_lt f.g.neg
  rw [Dec.packABF_toNat]
  simp only [BitVec.toNat_ofNat, Nat.zero_mod]
  omega

/-- Its fields. -/
theorem Dec.getABF_pack (op : BitVec 9) (f : ABF) : Dec.getABF (Dec.packABF op f) = f := by
  obtain ⟨a, b, ⟨p, neg⟩⟩ := f
  have := op.isLt; have := a.isLt; have := b.isLt; have := p.isLt; have := Bool.toNat_lt neg
  simp only [Dec.getABF, ABF.mk.injEq, Guard.mk.injEq]
  refine ⟨?_, ?_, ⟨?_, ?_⟩⟩ <;> first | apply Dec.fld_eq | apply Dec.bit_eq
  all_goals (rw [Dec.packABF_toNat]; simp only [BitVec.toNat_ofNat, Nat.zero_mod]; omega)

/-! ## AF -/

/-- The word as a number. -/
theorem Dec.packAF_toNat (op : BitVec 9) (f : AF) : (Dec.packAF op f).toNat =
    (((((op.toNat * 2 ^ 15 + (0#15).toNat) * 2 ^ 11 + f.a.toNat) * 2 ^ 24 + (0#24).toNat) * 2 ^ 3 + f.g.p.toNat) * 2 ^ 1 + f.g.neg.toNat) * 2 ^ 1 + (0#1).toNat := by
  rw [Dec.packAF]
  repeat erw [Dec.cat_toNat]
  simp only [Dec.b1_toNat]

/-- Its opcode. -/
theorem Dec.packAF_op (op : BitVec 9) (f : AF) : Dec.fld (Dec.packAF op f) 55 9 = op := by
  apply Dec.fld_eq
  have := op.isLt; have := f.a.isLt; have := f.g.p.isLt; have := Bool.toNat_lt f.g.neg
  rw [Dec.packAF_toNat]
  simp only [BitVec.toNat_ofNat, Nat.zero_mod]
  omega

/-- Its fields. -/
theorem Dec.getAF_pack (op : BitVec 9) (f : AF) : Dec.getAF (Dec.packAF op f) = f := by
  obtain ⟨a, ⟨p, neg⟩⟩ := f
  have := op.isLt; have := a.isLt; have := p.isLt; have := Bool.toNat_lt neg
  simp only [Dec.getAF, AF.mk.injEq, Guard.mk.injEq]
  refine ⟨?_, ⟨?_, ?_⟩⟩ <;> first | apply Dec.fld_eq | apply Dec.bit_eq
  all_goals (rw [Dec.packAF_toNat]; simp only [BitVec.toNat_ofNat, Nat.zero_mod]; omega)

/-! ## MovxF -/

/-- The word as a number. -/
theorem Dec.packMovxF_toNat (op : BitVec 9) (f : MovxF) : (Dec.packMovxF op f).toNat =
    (((((((op.toNat * 2 ^ 4 + (0#4).toNat) * 2 ^ 11 + f.d.toNat) * 2 ^ 11 + f.a.toNat) * 2 ^ 22 + (0#22).toNat) * 2 ^ 2 + f.cc.toNat) * 2 ^ 3 + f.g.p.toNat) * 2 ^ 1 + f.g.neg.toNat) * 2 ^ 1 + (0#1).toNat := by
  rw [Dec.packMovxF]
  repeat erw [Dec.cat_toNat]
  simp only [Dec.b1_toNat]

/-- Its opcode. -/
theorem Dec.packMovxF_op (op : BitVec 9) (f : MovxF) : Dec.fld (Dec.packMovxF op f) 55 9 = op := by
  apply Dec.fld_eq
  have := op.isLt; have := f.d.isLt; have := f.a.isLt; have := f.cc.isLt; have := f.g.p.isLt; have := Bool.toNat_lt f.g.neg
  rw [Dec.packMovxF_toNat]
  simp only [BitVec.toNat_ofNat, Nat.zero_mod]
  omega

/-- Its fields. -/
theorem Dec.getMovxF_pack (op : BitVec 9) (f : MovxF) : Dec.getMovxF (Dec.packMovxF op f) = f := by
  obtain ⟨d, a, cc, ⟨p, neg⟩⟩ := f
  have := op.isLt; have := d.isLt; have := a.isLt; have := cc.isLt; have := p.isLt; have := Bool.toNat_lt neg
  simp only [Dec.getMovxF, MovxF.mk.injEq, Guard.mk.injEq]
  refine ⟨?_, ?_, ?_, ⟨?_, ?_⟩⟩ <;> first | apply Dec.fld_eq | apply Dec.bit_eq
  all_goals (rw [Dec.packMovxF_toNat]; simp only [BitVec.toNat_ofNat, Nat.zero_mod]; omega)

/-! ## RkillF -/

/-- The word as a number. -/
theorem Dec.packRkillF_toNat (op : BitVec 9) (f : RkillF) : (Dec.packRkillF op f).toNat =
    (((((((op.toNat * 2 ^ 15 + (0#15).toNat) * 2 ^ 11 + f.a.toNat) * 2 ^ 3 + (0#3).toNat) * 2 ^ 8 + f.count.toNat) * 2 ^ 13 + (0#13).toNat) * 2 ^ 3 + f.g.p.toNat) * 2 ^ 1 + f.g.neg.toNat) * 2 ^ 1 + (0#1).toNat := by
  rw [Dec.packRkillF]
  repeat erw [Dec.cat_toNat]
  simp only [Dec.b1_toNat]

/-- Its opcode. -/
theorem Dec.packRkillF_op (op : BitVec 9) (f : RkillF) : Dec.fld (Dec.packRkillF op f) 55 9 = op := by
  apply Dec.fld_eq
  have := op.isLt; have := f.a.isLt; have := f.count.isLt; have := f.g.p.isLt; have := Bool.toNat_lt f.g.neg
  rw [Dec.packRkillF_toNat]
  simp only [BitVec.toNat_ofNat, Nat.zero_mod]
  omega

/-- Its fields. -/
theorem Dec.getRkillF_pack (op : BitVec 9) (f : RkillF) : Dec.getRkillF (Dec.packRkillF op f) = f := by
  obtain ⟨a, count, ⟨p, neg⟩⟩ := f
  have := op.isLt; have := a.isLt; have := count.isLt; have := p.isLt; have := Bool.toNat_lt neg
  simp only [Dec.getRkillF, RkillF.mk.injEq, Guard.mk.injEq]
  refine ⟨?_, ?_, ⟨?_, ?_⟩⟩ <;> first | apply Dec.fld_eq | apply Dec.bit_eq
  all_goals (rw [Dec.packRkillF_toNat]; simp only [BitVec.toNat_ofNat, Nat.zero_mod]; omega)

/-! ## CvtF -/

/-- The word as a number. -/
theorem Dec.packCvtF_toNat (op : BitVec 9) (f : CvtF) : (Dec.packCvtF op f).toNat =
    ((((((((((((op.toNat * 2 ^ 4 + f.ty.toNat) * 2 ^ 11 + f.d.toNat) * 2 ^ 11 + f.a.toNat) * 2 ^ 7 + (0#7).toNat) * 2 ^ 4 + f.part.toNat) * 2 ^ 4 + f.la.toNat) * 2 ^ 1 + f.sf.toNat) * 2 ^ 2 + f.rm.toNat) * 2 ^ 4 + f.st.toNat) * 2 ^ 2 + f.cc.toNat) * 2 ^ 3 + f.g.p.toNat) * 2 ^ 1 + f.g.neg.toNat) * 2 ^ 1 + (0#1).toNat := by
  rw [Dec.packCvtF]
  repeat erw [Dec.cat_toNat]
  simp only [Dec.b1_toNat]

/-- Its opcode. -/
theorem Dec.packCvtF_op (op : BitVec 9) (f : CvtF) : Dec.fld (Dec.packCvtF op f) 55 9 = op := by
  apply Dec.fld_eq
  have := op.isLt; have := f.ty.isLt; have := f.d.isLt; have := f.a.isLt; have := f.part.isLt; have := f.la.isLt; have := Bool.toNat_lt f.sf; have := f.rm.isLt; have := f.st.isLt; have := f.cc.isLt; have := f.g.p.isLt; have := Bool.toNat_lt f.g.neg
  rw [Dec.packCvtF_toNat]
  simp only [BitVec.toNat_ofNat, Nat.zero_mod]
  omega

/-- Its fields. -/
theorem Dec.getCvtF_pack (op : BitVec 9) (f : CvtF) : Dec.getCvtF (Dec.packCvtF op f) = f := by
  obtain ⟨ty, d, a, part, la, sf, rm, st, cc, ⟨p, neg⟩⟩ := f
  have := op.isLt; have := ty.isLt; have := d.isLt; have := a.isLt; have := part.isLt; have := la.isLt; have := Bool.toNat_lt sf; have := rm.isLt; have := st.isLt; have := cc.isLt; have := p.isLt; have := Bool.toNat_lt neg
  simp only [Dec.getCvtF, CvtF.mk.injEq, Guard.mk.injEq]
  refine ⟨?_, ?_, ?_, ?_, ?_, ?_, ?_, ?_, ?_, ⟨?_, ?_⟩⟩ <;> first | apply Dec.fld_eq | apply Dec.bit_eq
  all_goals (rw [Dec.packCvtF_toNat]; simp only [BitVec.toNat_ofNat, Nat.zero_mod]; omega)

/-! ## CvtiF -/

/-- The word as a number. -/
theorem Dec.packCvtiF_toNat (op : BitVec 9) (f : CvtiF) : (Dec.packCvtiF op f).toNat =
    (((((((((((op.toNat * 2 ^ 4 + f.ty.toNat) * 2 ^ 11 + f.d.toNat) * 2 ^ 11 + f.a.toNat) * 2 ^ 11 + (0#11).toNat) * 2 ^ 2 + (0#2).toNat) * 2 ^ 1 + f.sat.toNat) * 2 ^ 4 + f.part.toNat) * 2 ^ 4 + f.st.toNat) * 2 ^ 2 + f.cc.toNat) * 2 ^ 3 + f.g.p.toNat) * 2 ^ 1 + f.g.neg.toNat) * 2 ^ 1 + (0#1).toNat := by
  rw [Dec.packCvtiF]
  repeat erw [Dec.cat_toNat]
  simp only [Dec.b1_toNat]

/-- Its opcode. -/
theorem Dec.packCvtiF_op (op : BitVec 9) (f : CvtiF) : Dec.fld (Dec.packCvtiF op f) 55 9 = op := by
  apply Dec.fld_eq
  have := op.isLt; have := f.ty.isLt; have := f.d.isLt; have := f.a.isLt; have := Bool.toNat_lt f.sat; have := f.part.isLt; have := f.st.isLt; have := f.cc.isLt; have := f.g.p.isLt; have := Bool.toNat_lt f.g.neg
  rw [Dec.packCvtiF_toNat]
  simp only [BitVec.toNat_ofNat, Nat.zero_mod]
  omega

/-- Its fields. -/
theorem Dec.getCvtiF_pack (op : BitVec 9) (f : CvtiF) : Dec.getCvtiF (Dec.packCvtiF op f) = f := by
  obtain ⟨ty, d, a, sat, part, st, cc, ⟨p, neg⟩⟩ := f
  have := op.isLt; have := ty.isLt; have := d.isLt; have := a.isLt; have := Bool.toNat_lt sat; have := part.isLt; have := st.isLt; have := cc.isLt; have := p.isLt; have := Bool.toNat_lt neg
  simp only [Dec.getCvtiF, CvtiF.mk.injEq, Guard.mk.injEq]
  refine ⟨?_, ?_, ?_, ?_, ?_, ?_, ?_, ⟨?_, ?_⟩⟩ <;> first | apply Dec.fld_eq | apply Dec.bit_eq
  all_goals (rw [Dec.packCvtiF_toNat]; simp only [BitVec.toNat_ofNat, Nat.zero_mod]; omega)

/-! ## CvtfF -/

/-- The word as a number. -/
theorem Dec.packCvtfF_toNat (op : BitVec 9) (f : CvtfF) : (Dec.packCvtfF op f).toNat =
    (((((((((((op.toNat * 2 ^ 4 + f.ty.toNat) * 2 ^ 11 + f.d.toNat) * 2 ^ 11 + f.a.toNat) * 2 ^ 11 + (0#11).toNat) * 2 ^ 1 + (0#1).toNat) * 2 ^ 4 + f.part.toNat) * 2 ^ 2 + f.rm.toNat) * 2 ^ 4 + f.st.toNat) * 2 ^ 2 + f.cc.toNat) * 2 ^ 3 + f.g.p.toNat) * 2 ^ 1 + f.g.neg.toNat) * 2 ^ 1 + (0#1).toNat := by
  rw [Dec.packCvtfF]
  repeat erw [Dec.cat_toNat]
  simp only [Dec.b1_toNat]

/-- Its opcode. -/
theorem Dec.packCvtfF_op (op : BitVec 9) (f : CvtfF) : Dec.fld (Dec.packCvtfF op f) 55 9 = op := by
  apply Dec.fld_eq
  have := op.isLt; have := f.ty.isLt; have := f.d.isLt; have := f.a.isLt; have := f.part.isLt; have := f.rm.isLt; have := f.st.isLt; have := f.cc.isLt; have := f.g.p.isLt; have := Bool.toNat_lt f.g.neg
  rw [Dec.packCvtfF_toNat]
  simp only [BitVec.toNat_ofNat, Nat.zero_mod]
  omega

/-- Its fields. -/
theorem Dec.getCvtfF_pack (op : BitVec 9) (f : CvtfF) : Dec.getCvtfF (Dec.packCvtfF op f) = f := by
  obtain ⟨ty, d, a, part, rm, st, cc, ⟨p, neg⟩⟩ := f
  have := op.isLt; have := ty.isLt; have := d.isLt; have := a.isLt; have := part.isLt; have := rm.isLt; have := st.isLt; have := cc.isLt; have := p.isLt; have := Bool.toNat_lt neg
  simp only [Dec.getCvtfF, CvtfF.mk.injEq, Guard.mk.injEq]
  refine ⟨?_, ?_, ?_, ?_, ?_, ?_, ?_, ⟨?_, ?_⟩⟩ <;> first | apply Dec.fld_eq | apply Dec.bit_eq
  all_goals (rw [Dec.packCvtfF_toNat]; simp only [BitVec.toNat_ofNat, Nat.zero_mod]; omega)

/-! ## QntF -/

/-- The word as a number. -/
theorem Dec.packQntF_toNat (op : BitVec 9) (f : QntF) : (Dec.packQntF op f).toNat =
    ((((((((((op.toNat * 2 ^ 4 + f.ty.toNat) * 2 ^ 11 + f.d.toNat) * 2 ^ 11 + f.a.toNat) * 2 ^ 11 + f.b.toNat) * 2 ^ 4 + f.la.toNat) * 2 ^ 3 + f.part.toNat) * 2 ^ 4 + f.st.toNat) * 2 ^ 2 + f.cc.toNat) * 2 ^ 3 + f.g.p.toNat) * 2 ^ 1 + f.g.neg.toNat) * 2 ^ 1 + (0#1).toNat := by
  rw [Dec.packQntF]
  repeat erw [Dec.cat_toNat]
  simp only [Dec.b1_toNat]

/-- Its opcode. -/
theorem Dec.packQntF_op (op : BitVec 9) (f : QntF) : Dec.fld (Dec.packQntF op f) 55 9 = op := by
  apply Dec.fld_eq
  have := op.isLt; have := f.ty.isLt; have := f.d.isLt; have := f.a.isLt; have := f.b.isLt; have := f.la.isLt; have := f.part.isLt; have := f.st.isLt; have := f.cc.isLt; have := f.g.p.isLt; have := Bool.toNat_lt f.g.neg
  rw [Dec.packQntF_toNat]
  simp only [BitVec.toNat_ofNat, Nat.zero_mod]
  omega

/-- Its fields. -/
theorem Dec.getQntF_pack (op : BitVec 9) (f : QntF) : Dec.getQntF (Dec.packQntF op f) = f := by
  obtain ⟨ty, d, a, b, la, part, st, cc, ⟨p, neg⟩⟩ := f
  have := op.isLt; have := ty.isLt; have := d.isLt; have := a.isLt; have := b.isLt; have := la.isLt; have := part.isLt; have := st.isLt; have := cc.isLt; have := p.isLt; have := Bool.toNat_lt neg
  simp only [Dec.getQntF, QntF.mk.injEq, Guard.mk.injEq]
  refine ⟨?_, ?_, ?_, ?_, ?_, ?_, ?_, ?_, ⟨?_, ?_⟩⟩ <;> first | apply Dec.fld_eq | apply Dec.bit_eq
  all_goals (rw [Dec.packQntF_toNat]; simp only [BitVec.toNat_ofNat, Nat.zero_mod]; omega)

/-! ## DqntF -/

/-- The word as a number. -/
theorem Dec.packDqntF_toNat (op : BitVec 9) (f : DqntF) : (Dec.packDqntF op f).toNat =
    ((((((((((op.toNat * 2 ^ 4 + f.ty.toNat) * 2 ^ 11 + f.d.toNat) * 2 ^ 11 + f.a.toNat) * 2 ^ 11 + f.b.toNat) * 2 ^ 3 + (0#3).toNat) * 2 ^ 4 + f.part.toNat) * 2 ^ 4 + f.st.toNat) * 2 ^ 2 + f.cc.toNat) * 2 ^ 3 + f.g.p.toNat) * 2 ^ 1 + f.g.neg.toNat) * 2 ^ 1 + (0#1).toNat := by
  rw [Dec.packDqntF]
  repeat erw [Dec.cat_toNat]
  simp only [Dec.b1_toNat]

/-- Its opcode. -/
theorem Dec.packDqntF_op (op : BitVec 9) (f : DqntF) : Dec.fld (Dec.packDqntF op f) 55 9 = op := by
  apply Dec.fld_eq
  have := op.isLt; have := f.ty.isLt; have := f.d.isLt; have := f.a.isLt; have := f.b.isLt; have := f.part.isLt; have := f.st.isLt; have := f.cc.isLt; have := f.g.p.isLt; have := Bool.toNat_lt f.g.neg
  rw [Dec.packDqntF_toNat]
  simp only [BitVec.toNat_ofNat, Nat.zero_mod]
  omega

/-- Its fields. -/
theorem Dec.getDqntF_pack (op : BitVec 9) (f : DqntF) : Dec.getDqntF (Dec.packDqntF op f) = f := by
  obtain ⟨ty, d, a, b, part, st, cc, ⟨p, neg⟩⟩ := f
  have := op.isLt; have := ty.isLt; have := d.isLt; have := a.isLt; have := b.isLt; have := part.isLt; have := st.isLt; have := cc.isLt; have := p.isLt; have := Bool.toNat_lt neg
  simp only [Dec.getDqntF, DqntF.mk.injEq, Guard.mk.injEq]
  refine ⟨?_, ?_, ?_, ?_, ?_, ?_, ?_, ⟨?_, ?_⟩⟩ <;> first | apply Dec.fld_eq | apply Dec.bit_eq
  all_goals (rw [Dec.packDqntF_toNat]; simp only [BitVec.toNat_ofNat, Nat.zero_mod]; omega)

/-! ## AmaxF -/

/-- The word as a number. -/
theorem Dec.packAmaxF_toNat (op : BitVec 9) (f : AmaxF) : (Dec.packAmaxF op f).toNat =
    (((((((op.toNat * 2 ^ 4 + (0#4).toNat) * 2 ^ 11 + f.d.toNat) * 2 ^ 32 + (0#32).toNat) * 2 ^ 1 + f.clr.toNat) * 2 ^ 2 + f.cc.toNat) * 2 ^ 3 + f.g.p.toNat) * 2 ^ 1 + f.g.neg.toNat) * 2 ^ 1 + (0#1).toNat := by
  rw [Dec.packAmaxF]
  repeat erw [Dec.cat_toNat]
  simp only [Dec.b1_toNat]

/-- Its opcode. -/
theorem Dec.packAmaxF_op (op : BitVec 9) (f : AmaxF) : Dec.fld (Dec.packAmaxF op f) 55 9 = op := by
  apply Dec.fld_eq
  have := op.isLt; have := f.d.isLt; have := Bool.toNat_lt f.clr; have := f.cc.isLt; have := f.g.p.isLt; have := Bool.toNat_lt f.g.neg
  rw [Dec.packAmaxF_toNat]
  simp only [BitVec.toNat_ofNat, Nat.zero_mod]
  omega

/-- Its fields. -/
theorem Dec.getAmaxF_pack (op : BitVec 9) (f : AmaxF) : Dec.getAmaxF (Dec.packAmaxF op f) = f := by
  obtain ⟨d, clr, cc, ⟨p, neg⟩⟩ := f
  have := op.isLt; have := d.isLt; have := Bool.toNat_lt clr; have := cc.isLt; have := p.isLt; have := Bool.toNat_lt neg
  simp only [Dec.getAmaxF, AmaxF.mk.injEq, Guard.mk.injEq]
  refine ⟨?_, ?_, ?_, ⟨?_, ?_⟩⟩ <;> first | apply Dec.fld_eq | apply Dec.bit_eq
  all_goals (rw [Dec.packAmaxF_toNat]; simp only [BitVec.toNat_ofNat, Nat.zero_mod]; omega)

/-! ## ShflF -/

/-- The word as a number. -/
theorem Dec.packShflF_toNat (op : BitVec 9) (f : ShflF) : (Dec.packShflF op f).toNat =
    ((((((((((((op.toNat * 2 ^ 4 + f.ty.toNat) * 2 ^ 11 + f.d.toNat) * 2 ^ 11 + f.a.toNat) * 2 ^ 11 + f.b.toNat) * 2 ^ 2 + (0#2).toNat) * 2 ^ 1 + f.pe.toNat) * 2 ^ 3 + f.pn.toNat) * 2 ^ 1 + (0#1).toNat) * 2 ^ 4 + f.gs.toNat) * 2 ^ 2 + f.cc.toNat) * 2 ^ 3 + f.g.p.toNat) * 2 ^ 1 + f.g.neg.toNat) * 2 ^ 1 + (0#1).toNat := by
  rw [Dec.packShflF]
  repeat erw [Dec.cat_toNat]
  simp only [Dec.b1_toNat]

/-- Its opcode. -/
theorem Dec.packShflF_op (op : BitVec 9) (f : ShflF) : Dec.fld (Dec.packShflF op f) 55 9 = op := by
  apply Dec.fld_eq
  have := op.isLt; have := f.ty.isLt; have := f.d.isLt; have := f.a.isLt; have := f.b.isLt; have := Bool.toNat_lt f.pe; have := f.pn.isLt; have := f.gs.isLt; have := f.cc.isLt; have := f.g.p.isLt; have := Bool.toNat_lt f.g.neg
  rw [Dec.packShflF_toNat]
  simp only [BitVec.toNat_ofNat, Nat.zero_mod]
  omega

/-- Its fields. -/
theorem Dec.getShflF_pack (op : BitVec 9) (f : ShflF) : Dec.getShflF (Dec.packShflF op f) = f := by
  obtain ⟨ty, d, a, b, pe, pn, gs, cc, ⟨p, neg⟩⟩ := f
  have := op.isLt; have := ty.isLt; have := d.isLt; have := a.isLt; have := b.isLt; have := Bool.toNat_lt pe; have := pn.isLt; have := gs.isLt; have := cc.isLt; have := p.isLt; have := Bool.toNat_lt neg
  simp only [Dec.getShflF, ShflF.mk.injEq, Guard.mk.injEq]
  refine ⟨?_, ?_, ?_, ?_, ?_, ?_, ?_, ?_, ⟨?_, ?_⟩⟩ <;> first | apply Dec.fld_eq | apply Dec.bit_eq
  all_goals (rw [Dec.packShflF_toNat]; simp only [BitVec.toNat_ofNat, Nat.zero_mod]; omega)

/-! ## BcastF -/

/-- The word as a number. -/
theorem Dec.packBcastF_toNat (op : BitVec 9) (f : BcastF) : (Dec.packBcastF op f).toNat =
    (((((((((op.toNat * 2 ^ 4 + f.ty.toNat) * 2 ^ 11 + f.d.toNat) * 2 ^ 11 + f.a.toNat) * 2 ^ 11 + f.pos.toNat) * 2 ^ 7 + (0#7).toNat) * 2 ^ 4 + f.gs.toNat) * 2 ^ 2 + f.cc.toNat) * 2 ^ 3 + f.g.p.toNat) * 2 ^ 1 + f.g.neg.toNat) * 2 ^ 1 + (0#1).toNat := by
  rw [Dec.packBcastF]
  repeat erw [Dec.cat_toNat]
  simp only [Dec.b1_toNat]

/-- Its opcode. -/
theorem Dec.packBcastF_op (op : BitVec 9) (f : BcastF) : Dec.fld (Dec.packBcastF op f) 55 9 = op := by
  apply Dec.fld_eq
  have := op.isLt; have := f.ty.isLt; have := f.d.isLt; have := f.a.isLt; have := f.pos.isLt; have := f.gs.isLt; have := f.cc.isLt; have := f.g.p.isLt; have := Bool.toNat_lt f.g.neg
  rw [Dec.packBcastF_toNat]
  simp only [BitVec.toNat_ofNat, Nat.zero_mod]
  omega

/-- Its fields. -/
theorem Dec.getBcastF_pack (op : BitVec 9) (f : BcastF) : Dec.getBcastF (Dec.packBcastF op f) = f := by
  obtain ⟨ty, d, a, pos, gs, cc, ⟨p, neg⟩⟩ := f
  have := op.isLt; have := ty.isLt; have := d.isLt; have := a.isLt; have := pos.isLt; have := gs.isLt; have := cc.isLt; have := p.isLt; have := Bool.toNat_lt neg
  simp only [Dec.getBcastF, BcastF.mk.injEq, Guard.mk.injEq]
  refine ⟨?_, ?_, ?_, ?_, ?_, ?_, ⟨?_, ?_⟩⟩ <;> first | apply Dec.fld_eq | apply Dec.bit_eq
  all_goals (rw [Dec.packBcastF_toNat]; simp only [BitVec.toNat_ofNat, Nat.zero_mod]; omega)

/-! ## RedF -/

/-- The word as a number. -/
theorem Dec.packRedF_toNat (op : BitVec 9) (f : RedF) : (Dec.packRedF op f).toNat =
    ((((((((((((op.toNat * 2 ^ 4 + f.ty.toNat) * 2 ^ 11 + f.d.toNat) * 2 ^ 11 + f.a.toNat) * 2 ^ 11 + (0#11).toNat) * 2 ^ 2 + (0#2).toNat) * 2 ^ 1 + f.ex.toNat) * 2 ^ 3 + f.op.toNat) * 2 ^ 1 + (0#1).toNat) * 2 ^ 4 + f.gs.toNat) * 2 ^ 2 + f.cc.toNat) * 2 ^ 3 + f.g.p.toNat) * 2 ^ 1 + f.g.neg.toNat) * 2 ^ 1 + (0#1).toNat := by
  rw [Dec.packRedF]
  repeat erw [Dec.cat_toNat]
  simp only [Dec.b1_toNat]

/-- Its opcode. -/
theorem Dec.packRedF_op (op : BitVec 9) (f : RedF) : Dec.fld (Dec.packRedF op f) 55 9 = op := by
  apply Dec.fld_eq
  have := op.isLt; have := f.ty.isLt; have := f.d.isLt; have := f.a.isLt; have := Bool.toNat_lt f.ex; have := f.op.isLt; have := f.gs.isLt; have := f.cc.isLt; have := f.g.p.isLt; have := Bool.toNat_lt f.g.neg
  rw [Dec.packRedF_toNat]
  simp only [BitVec.toNat_ofNat, Nat.zero_mod]
  omega

/-- Its fields. -/
theorem Dec.getRedF_pack (op : BitVec 9) (f : RedF) : Dec.getRedF (Dec.packRedF op f) = f := by
  obtain ⟨ty, d, a, ex, op, gs, cc, ⟨p, neg⟩⟩ := f
  have := op.isLt; have := ty.isLt; have := d.isLt; have := a.isLt; have := Bool.toNat_lt ex; have := op.isLt; have := gs.isLt; have := cc.isLt; have := p.isLt; have := Bool.toNat_lt neg
  simp only [Dec.getRedF, RedF.mk.injEq, Guard.mk.injEq]
  refine ⟨?_, ?_, ?_, ?_, ?_, ?_, ?_, ⟨?_, ?_⟩⟩ <;> first | apply Dec.fld_eq | apply Dec.bit_eq
  all_goals (rw [Dec.packRedF_toNat]; simp only [BitVec.toNat_ofNat, Nat.zero_mod]; omega)

/-! ## TopkF -/

/-- The word as a number. -/
theorem Dec.packTopkF_toNat (op : BitVec 9) (f : TopkF) : (Dec.packTopkF op f).toNat =
    ((((((((((op.toNat * 2 ^ 4 + f.ty.toNat) * 2 ^ 11 + f.d.toNat) * 2 ^ 11 + f.a.toNat) * 2 ^ 11 + f.k.toNat) * 2 ^ 6 + (0#6).toNat) * 2 ^ 1 + f.lo.toNat) * 2 ^ 4 + f.gs.toNat) * 2 ^ 2 + f.cc.toNat) * 2 ^ 3 + f.g.p.toNat) * 2 ^ 1 + f.g.neg.toNat) * 2 ^ 1 + (0#1).toNat := by
  rw [Dec.packTopkF]
  repeat erw [Dec.cat_toNat]
  simp only [Dec.b1_toNat]

/-- Its opcode. -/
theorem Dec.packTopkF_op (op : BitVec 9) (f : TopkF) : Dec.fld (Dec.packTopkF op f) 55 9 = op := by
  apply Dec.fld_eq
  have := op.isLt; have := f.ty.isLt; have := f.d.isLt; have := f.a.isLt; have := f.k.isLt; have := Bool.toNat_lt f.lo; have := f.gs.isLt; have := f.cc.isLt; have := f.g.p.isLt; have := Bool.toNat_lt f.g.neg
  rw [Dec.packTopkF_toNat]
  simp only [BitVec.toNat_ofNat, Nat.zero_mod]
  omega

/-- Its fields. -/
theorem Dec.getTopkF_pack (op : BitVec 9) (f : TopkF) : Dec.getTopkF (Dec.packTopkF op f) = f := by
  obtain ⟨ty, d, a, k, lo, gs, cc, ⟨p, neg⟩⟩ := f
  have := op.isLt; have := ty.isLt; have := d.isLt; have := a.isLt; have := k.isLt; have := Bool.toNat_lt lo; have := gs.isLt; have := cc.isLt; have := p.isLt; have := Bool.toNat_lt neg
  simp only [Dec.getTopkF, TopkF.mk.injEq, Guard.mk.injEq]
  refine ⟨?_, ?_, ?_, ?_, ?_, ?_, ?_, ⟨?_, ?_⟩⟩ <;> first | apply Dec.fld_eq | apply Dec.bit_eq
  all_goals (rw [Dec.packTopkF_toNat]; simp only [BitVec.toNat_ofNat, Nat.zero_mod]; omega)

/-! ## TcsetF -/

/-- The word as a number. -/
theorem Dec.packTcsetF_toNat (op : BitVec 9) (f : TcsetF) : (Dec.packTcsetF op f).toNat =
    ((((((op.toNat * 2 ^ 11 + (0#11).toNat) * 2 ^ 4 + f.n.toNat) * 2 ^ 11 + f.a.toNat) * 2 ^ 24 + (0#24).toNat) * 2 ^ 3 + f.g.p.toNat) * 2 ^ 1 + f.g.neg.toNat) * 2 ^ 1 + (0#1).toNat := by
  rw [Dec.packTcsetF]
  repeat erw [Dec.cat_toNat]
  simp only [Dec.b1_toNat]

/-- Its opcode. -/
theorem Dec.packTcsetF_op (op : BitVec 9) (f : TcsetF) : Dec.fld (Dec.packTcsetF op f) 55 9 = op := by
  apply Dec.fld_eq
  have := op.isLt; have := f.n.isLt; have := f.a.isLt; have := f.g.p.isLt; have := Bool.toNat_lt f.g.neg
  rw [Dec.packTcsetF_toNat]
  simp only [BitVec.toNat_ofNat, Nat.zero_mod]
  omega

/-- Its fields. -/
theorem Dec.getTcsetF_pack (op : BitVec 9) (f : TcsetF) : Dec.getTcsetF (Dec.packTcsetF op f) = f := by
  obtain ⟨n, a, ⟨p, neg⟩⟩ := f
  have := op.isLt; have := n.isLt; have := a.isLt; have := p.isLt; have := Bool.toNat_lt neg
  simp only [Dec.getTcsetF, TcsetF.mk.injEq, Guard.mk.injEq]
  refine ⟨?_, ?_, ⟨?_, ?_⟩⟩ <;> first | apply Dec.fld_eq | apply Dec.bit_eq
  all_goals (rw [Dec.packTcsetF_toNat]; simp only [BitVec.toNat_ofNat, Nat.zero_mod]; omega)

/-! ## TcgetF -/

/-- The word as a number. -/
theorem Dec.packTcgetF_toNat (op : BitVec 9) (f : TcgetF) : (Dec.packTcgetF op f).toNat =
    (((((((op.toNat * 2 ^ 4 + (0#4).toNat) * 2 ^ 11 + f.d.toNat) * 2 ^ 7 + (0#7).toNat) * 2 ^ 4 + f.n.toNat) * 2 ^ 24 + (0#24).toNat) * 2 ^ 3 + f.g.p.toNat) * 2 ^ 1 + f.g.neg.toNat) * 2 ^ 1 + (0#1).toNat := by
  rw [Dec.packTcgetF]
  repeat erw [Dec.cat_toNat]
  simp only [Dec.b1_toNat]

/-- Its opcode. -/
theorem Dec.packTcgetF_op (op : BitVec 9) (f : TcgetF) : Dec.fld (Dec.packTcgetF op f) 55 9 = op := by
  apply Dec.fld_eq
  have := op.isLt; have := f.d.isLt; have := f.n.isLt; have := f.g.p.isLt; have := Bool.toNat_lt f.g.neg
  rw [Dec.packTcgetF_toNat]
  simp only [BitVec.toNat_ofNat, Nat.zero_mod]
  omega

/-- Its fields. -/
theorem Dec.getTcgetF_pack (op : BitVec 9) (f : TcgetF) : Dec.getTcgetF (Dec.packTcgetF op f) = f := by
  obtain ⟨d, n, ⟨p, neg⟩⟩ := f
  have := op.isLt; have := d.isLt; have := n.isLt; have := p.isLt; have := Bool.toNat_lt neg
  simp only [Dec.getTcgetF, TcgetF.mk.injEq, Guard.mk.injEq]
  refine ⟨?_, ?_, ⟨?_, ?_⟩⟩ <;> first | apply Dec.fld_eq | apply Dec.bit_eq
  all_goals (rw [Dec.packTcgetF_toNat]; simp only [BitVec.toNat_ofNat, Nat.zero_mod]; omega)

/-! ## TileF -/

/-- The word as a number. -/
theorem Dec.packTileF_toNat (op : BitVec 9) (f : TileF) : (Dec.packTileF op f).toNat =
    (((((op.toNat * 2 ^ 11 + (0#11).toNat) * 2 ^ 4 + f.n.toNat) * 2 ^ 35 + (0#35).toNat) * 2 ^ 3 + f.g.p.toNat) * 2 ^ 1 + f.g.neg.toNat) * 2 ^ 1 + (0#1).toNat := by
  rw [Dec.packTileF]
  repeat erw [Dec.cat_toNat]
  simp only [Dec.b1_toNat]

/-- Its opcode. -/
theorem Dec.packTileF_op (op : BitVec 9) (f : TileF) : Dec.fld (Dec.packTileF op f) 55 9 = op := by
  apply Dec.fld_eq
  have := op.isLt; have := f.n.isLt; have := f.g.p.isLt; have := Bool.toNat_lt f.g.neg
  rw [Dec.packTileF_toNat]
  simp only [BitVec.toNat_ofNat, Nat.zero_mod]
  omega

/-- Its fields. -/
theorem Dec.getTileF_pack (op : BitVec 9) (f : TileF) : Dec.getTileF (Dec.packTileF op f) = f := by
  obtain ⟨n, ⟨p, neg⟩⟩ := f
  have := op.isLt; have := n.isLt; have := p.isLt; have := Bool.toNat_lt neg
  simp only [Dec.getTileF, TileF.mk.injEq, Guard.mk.injEq]
  refine ⟨?_, ⟨?_, ?_⟩⟩ <;> first | apply Dec.fld_eq | apply Dec.bit_eq
  all_goals (rw [Dec.packTileF_toNat]; simp only [BitVec.toNat_ofNat, Nat.zero_mod]; omega)

/-! ## MxF -/

/-- The word as a number. -/
theorem Dec.packMxF_toNat (op : BitVec 9) (f : MxF) : (Dec.packMxF op f).toNat =
    ((((((((((((((op.toNat * 2 ^ 11 + (0#11).toNat) * 2 ^ 4 + f.tcd.toNat) * 2 ^ 7 + (0#7).toNat) * 2 ^ 4 + f.tca.toNat) * 2 ^ 1 + f.oe.toNat) * 2 ^ 6 + f.ko.toNat) * 2 ^ 4 + f.tcb.toNat) * 2 ^ 4 + f.la.toNat) * 2 ^ 2 + (0#2).toNat) * 2 ^ 1 + f.fe.toNat) * 2 ^ 4 + f.fb.toNat) * 2 ^ 2 + (0#2).toNat) * 2 ^ 3 + f.g.p.toNat) * 2 ^ 1 + f.g.neg.toNat) * 2 ^ 1 + (0#1).toNat := by
  rw [Dec.packMxF]
  repeat erw [Dec.cat_toNat]
  simp only [Dec.b1_toNat]

/-- Its opcode. -/
theorem Dec.packMxF_op (op : BitVec 9) (f : MxF) : Dec.fld (Dec.packMxF op f) 55 9 = op := by
  apply Dec.fld_eq
  have := op.isLt; have := f.tcd.isLt; have := f.tca.isLt; have := Bool.toNat_lt f.oe; have := f.ko.isLt; have := f.tcb.isLt; have := f.la.isLt; have := Bool.toNat_lt f.fe; have := f.fb.isLt; have := f.g.p.isLt; have := Bool.toNat_lt f.g.neg
  rw [Dec.packMxF_toNat]
  simp only [BitVec.toNat_ofNat, Nat.zero_mod]
  omega

/-- Its fields. -/
theorem Dec.getMxF_pack (op : BitVec 9) (f : MxF) : Dec.getMxF (Dec.packMxF op f) = f := by
  obtain ⟨tcd, tca, oe, ko, tcb, la, fe, fb, ⟨p, neg⟩⟩ := f
  have := op.isLt; have := tcd.isLt; have := tca.isLt; have := Bool.toNat_lt oe; have := ko.isLt; have := tcb.isLt; have := la.isLt; have := Bool.toNat_lt fe; have := fb.isLt; have := p.isLt; have := Bool.toNat_lt neg
  simp only [Dec.getMxF, MxF.mk.injEq, Guard.mk.injEq]
  refine ⟨?_, ?_, ?_, ?_, ?_, ?_, ?_, ?_, ⟨?_, ?_⟩⟩ <;> first | apply Dec.fld_eq | apply Dec.bit_eq
  all_goals (rw [Dec.packMxF_toNat]; simp only [BitVec.toNat_ofNat, Nat.zero_mod]; omega)

/-! ## McvtF -/

/-- The word as a number. -/
theorem Dec.packMcvtF_toNat (op : BitVec 9) (f : McvtF) : (Dec.packMcvtF op f).toNat =
    ((((((((((((op.toNat * 2 ^ 4 + f.ty.toNat) * 2 ^ 11 + f.d.toNat) * 2 ^ 7 + (0#7).toNat) * 2 ^ 4 + f.n.toNat) * 2 ^ 11 + (0#11).toNat) * 2 ^ 4 + f.la.toNat) * 2 ^ 4 + (0#4).toNat) * 2 ^ 1 + f.sf.toNat) * 2 ^ 2 + f.rm.toNat) * 2 ^ 2 + f.cc.toNat) * 2 ^ 3 + f.g.p.toNat) * 2 ^ 1 + f.g.neg.toNat) * 2 ^ 1 + (0#1).toNat := by
  rw [Dec.packMcvtF]
  repeat erw [Dec.cat_toNat]
  simp only [Dec.b1_toNat]

/-- Its opcode. -/
theorem Dec.packMcvtF_op (op : BitVec 9) (f : McvtF) : Dec.fld (Dec.packMcvtF op f) 55 9 = op := by
  apply Dec.fld_eq
  have := op.isLt; have := f.ty.isLt; have := f.d.isLt; have := f.n.isLt; have := f.la.isLt; have := Bool.toNat_lt f.sf; have := f.rm.isLt; have := f.cc.isLt; have := f.g.p.isLt; have := Bool.toNat_lt f.g.neg
  rw [Dec.packMcvtF_toNat]
  simp only [BitVec.toNat_ofNat, Nat.zero_mod]
  omega

/-- Its fields. -/
theorem Dec.getMcvtF_pack (op : BitVec 9) (f : McvtF) : Dec.getMcvtF (Dec.packMcvtF op f) = f := by
  obtain ⟨ty, d, n, la, sf, rm, cc, ⟨p, neg⟩⟩ := f
  have := op.isLt; have := ty.isLt; have := d.isLt; have := n.isLt; have := la.isLt; have := Bool.toNat_lt sf; have := rm.isLt; have := cc.isLt; have := p.isLt; have := Bool.toNat_lt neg
  simp only [Dec.getMcvtF, McvtF.mk.injEq, Guard.mk.injEq]
  refine ⟨?_, ?_, ?_, ?_, ?_, ?_, ?_, ⟨?_, ?_⟩⟩ <;> first | apply Dec.fld_eq | apply Dec.bit_eq
  all_goals (rw [Dec.packMcvtF_toNat]; simp only [BitVec.toNat_ofNat, Nat.zero_mod]; omega)

/-! ## MrmaskF -/

/-- The word as a number. -/
theorem Dec.packMrmaskF_toNat (op : BitVec 9) (f : MrmaskF) : (Dec.packMrmaskF op f).toNat =
    (((((((((op.toNat * 2 ^ 4 + (0#4).toNat) * 2 ^ 11 + f.d.toNat) * 2 ^ 11 + f.a.toNat) * 2 ^ 11 + (0#11).toNat) * 2 ^ 3 + (0#3).toNat) * 2 ^ 8 + f.off.toNat) * 2 ^ 2 + (0#2).toNat) * 2 ^ 3 + f.g.p.toNat) * 2 ^ 1 + f.g.neg.toNat) * 2 ^ 1 + (0#1).toNat := by
  rw [Dec.packMrmaskF]
  repeat erw [Dec.cat_toNat]
  simp only [Dec.b1_toNat]

/-- Its opcode. -/
theorem Dec.packMrmaskF_op (op : BitVec 9) (f : MrmaskF) : Dec.fld (Dec.packMrmaskF op f) 55 9 = op := by
  apply Dec.fld_eq
  have := op.isLt; have := f.d.isLt; have := f.a.isLt; have := f.off.isLt; have := f.g.p.isLt; have := Bool.toNat_lt f.g.neg
  rw [Dec.packMrmaskF_toNat]
  simp only [BitVec.toNat_ofNat, Nat.zero_mod]
  omega

/-- Its fields. -/
theorem Dec.getMrmaskF_pack (op : BitVec 9) (f : MrmaskF) : Dec.getMrmaskF (Dec.packMrmaskF op f) = f := by
  obtain ⟨d, a, off, ⟨p, neg⟩⟩ := f
  have := op.isLt; have := d.isLt; have := a.isLt; have := off.isLt; have := p.isLt; have := Bool.toNat_lt neg
  simp only [Dec.getMrmaskF, MrmaskF.mk.injEq, Guard.mk.injEq]
  refine ⟨?_, ?_, ?_, ⟨?_, ?_⟩⟩ <;> first | apply Dec.fld_eq | apply Dec.bit_eq
  all_goals (rw [Dec.packMrmaskF_toNat]; simp only [BitVec.toNat_ofNat, Nat.zero_mod]; omega)

/-! ## MexpF -/

/-- The word as a number. -/
theorem Dec.packMexpF_toNat (op : BitVec 9) (isTo : Bool) (f : MexpF) : (Dec.packMexpF op isTo f).toNat =
    (((((((((op.toNat * 2 ^ 11 + (0#11).toNat) * 2 ^ 4 + f.n.toNat) * 2 ^ 11 + (0#11).toNat) * 2 ^ 11 + f.b.toNat) * 2 ^ 10 + (0#10).toNat) * 2 ^ 1 + isTo.toNat) * 2 ^ 2 + (0#2).toNat) * 2 ^ 3 + f.g.p.toNat) * 2 ^ 1 + f.g.neg.toNat) * 2 ^ 1 + (0#1).toNat := by
  rw [Dec.packMexpF]
  repeat erw [Dec.cat_toNat]
  simp only [Dec.b1_toNat]

/-- Its opcode. -/
theorem Dec.packMexpF_op (op : BitVec 9) (isTo : Bool) (f : MexpF) : Dec.fld (Dec.packMexpF op isTo f) 55 9 = op := by
  apply Dec.fld_eq
  have := op.isLt; have := f.n.isLt; have := f.b.isLt; have := f.g.p.isLt; have := Bool.toNat_lt f.g.neg; have := Bool.toNat_lt isTo
  rw [Dec.packMexpF_toNat]
  simp only [BitVec.toNat_ofNat, Nat.zero_mod]
  omega

/-- Its fields. -/
theorem Dec.getMexpF_pack (op : BitVec 9) (isTo : Bool) (f : MexpF) : Dec.getMexpF (Dec.packMexpF op isTo f) = f := by
  obtain ⟨n, b, ⟨p, neg⟩⟩ := f
  have := op.isLt; have := n.isLt; have := b.isLt; have := p.isLt; have := Bool.toNat_lt neg; have := Bool.toNat_lt isTo
  simp only [Dec.getMexpF, MexpF.mk.injEq, Guard.mk.injEq]
  refine ⟨?_, ?_, ⟨?_, ?_⟩⟩ <;> first | apply Dec.fld_eq | apply Dec.bit_eq
  all_goals (rw [Dec.packMexpF_toNat]; simp only [BitVec.toNat_ofNat, Nat.zero_mod]; omega)

/-! ## WsetF -/

/-- The word as a number. -/
theorem Dec.packWsetF_toNat (op : BitVec 9) (f : WsetF) : (Dec.packWsetF op f).toNat =
    ((((((((op.toNat * 2 ^ 12 + (0#12).toNat) * 2 ^ 3 + f.n.toNat) * 2 ^ 11 + f.a.toNat) * 2 ^ 21 + (0#21).toNat) * 2 ^ 1 + f.dom.toNat) * 2 ^ 2 + (0#2).toNat) * 2 ^ 3 + f.g.p.toNat) * 2 ^ 1 + f.g.neg.toNat) * 2 ^ 1 + (0#1).toNat := by
  rw [Dec.packWsetF]
  repeat erw [Dec.cat_toNat]
  simp only [Dec.b1_toNat]

/-- Its opcode. -/
theorem Dec.packWsetF_op (op : BitVec 9) (f : WsetF) : Dec.fld (Dec.packWsetF op f) 55 9 = op := by
  apply Dec.fld_eq
  have := op.isLt; have := f.n.isLt; have := f.a.isLt; have := Bool.toNat_lt f.dom; have := f.g.p.isLt; have := Bool.toNat_lt f.g.neg
  rw [Dec.packWsetF_toNat]
  simp only [BitVec.toNat_ofNat, Nat.zero_mod]
  omega

/-- Its fields. -/
theorem Dec.getWsetF_pack (op : BitVec 9) (f : WsetF) : Dec.getWsetF (Dec.packWsetF op f) = f := by
  obtain ⟨n, a, dom, ⟨p, neg⟩⟩ := f
  have := op.isLt; have := n.isLt; have := a.isLt; have := Bool.toNat_lt dom; have := p.isLt; have := Bool.toNat_lt neg
  simp only [Dec.getWsetF, WsetF.mk.injEq, Guard.mk.injEq]
  refine ⟨?_, ?_, ?_, ⟨?_, ?_⟩⟩ <;> first | apply Dec.fld_eq | apply Dec.bit_eq
  all_goals (rw [Dec.packWsetF_toNat]; simp only [BitVec.toNat_ofNat, Nat.zero_mod]; omega)

/-! ## WinvF -/

/-- The word as a number. -/
theorem Dec.packWinvF_toNat (op : BitVec 9) (f : WinvF) : (Dec.packWinvF op f).toNat =
    (((((op.toNat * 2 ^ 12 + (0#12).toNat) * 2 ^ 3 + f.n.toNat) * 2 ^ 35 + (0#35).toNat) * 2 ^ 3 + f.g.p.toNat) * 2 ^ 1 + f.g.neg.toNat) * 2 ^ 1 + (0#1).toNat := by
  rw [Dec.packWinvF]
  repeat erw [Dec.cat_toNat]
  simp only [Dec.b1_toNat]

/-- Its opcode. -/
theorem Dec.packWinvF_op (op : BitVec 9) (f : WinvF) : Dec.fld (Dec.packWinvF op f) 55 9 = op := by
  apply Dec.fld_eq
  have := op.isLt; have := f.n.isLt; have := f.g.p.isLt; have := Bool.toNat_lt f.g.neg
  rw [Dec.packWinvF_toNat]
  simp only [BitVec.toNat_ofNat, Nat.zero_mod]
  omega

/-- Its fields. -/
theorem Dec.getWinvF_pack (op : BitVec 9) (f : WinvF) : Dec.getWinvF (Dec.packWinvF op f) = f := by
  obtain ⟨n, ⟨p, neg⟩⟩ := f
  have := op.isLt; have := n.isLt; have := p.isLt; have := Bool.toNat_lt neg
  simp only [Dec.getWinvF, WinvF.mk.injEq, Guard.mk.injEq]
  refine ⟨?_, ⟨?_, ?_⟩⟩ <;> first | apply Dec.fld_eq | apply Dec.bit_eq
  all_goals (rw [Dec.packWinvF_toNat]; simp only [BitVec.toNat_ofNat, Nat.zero_mod]; omega)

/-! ## MemF -/

/-- The word as a number. -/
theorem Dec.packMemF_toNat (op : BitVec 9) (f : MemF) : (Dec.packMemF op f).toNat =
    (((((((((((((op.toNat * 2 ^ 4 + f.ty.toNat) * 2 ^ 11 + f.d.toNat) * 2 ^ 2 + f.scope.toNat) * 2 ^ 3 + f.order.toNat) * 2 ^ 6 + f.off.toNat) * 2 ^ 11 + f.b.toNat) * 2 ^ 4 + f.la.toNat) * 2 ^ 1 + f.sh.toNat) * 2 ^ 3 + f.op.toNat) * 2 ^ 3 + f.tw.toNat) * 2 ^ 2 + (0#2).toNat) * 2 ^ 3 + f.g.p.toNat) * 2 ^ 1 + f.g.neg.toNat) * 2 ^ 1 + (0#1).toNat := by
  rw [Dec.packMemF]
  repeat erw [Dec.cat_toNat]
  simp only [Dec.b1_toNat]

/-- Its opcode. -/
theorem Dec.packMemF_op (op : BitVec 9) (f : MemF) : Dec.fld (Dec.packMemF op f) 55 9 = op := by
  apply Dec.fld_eq
  have := op.isLt; have := f.ty.isLt; have := f.d.isLt; have := f.scope.isLt; have := f.order.isLt; have := f.off.isLt; have := f.b.isLt; have := f.la.isLt; have := Bool.toNat_lt f.sh; have := f.op.isLt; have := f.tw.isLt; have := f.g.p.isLt; have := Bool.toNat_lt f.g.neg
  rw [Dec.packMemF_toNat]
  simp only [BitVec.toNat_ofNat, Nat.zero_mod]
  omega

/-- Its fields. -/
theorem Dec.getMemF_pack (op : BitVec 9) (f : MemF) : Dec.getMemF (Dec.packMemF op f) = f := by
  obtain ⟨ty, d, scope, order, off, b, la, sh, op, tw, ⟨p, neg⟩⟩ := f
  have := op.isLt; have := ty.isLt; have := d.isLt; have := scope.isLt; have := order.isLt; have := off.isLt; have := b.isLt; have := la.isLt; have := Bool.toNat_lt sh; have := op.isLt; have := tw.isLt; have := p.isLt; have := Bool.toNat_lt neg
  simp only [Dec.getMemF, MemF.mk.injEq, Guard.mk.injEq]
  refine ⟨?_, ?_, ?_, ?_, ?_, ?_, ?_, ?_, ?_, ?_, ⟨?_, ?_⟩⟩ <;> first | apply Dec.fld_eq | apply Dec.bit_eq
  all_goals (rw [Dec.packMemF_toNat]; simp only [BitVec.toNat_ofNat, Nat.zero_mod]; omega)

/-! ## RldF -/

/-- The word as a number. -/
theorem Dec.packRldF_toNat (op : BitVec 9) (f : RldF) : (Dec.packRldF op f).toNat =
    ((((((((((op.toNat * 2 ^ 4 + (0#4).toNat) * 2 ^ 11 + f.d.toNat) * 2 ^ 5 + (0#5).toNat) * 2 ^ 6 + f.off.toNat) * 2 ^ 3 + (0#3).toNat) * 2 ^ 8 + f.n.toNat) * 2 ^ 4 + f.la.toNat) * 2 ^ 9 + (0#9).toNat) * 2 ^ 3 + f.g.p.toNat) * 2 ^ 1 + f.g.neg.toNat) * 2 ^ 1 + (0#1).toNat := by
  rw [Dec.packRldF]
  repeat erw [Dec.cat_toNat]
  simp only [Dec.b1_toNat]

/-- Its opcode. -/
theorem Dec.packRldF_op (op : BitVec 9) (f : RldF) : Dec.fld (Dec.packRldF op f) 55 9 = op := by
  apply Dec.fld_eq
  have := op.isLt; have := f.d.isLt; have := f.off.isLt; have := f.n.isLt; have := f.la.isLt; have := f.g.p.isLt; have := Bool.toNat_lt f.g.neg
  rw [Dec.packRldF_toNat]
  simp only [BitVec.toNat_ofNat, Nat.zero_mod]
  omega

/-- Its fields. -/
theorem Dec.getRldF_pack (op : BitVec 9) (f : RldF) : Dec.getRldF (Dec.packRldF op f) = f := by
  obtain ⟨d, off, n, la, ⟨p, neg⟩⟩ := f
  have := op.isLt; have := d.isLt; have := off.isLt; have := n.isLt; have := la.isLt; have := p.isLt; have := Bool.toNat_lt neg
  simp only [Dec.getRldF, RldF.mk.injEq, Guard.mk.injEq]
  refine ⟨?_, ?_, ?_, ?_, ⟨?_, ?_⟩⟩ <;> first | apply Dec.fld_eq | apply Dec.bit_eq
  all_goals (rw [Dec.packRldF_toNat]; simp only [BitVec.toNat_ofNat, Nat.zero_mod]; omega)

/-! ## ScopyF -/

/-- The word as a number. -/
theorem Dec.packScopyF_toNat (op : BitVec 9) (f : ScopyF) : (Dec.packScopyF op f).toNat =
    ((((((((op.toNat * 2 ^ 4 + (0#4).toNat) * 2 ^ 11 + f.d.toNat) * 2 ^ 11 + f.a.toNat) * 2 ^ 11 + f.b.toNat) * 2 ^ 4 + f.la.toNat) * 2 ^ 9 + (0#9).toNat) * 2 ^ 3 + f.g.p.toNat) * 2 ^ 1 + f.g.neg.toNat) * 2 ^ 1 + (0#1).toNat := by
  rw [Dec.packScopyF]
  repeat erw [Dec.cat_toNat]
  simp only [Dec.b1_toNat]

/-- Its opcode. -/
theorem Dec.packScopyF_op (op : BitVec 9) (f : ScopyF) : Dec.fld (Dec.packScopyF op f) 55 9 = op := by
  apply Dec.fld_eq
  have := op.isLt; have := f.d.isLt; have := f.a.isLt; have := f.b.isLt; have := f.la.isLt; have := f.g.p.isLt; have := Bool.toNat_lt f.g.neg
  rw [Dec.packScopyF_toNat]
  simp only [BitVec.toNat_ofNat, Nat.zero_mod]
  omega

/-- Its fields. -/
theorem Dec.getScopyF_pack (op : BitVec 9) (f : ScopyF) : Dec.getScopyF (Dec.packScopyF op f) = f := by
  obtain ⟨d, a, b, la, ⟨p, neg⟩⟩ := f
  have := op.isLt; have := d.isLt; have := a.isLt; have := b.isLt; have := la.isLt; have := p.isLt; have := Bool.toNat_lt neg
  simp only [Dec.getScopyF, ScopyF.mk.injEq, Guard.mk.injEq]
  refine ⟨?_, ?_, ?_, ?_, ⟨?_, ?_⟩⟩ <;> first | apply Dec.fld_eq | apply Dec.bit_eq
  all_goals (rw [Dec.packScopyF_toNat]; simp only [BitVec.toNat_ofNat, Nat.zero_mod]; omega)

/-! ## FenceF -/

/-- The word as a number. -/
theorem Dec.packFenceF_toNat (op : BitVec 9) (f : FenceF) : (Dec.packFenceF op f).toNat =
    ((((((op.toNat * 2 ^ 15 + (0#15).toNat) * 2 ^ 2 + f.scope.toNat) * 2 ^ 3 + f.order.toNat) * 2 ^ 30 + (0#30).toNat) * 2 ^ 3 + f.g.p.toNat) * 2 ^ 1 + f.g.neg.toNat) * 2 ^ 1 + (0#1).toNat := by
  rw [Dec.packFenceF]
  repeat erw [Dec.cat_toNat]
  simp only [Dec.b1_toNat]

/-- Its opcode. -/
theorem Dec.packFenceF_op (op : BitVec 9) (f : FenceF) : Dec.fld (Dec.packFenceF op f) 55 9 = op := by
  apply Dec.fld_eq
  have := op.isLt; have := f.scope.isLt; have := f.order.isLt; have := f.g.p.isLt; have := Bool.toNat_lt f.g.neg
  rw [Dec.packFenceF_toNat]
  simp only [BitVec.toNat_ofNat, Nat.zero_mod]
  omega

/-- Its fields. -/
theorem Dec.getFenceF_pack (op : BitVec 9) (f : FenceF) : Dec.getFenceF (Dec.packFenceF op f) = f := by
  obtain ⟨scope, order, ⟨p, neg⟩⟩ := f
  have := op.isLt; have := scope.isLt; have := order.isLt; have := p.isLt; have := Bool.toNat_lt neg
  simp only [Dec.getFenceF, FenceF.mk.injEq, Guard.mk.injEq]
  refine ⟨?_, ?_, ⟨?_, ?_⟩⟩ <;> first | apply Dec.fld_eq | apply Dec.bit_eq
  all_goals (rw [Dec.packFenceF_toNat]; simp only [BitVec.toNat_ofNat, Nat.zero_mod]; omega)

/-! ## FbsetF -/

/-- The word as a number. -/
theorem Dec.packFbsetF_toNat (op : BitVec 9) (f : FbsetF) : (Dec.packFbsetF op f).toNat =
    ((((((op.toNat * 2 ^ 11 + (0#11).toNat) * 2 ^ 4 + f.n.toNat) * 2 ^ 11 + f.a.toNat) * 2 ^ 24 + (0#24).toNat) * 2 ^ 3 + f.g.p.toNat) * 2 ^ 1 + f.g.neg.toNat) * 2 ^ 1 + (0#1).toNat := by
  rw [Dec.packFbsetF]
  repeat erw [Dec.cat_toNat]
  simp only [Dec.b1_toNat]

/-- Its opcode. -/
theorem Dec.packFbsetF_op (op : BitVec 9) (f : FbsetF) : Dec.fld (Dec.packFbsetF op f) 55 9 = op := by
  apply Dec.fld_eq
  have := op.isLt; have := f.n.isLt; have := f.a.isLt; have := f.g.p.isLt; have := Bool.toNat_lt f.g.neg
  rw [Dec.packFbsetF_toNat]
  simp only [BitVec.toNat_ofNat, Nat.zero_mod]
  omega

/-- Its fields. -/
theorem Dec.getFbsetF_pack (op : BitVec 9) (f : FbsetF) : Dec.getFbsetF (Dec.packFbsetF op f) = f := by
  obtain ⟨n, a, ⟨p, neg⟩⟩ := f
  have := op.isLt; have := n.isLt; have := a.isLt; have := p.isLt; have := Bool.toNat_lt neg
  simp only [Dec.getFbsetF, FbsetF.mk.injEq, Guard.mk.injEq]
  refine ⟨?_, ?_, ⟨?_, ?_⟩⟩ <;> first | apply Dec.fld_eq | apply Dec.bit_eq
  all_goals (rw [Dec.packFbsetF_toNat]; simp only [BitVec.toNat_ofNat, Nat.zero_mod]; omega)

/-! ## BarF -/

/-- The word as a number. -/
theorem Dec.packBarF_toNat (op : BitVec 9) (f : BarF) : (Dec.packBarF op f).toNat =
    (((((((((op.toNat * 2 ^ 4 + (0#4).toNat) * 2 ^ 11 + f.d.toNat) * 2 ^ 22 + (0#22).toNat) * 2 ^ 2 + (0#2).toNat) * 2 ^ 1 + f.err.toNat) * 2 ^ 8 + f.n.toNat) * 2 ^ 2 + (0#2).toNat) * 2 ^ 3 + f.g.p.toNat) * 2 ^ 1 + f.g.neg.toNat) * 2 ^ 1 + (0#1).toNat := by
  rw [Dec.packBarF]
  repeat erw [Dec.cat_toNat]
  simp only [Dec.b1_toNat]

/-- Its opcode. -/
theorem Dec.packBarF_op (op : BitVec 9) (f : BarF) : Dec.fld (Dec.packBarF op f) 55 9 = op := by
  apply Dec.fld_eq
  have := op.isLt; have := f.d.isLt; have := Bool.toNat_lt f.err; have := f.n.isLt; have := f.g.p.isLt; have := Bool.toNat_lt f.g.neg
  rw [Dec.packBarF_toNat]
  simp only [BitVec.toNat_ofNat, Nat.zero_mod]
  omega

/-- Its fields. -/
theorem Dec.getBarF_pack (op : BitVec 9) (f : BarF) : Dec.getBarF (Dec.packBarF op f) = f := by
  obtain ⟨d, err, n, ⟨p, neg⟩⟩ := f
  have := op.isLt; have := d.isLt; have := Bool.toNat_lt err; have := n.isLt; have := p.isLt; have := Bool.toNat_lt neg
  simp only [Dec.getBarF, BarF.mk.injEq, Guard.mk.injEq]
  refine ⟨?_, ?_, ?_, ⟨?_, ?_⟩⟩ <;> first | apply Dec.fld_eq | apply Dec.bit_eq
  all_goals (rw [Dec.packBarF_toNat]; simp only [BitVec.toNat_ofNat, Nat.zero_mod]; omega)

/-! ## EwaitF -/

/-- The word as a number. -/
theorem Dec.packEwaitF_toNat (op : BitVec 9) (f : EwaitF) : (Dec.packEwaitF op f).toNat =
    (((((((((op.toNat * 2 ^ 4 + (0#4).toNat) * 2 ^ 11 + f.d.toNat) * 2 ^ 11 + f.a.toNat) * 2 ^ 11 + (0#11).toNat) * 2 ^ 7 + (0#7).toNat) * 2 ^ 4 + f.e.toNat) * 2 ^ 2 + (0#2).toNat) * 2 ^ 3 + f.g.p.toNat) * 2 ^ 1 + f.g.neg.toNat) * 2 ^ 1 + (0#1).toNat := by
  rw [Dec.packEwaitF]
  repeat erw [Dec.cat_toNat]
  simp only [Dec.b1_toNat]

/-- Its opcode. -/
theorem Dec.packEwaitF_op (op : BitVec 9) (f : EwaitF) : Dec.fld (Dec.packEwaitF op f) 55 9 = op := by
  apply Dec.fld_eq
  have := op.isLt; have := f.d.isLt; have := f.a.isLt; have := f.e.isLt; have := f.g.p.isLt; have := Bool.toNat_lt f.g.neg
  rw [Dec.packEwaitF_toNat]
  simp only [BitVec.toNat_ofNat, Nat.zero_mod]
  omega

/-- Its fields. -/
theorem Dec.getEwaitF_pack (op : BitVec 9) (f : EwaitF) : Dec.getEwaitF (Dec.packEwaitF op f) = f := by
  obtain ⟨d, a, e, ⟨p, neg⟩⟩ := f
  have := op.isLt; have := d.isLt; have := a.isLt; have := e.isLt; have := p.isLt; have := Bool.toNat_lt neg
  simp only [Dec.getEwaitF, EwaitF.mk.injEq, Guard.mk.injEq]
  refine ⟨?_, ?_, ?_, ⟨?_, ?_⟩⟩ <;> first | apply Dec.fld_eq | apply Dec.bit_eq
  all_goals (rw [Dec.packEwaitF_toNat]; simp only [BitVec.toNat_ofNat, Nat.zero_mod]; omega)

/-! ## SysrF -/

/-- The word as a number. -/
theorem Dec.packSysrF_toNat (op : BitVec 9) (f : SysrF) : (Dec.packSysrF op f).toNat =
    (((((((((op.toNat * 2 ^ 4 + (0#4).toNat) * 2 ^ 11 + f.d.toNat) * 2 ^ 11 + (0#11).toNat) * 2 ^ 11 + f.n.toNat) * 2 ^ 8 + (0#8).toNat) * 2 ^ 3 + f.w.toNat) * 2 ^ 2 + (0#2).toNat) * 2 ^ 3 + f.g.p.toNat) * 2 ^ 1 + f.g.neg.toNat) * 2 ^ 1 + (0#1).toNat := by
  rw [Dec.packSysrF]
  repeat erw [Dec.cat_toNat]
  simp only [Dec.b1_toNat]

/-- Its opcode. -/
theorem Dec.packSysrF_op (op : BitVec 9) (f : SysrF) : Dec.fld (Dec.packSysrF op f) 55 9 = op := by
  apply Dec.fld_eq
  have := op.isLt; have := f.d.isLt; have := f.n.isLt; have := f.w.isLt; have := f.g.p.isLt; have := Bool.toNat_lt f.g.neg
  rw [Dec.packSysrF_toNat]
  simp only [BitVec.toNat_ofNat, Nat.zero_mod]
  omega

/-- Its fields. -/
theorem Dec.getSysrF_pack (op : BitVec 9) (f : SysrF) : Dec.getSysrF (Dec.packSysrF op f) = f := by
  obtain ⟨d, n, w, ⟨p, neg⟩⟩ := f
  have := op.isLt; have := d.isLt; have := n.isLt; have := w.isLt; have := p.isLt; have := Bool.toNat_lt neg
  simp only [Dec.getSysrF, SysrF.mk.injEq, Guard.mk.injEq]
  refine ⟨?_, ?_, ?_, ⟨?_, ?_⟩⟩ <;> first | apply Dec.fld_eq | apply Dec.bit_eq
  all_goals (rw [Dec.packSysrF_toNat]; simp only [BitVec.toNat_ofNat, Nat.zero_mod]; omega)

/-! ## SyswF -/

/-- The word as a number. -/
theorem Dec.packSyswF_toNat (op : BitVec 9) (f : SyswF) : (Dec.packSyswF op f).toNat =
    ((((((((op.toNat * 2 ^ 15 + (0#15).toNat) * 2 ^ 11 + f.a.toNat) * 2 ^ 11 + f.n.toNat) * 2 ^ 8 + (0#8).toNat) * 2 ^ 3 + f.w.toNat) * 2 ^ 2 + (0#2).toNat) * 2 ^ 3 + f.g.p.toNat) * 2 ^ 1 + f.g.neg.toNat) * 2 ^ 1 + (0#1).toNat := by
  rw [Dec.packSyswF]
  repeat erw [Dec.cat_toNat]
  simp only [Dec.b1_toNat]

/-- Its opcode. -/
theorem Dec.packSyswF_op (op : BitVec 9) (f : SyswF) : Dec.fld (Dec.packSyswF op f) 55 9 = op := by
  apply Dec.fld_eq
  have := op.isLt; have := f.a.isLt; have := f.n.isLt; have := f.w.isLt; have := f.g.p.isLt; have := Bool.toNat_lt f.g.neg
  rw [Dec.packSyswF_toNat]
  simp only [BitVec.toNat_ofNat, Nat.zero_mod]
  omega

/-- Its fields. -/
theorem Dec.getSyswF_pack (op : BitVec 9) (f : SyswF) : Dec.getSyswF (Dec.packSyswF op f) = f := by
  obtain ⟨a, n, w, ⟨p, neg⟩⟩ := f
  have := op.isLt; have := a.isLt; have := n.isLt; have := w.isLt; have := p.isLt; have := Bool.toNat_lt neg
  simp only [Dec.getSyswF, SyswF.mk.injEq, Guard.mk.injEq]
  refine ⟨?_, ?_, ?_, ⟨?_, ?_⟩⟩ <;> first | apply Dec.fld_eq | apply Dec.bit_eq
  all_goals (rw [Dec.packSyswF_toNat]; simp only [BitVec.toNat_ofNat, Nat.zero_mod]; omega)

/-! ## CntF -/

/-- The word as a number. -/
theorem Dec.packCntF_toNat (op : BitVec 9) (f : CntF) : (Dec.packCntF op f).toNat =
    ((((((((op.toNat * 2 ^ 4 + (0#4).toNat) * 2 ^ 11 + f.d.toNat) * 2 ^ 22 + (0#22).toNat) * 2 ^ 10 + (0#10).toNat) * 2 ^ 1 + f.sync.toNat) * 2 ^ 2 + (0#2).toNat) * 2 ^ 3 + f.g.p.toNat) * 2 ^ 1 + f.g.neg.toNat) * 2 ^ 1 + (0#1).toNat := by
  rw [Dec.packCntF]
  repeat erw [Dec.cat_toNat]
  simp only [Dec.b1_toNat]

/-- Its opcode. -/
theorem Dec.packCntF_op (op : BitVec 9) (f : CntF) : Dec.fld (Dec.packCntF op f) 55 9 = op := by
  apply Dec.fld_eq
  have := op.isLt; have := f.d.isLt; have := Bool.toNat_lt f.sync; have := f.g.p.isLt; have := Bool.toNat_lt f.g.neg
  rw [Dec.packCntF_toNat]
  simp only [BitVec.toNat_ofNat, Nat.zero_mod]
  omega

/-- Its fields. -/
theorem Dec.getCntF_pack (op : BitVec 9) (f : CntF) : Dec.getCntF (Dec.packCntF op f) = f := by
  obtain ⟨d, sync, ⟨p, neg⟩⟩ := f
  have := op.isLt; have := d.isLt; have := Bool.toNat_lt sync; have := p.isLt; have := Bool.toNat_lt neg
  simp only [Dec.getCntF, CntF.mk.injEq, Guard.mk.injEq]
  refine ⟨?_, ?_, ⟨?_, ?_⟩⟩ <;> first | apply Dec.fld_eq | apply Dec.bit_eq
  all_goals (rw [Dec.packCntF_toNat]; simp only [BitVec.toNat_ofNat, Nat.zero_mod]; omega)

/-! ## PushF -/

/-- The word as a number. -/
theorem Dec.packPushF_toNat (op : BitVec 9) (f : PushF) : (Dec.packPushF op f).toNat =
    ((((((((((op.toNat * 2 ^ 4 + (0#4).toNat) * 2 ^ 11 + f.d.toNat) * 2 ^ 11 + f.a.toNat) * 2 ^ 11 + (0#11).toNat) * 2 ^ 4 + f.la.toNat) * 2 ^ 3 + (0#3).toNat) * 2 ^ 4 + f.e.toNat) * 2 ^ 2 + (0#2).toNat) * 2 ^ 3 + f.g.p.toNat) * 2 ^ 1 + f.g.neg.toNat) * 2 ^ 1 + (0#1).toNat := by
  rw [Dec.packPushF]
  repeat erw [Dec.cat_toNat]
  simp only [Dec.b1_toNat]

/-- Its opcode. -/
theorem Dec.packPushF_op (op : BitVec 9) (f : PushF) : Dec.fld (Dec.packPushF op f) 55 9 = op := by
  apply Dec.fld_eq
  have := op.isLt; have := f.d.isLt; have := f.a.isLt; have := f.la.isLt; have := f.e.isLt; have := f.g.p.isLt; have := Bool.toNat_lt f.g.neg
  rw [Dec.packPushF_toNat]
  simp only [BitVec.toNat_ofNat, Nat.zero_mod]
  omega

/-- Its fields. -/
theorem Dec.getPushF_pack (op : BitVec 9) (f : PushF) : Dec.getPushF (Dec.packPushF op f) = f := by
  obtain ⟨d, a, la, e, ⟨p, neg⟩⟩ := f
  have := op.isLt; have := d.isLt; have := a.isLt; have := la.isLt; have := e.isLt; have := p.isLt; have := Bool.toNat_lt neg
  simp only [Dec.getPushF, PushF.mk.injEq, Guard.mk.injEq]
  refine ⟨?_, ?_, ?_, ?_, ⟨?_, ?_⟩⟩ <;> first | apply Dec.fld_eq | apply Dec.bit_eq
  all_goals (rw [Dec.packPushF_toNat]; simp only [BitVec.toNat_ofNat, Nat.zero_mod]; omega)

end Sys2Proof
end

