-- ==== Sys2Proof/Laws/State.lean ====
section
/-! SUPPORT. What each update of the state leaves as it was, field by field; and what the lookups of teams, warps, cores and slices find after an
update. -/

namespace Sys2Proof.Machine

/-! ## Updates of one field -/

@[simp] theorem State.setTeams_mgmt (s : State) (ts : List Team) : (s.setTeams ts).mgmt = s.mgmt := rfl
@[simp] theorem State.setTeams_islands (s : State) (ts : List Team) : (s.setTeams ts).islands = s.islands := rfl
@[simp] theorem State.setTeams_links (s : State) (ts : List Team) : (s.setTeams ts).links = s.links := rfl
@[simp] theorem State.setTeams_areas (s : State) (ts : List Team) : (s.setTeams ts).areas = s.areas := rfl
@[simp] theorem State.setTeams_cores (s : State) (ts : List Team) : (s.setTeams ts).cores = s.cores := rfl
@[simp] theorem State.setTeams_slices (s : State) (ts : List Team) : (s.setTeams ts).slices = s.slices := rfl
@[simp] theorem State.setTeams_mem (s : State) (ts : List Team) : (s.setTeams ts).mem = s.mem := rfl
@[simp] theorem State.setTeams_turns (s : State) (ts : List Team) : (s.setTeams ts).turns = s.turns := rfl
@[simp] theorem State.setTeams_cur (s : State) (ts : List Team) : (s.setTeams ts).cur = s.cur := rfl
@[simp] theorem State.setTeams_fresh (s : State) (ts : List Team) : (s.setTeams ts).fresh = s.fresh := rfl
@[simp] theorem State.setTeams_tick (s : State) (ts : List Team) : (s.setTeams ts).tick = s.tick := rfl
@[simp] theorem State.setTeams_sent (s : State) (ts : List Team) : (s.setTeams ts).sent = s.sent := rfl

@[simp] theorem State.setTeam_mgmt (s : State) (u : Team) : (s.setTeam u).mgmt = s.mgmt := rfl
@[simp] theorem State.setTeam_islands (s : State) (u : Team) : (s.setTeam u).islands = s.islands := rfl
@[simp] theorem State.setTeam_links (s : State) (u : Team) : (s.setTeam u).links = s.links := rfl
@[simp] theorem State.setTeam_areas (s : State) (u : Team) : (s.setTeam u).areas = s.areas := rfl
@[simp] theorem State.setTeam_cores (s : State) (u : Team) : (s.setTeam u).cores = s.cores := rfl
@[simp] theorem State.setTeam_slices (s : State) (u : Team) : (s.setTeam u).slices = s.slices := rfl
@[simp] theorem State.setTeam_mem (s : State) (u : Team) : (s.setTeam u).mem = s.mem := rfl
@[simp] theorem State.setTeam_turns (s : State) (u : Team) : (s.setTeam u).turns = s.turns := rfl
@[simp] theorem State.setTeam_cur (s : State) (u : Team) : (s.setTeam u).cur = s.cur := rfl
@[simp] theorem State.setTeam_fresh (s : State) (u : Team) : (s.setTeam u).fresh = s.fresh := rfl
@[simp] theorem State.setTeam_tick (s : State) (u : Team) : (s.setTeam u).tick = s.tick := rfl
@[simp] theorem State.setTeam_sent (s : State) (u : Team) : (s.setTeam u).sent = s.sent := rfl

@[simp] theorem State.setCore_mgmt (s : State) (n : Nat) (x : Core) : (s.setCore n x).mgmt = s.mgmt := rfl
@[simp] theorem State.setCore_islands (s : State) (n : Nat) (x : Core) : (s.setCore n x).islands = s.islands := rfl
@[simp] theorem State.setCore_links (s : State) (n : Nat) (x : Core) : (s.setCore n x).links = s.links := rfl
@[simp] theorem State.setCore_areas (s : State) (n : Nat) (x : Core) : (s.setCore n x).areas = s.areas := rfl
@[simp] theorem State.setCore_hm (s : State) (n : Nat) (x : Core) : (s.setCore n x).hm = s.hm := rfl
@[simp] theorem State.setCore_slices (s : State) (n : Nat) (x : Core) : (s.setCore n x).slices = s.slices := rfl
@[simp] theorem State.setCore_mem (s : State) (n : Nat) (x : Core) : (s.setCore n x).mem = s.mem := rfl
@[simp] theorem State.setCore_turns (s : State) (n : Nat) (x : Core) : (s.setCore n x).turns = s.turns := rfl
@[simp] theorem State.setCore_cur (s : State) (n : Nat) (x : Core) : (s.setCore n x).cur = s.cur := rfl
@[simp] theorem State.setCore_fresh (s : State) (n : Nat) (x : Core) : (s.setCore n x).fresh = s.fresh := rfl
@[simp] theorem State.setCore_tick (s : State) (n : Nat) (x : Core) : (s.setCore n x).tick = s.tick := rfl
@[simp] theorem State.setCore_sent (s : State) (n : Nat) (x : Core) : (s.setCore n x).sent = s.sent := rfl

@[simp] theorem State.modCore_mgmt (s : State) (n : Nat) (f : Core → Core) : (s.modCore n f).mgmt = s.mgmt := rfl
@[simp] theorem State.modCore_islands (s : State) (n : Nat) (f : Core → Core) : (s.modCore n f).islands = s.islands := rfl
@[simp] theorem State.modCore_links (s : State) (n : Nat) (f : Core → Core) : (s.modCore n f).links = s.links := rfl
@[simp] theorem State.modCore_areas (s : State) (n : Nat) (f : Core → Core) : (s.modCore n f).areas = s.areas := rfl
@[simp] theorem State.modCore_hm (s : State) (n : Nat) (f : Core → Core) : (s.modCore n f).hm = s.hm := rfl
@[simp] theorem State.modCore_slices (s : State) (n : Nat) (f : Core → Core) : (s.modCore n f).slices = s.slices := rfl
@[simp] theorem State.modCore_mem (s : State) (n : Nat) (f : Core → Core) : (s.modCore n f).mem = s.mem := rfl
@[simp] theorem State.modCore_turns (s : State) (n : Nat) (f : Core → Core) : (s.modCore n f).turns = s.turns := rfl
@[simp] theorem State.modCore_cur (s : State) (n : Nat) (f : Core → Core) : (s.modCore n f).cur = s.cur := rfl
@[simp] theorem State.modCore_fresh (s : State) (n : Nat) (f : Core → Core) : (s.modCore n f).fresh = s.fresh := rfl
@[simp] theorem State.modCore_tick (s : State) (n : Nat) (f : Core → Core) : (s.modCore n f).tick = s.tick := rfl
@[simp] theorem State.modCore_sent (s : State) (n : Nat) (f : Core → Core) : (s.modCore n f).sent = s.sent := rfl

@[simp] theorem State.modPart_mgmt (s : State) (n p : Nat) (f : Part → Part) : (s.modPart n p f).mgmt = s.mgmt := rfl
@[simp] theorem State.modPart_islands (s : State) (n p : Nat) (f : Part → Part) : (s.modPart n p f).islands = s.islands := rfl
@[simp] theorem State.modPart_links (s : State) (n p : Nat) (f : Part → Part) : (s.modPart n p f).links = s.links := rfl
@[simp] theorem State.modPart_areas (s : State) (n p : Nat) (f : Part → Part) : (s.modPart n p f).areas = s.areas := rfl
@[simp] theorem State.modPart_hm (s : State) (n p : Nat) (f : Part → Part) : (s.modPart n p f).hm = s.hm := rfl
@[simp] theorem State.modPart_slices (s : State) (n p : Nat) (f : Part → Part) : (s.modPart n p f).slices = s.slices := rfl
@[simp] theorem State.modPart_mem (s : State) (n p : Nat) (f : Part → Part) : (s.modPart n p f).mem = s.mem := rfl
@[simp] theorem State.modPart_turns (s : State) (n p : Nat) (f : Part → Part) : (s.modPart n p f).turns = s.turns := rfl
@[simp] theorem State.modPart_cur (s : State) (n p : Nat) (f : Part → Part) : (s.modPart n p f).cur = s.cur := rfl
@[simp] theorem State.modPart_fresh (s : State) (n p : Nat) (f : Part → Part) : (s.modPart n p f).fresh = s.fresh := rfl
@[simp] theorem State.modPart_tick (s : State) (n p : Nat) (f : Part → Part) : (s.modPart n p f).tick = s.tick := rfl
@[simp] theorem State.modPart_sent (s : State) (n p : Nat) (f : Part → Part) : (s.modPart n p f).sent = s.sent := rfl

@[simp] theorem State.modSlice_mgmt (s : State) (n : Nat) (f : Slice → Slice) : (s.modSlice n f).mgmt = s.mgmt := rfl
@[simp] theorem State.modSlice_islands (s : State) (n : Nat) (f : Slice → Slice) : (s.modSlice n f).islands = s.islands := rfl
@[simp] theorem State.modSlice_links (s : State) (n : Nat) (f : Slice → Slice) : (s.modSlice n f).links = s.links := rfl
@[simp] theorem State.modSlice_areas (s : State) (n : Nat) (f : Slice → Slice) : (s.modSlice n f).areas = s.areas := rfl
@[simp] theorem State.modSlice_hm (s : State) (n : Nat) (f : Slice → Slice) : (s.modSlice n f).hm = s.hm := rfl
@[simp] theorem State.modSlice_cores (s : State) (n : Nat) (f : Slice → Slice) : (s.modSlice n f).cores = s.cores := rfl
@[simp] theorem State.modSlice_mem (s : State) (n : Nat) (f : Slice → Slice) : (s.modSlice n f).mem = s.mem := rfl
@[simp] theorem State.modSlice_turns (s : State) (n : Nat) (f : Slice → Slice) : (s.modSlice n f).turns = s.turns := rfl
@[simp] theorem State.modSlice_cur (s : State) (n : Nat) (f : Slice → Slice) : (s.modSlice n f).cur = s.cur := rfl
@[simp] theorem State.modSlice_fresh (s : State) (n : Nat) (f : Slice → Slice) : (s.modSlice n f).fresh = s.fresh := rfl
@[simp] theorem State.modSlice_tick (s : State) (n : Nat) (f : Slice → Slice) : (s.modSlice n f).tick = s.tick := rfl
@[simp] theorem State.modSlice_sent (s : State) (n : Nat) (f : Slice → Slice) : (s.modSlice n f).sent = s.sent := rfl

@[simp] theorem State.modBlock_mgmt (s : State) (n : Nat) (f : Block → Block) : (s.modBlock n f).mgmt = s.mgmt := rfl
@[simp] theorem State.modBlock_islands (s : State) (n : Nat) (f : Block → Block) : (s.modBlock n f).islands = s.islands := rfl
@[simp] theorem State.modBlock_links (s : State) (n : Nat) (f : Block → Block) : (s.modBlock n f).links = s.links := rfl
@[simp] theorem State.modBlock_areas (s : State) (n : Nat) (f : Block → Block) : (s.modBlock n f).areas = s.areas := rfl
@[simp] theorem State.modBlock_cores (s : State) (n : Nat) (f : Block → Block) : (s.modBlock n f).cores = s.cores := rfl
@[simp] theorem State.modBlock_slices (s : State) (n : Nat) (f : Block → Block) : (s.modBlock n f).slices = s.slices := rfl
@[simp] theorem State.modBlock_mem (s : State) (n : Nat) (f : Block → Block) : (s.modBlock n f).mem = s.mem := rfl
@[simp] theorem State.modBlock_turns (s : State) (n : Nat) (f : Block → Block) : (s.modBlock n f).turns = s.turns := rfl
@[simp] theorem State.modBlock_cur (s : State) (n : Nat) (f : Block → Block) : (s.modBlock n f).cur = s.cur := rfl
@[simp] theorem State.modBlock_fresh (s : State) (n : Nat) (f : Block → Block) : (s.modBlock n f).fresh = s.fresh := rfl
@[simp] theorem State.modBlock_tick (s : State) (n : Nat) (f : Block → Block) : (s.modBlock n f).tick = s.tick := rfl
@[simp] theorem State.modBlock_sent (s : State) (n : Nat) (f : Block → Block) : (s.modBlock n f).sent = s.sent := rfl

@[simp] theorem State.modTask_mgmt (s : State) (n : Nat) (f : Task → Task) : (s.modTask n f).mgmt = s.mgmt := rfl
@[simp] theorem State.modTask_islands (s : State) (n : Nat) (f : Task → Task) : (s.modTask n f).islands = s.islands := rfl
@[simp] theorem State.modTask_links (s : State) (n : Nat) (f : Task → Task) : (s.modTask n f).links = s.links := rfl
@[simp] theorem State.modTask_areas (s : State) (n : Nat) (f : Task → Task) : (s.modTask n f).areas = s.areas := rfl
@[simp] theorem State.modTask_cores (s : State) (n : Nat) (f : Task → Task) : (s.modTask n f).cores = s.cores := rfl
@[simp] theorem State.modTask_slices (s : State) (n : Nat) (f : Task → Task) : (s.modTask n f).slices = s.slices := rfl
@[simp] theorem State.modTask_mem (s : State) (n : Nat) (f : Task → Task) : (s.modTask n f).mem = s.mem := rfl
@[simp] theorem State.modTask_turns (s : State) (n : Nat) (f : Task → Task) : (s.modTask n f).turns = s.turns := rfl
@[simp] theorem State.modTask_cur (s : State) (n : Nat) (f : Task → Task) : (s.modTask n f).cur = s.cur := rfl
@[simp] theorem State.modTask_fresh (s : State) (n : Nat) (f : Task → Task) : (s.modTask n f).fresh = s.fresh := rfl
@[simp] theorem State.modTask_tick (s : State) (n : Nat) (f : Task → Task) : (s.modTask n f).tick = s.tick := rfl
@[simp] theorem State.modTask_sent (s : State) (n : Nat) (f : Task → Task) : (s.modTask n f).sent = s.sent := rfl

@[simp] theorem State.modArea_mgmt (s : State) (n : Nat) (f : Area → Area) : (s.modArea n f).mgmt = s.mgmt := rfl
@[simp] theorem State.modArea_islands (s : State) (n : Nat) (f : Area → Area) : (s.modArea n f).islands = s.islands := rfl
@[simp] theorem State.modArea_links (s : State) (n : Nat) (f : Area → Area) : (s.modArea n f).links = s.links := rfl
@[simp] theorem State.modArea_hm (s : State) (n : Nat) (f : Area → Area) : (s.modArea n f).hm = s.hm := rfl
@[simp] theorem State.modArea_cores (s : State) (n : Nat) (f : Area → Area) : (s.modArea n f).cores = s.cores := rfl
@[simp] theorem State.modArea_slices (s : State) (n : Nat) (f : Area → Area) : (s.modArea n f).slices = s.slices := rfl
@[simp] theorem State.modArea_mem (s : State) (n : Nat) (f : Area → Area) : (s.modArea n f).mem = s.mem := rfl
@[simp] theorem State.modArea_turns (s : State) (n : Nat) (f : Area → Area) : (s.modArea n f).turns = s.turns := rfl
@[simp] theorem State.modArea_cur (s : State) (n : Nat) (f : Area → Area) : (s.modArea n f).cur = s.cur := rfl
@[simp] theorem State.modArea_fresh (s : State) (n : Nat) (f : Area → Area) : (s.modArea n f).fresh = s.fresh := rfl
@[simp] theorem State.modArea_tick (s : State) (n : Nat) (f : Area → Area) : (s.modArea n f).tick = s.tick := rfl
@[simp] theorem State.modArea_sent (s : State) (n : Nat) (f : Area → Area) : (s.modArea n f).sent = s.sent := rfl

@[simp] theorem State.storeHome_mgmt (s : State) (bs : List Host.Cell) : (s.storeHome bs).mgmt = s.mgmt := rfl
@[simp] theorem State.storeHome_islands (s : State) (bs : List Host.Cell) : (s.storeHome bs).islands = s.islands := rfl
@[simp] theorem State.storeHome_links (s : State) (bs : List Host.Cell) : (s.storeHome bs).links = s.links := rfl
@[simp] theorem State.storeHome_areas (s : State) (bs : List Host.Cell) : (s.storeHome bs).areas = s.areas := rfl
@[simp] theorem State.storeHome_hm (s : State) (bs : List Host.Cell) : (s.storeHome bs).hm = s.hm := rfl
@[simp] theorem State.storeHome_cores (s : State) (bs : List Host.Cell) : (s.storeHome bs).cores = s.cores := rfl
@[simp] theorem State.storeHome_slices (s : State) (bs : List Host.Cell) : (s.storeHome bs).slices = s.slices := rfl
@[simp] theorem State.storeHome_turns (s : State) (bs : List Host.Cell) : (s.storeHome bs).turns = s.turns := rfl
@[simp] theorem State.storeHome_cur (s : State) (bs : List Host.Cell) : (s.storeHome bs).cur = s.cur := rfl
@[simp] theorem State.storeHome_fresh (s : State) (bs : List Host.Cell) : (s.storeHome bs).fresh = s.fresh := rfl
@[simp] theorem State.storeHome_tick (s : State) (bs : List Host.Cell) : (s.storeHome bs).tick = s.tick := rfl
@[simp] theorem State.storeHome_sent (s : State) (bs : List Host.Cell) : (s.storeHome bs).sent = s.sent := rfl

@[simp] theorem State.setCtr_mgmt (s : State) (c : Counters) : (s.setCtr c).mgmt = s.mgmt := rfl
@[simp] theorem State.setCtr_islands (s : State) (c : Counters) : (s.setCtr c).islands = s.islands := rfl
@[simp] theorem State.setCtr_links (s : State) (c : Counters) : (s.setCtr c).links = s.links := rfl
@[simp] theorem State.setCtr_areas (s : State) (c : Counters) : (s.setCtr c).areas = s.areas := rfl
@[simp] theorem State.setCtr_hm (s : State) (c : Counters) : (s.setCtr c).hm = s.hm := rfl
@[simp] theorem State.setCtr_cores (s : State) (c : Counters) : (s.setCtr c).cores = s.cores := rfl
@[simp] theorem State.setCtr_slices (s : State) (c : Counters) : (s.setCtr c).slices = s.slices := rfl
@[simp] theorem State.setCtr_turns (s : State) (c : Counters) : (s.setCtr c).turns = s.turns := rfl
@[simp] theorem State.setCtr_cur (s : State) (c : Counters) : (s.setCtr c).cur = s.cur := rfl
@[simp] theorem State.setCtr_fresh (s : State) (c : Counters) : (s.setCtr c).fresh = s.fresh := rfl
@[simp] theorem State.setCtr_tick (s : State) (c : Counters) : (s.setCtr c).tick = s.tick := rfl
@[simp] theorem State.setCtr_sent (s : State) (c : Counters) : (s.setCtr c).sent = s.sent := rfl

@[simp] theorem State.send_mgmt (s : State) (m : Msg) : (s.send m).mgmt = s.mgmt := rfl
@[simp] theorem State.send_islands (s : State) (m : Msg) : (s.send m).islands = s.islands := rfl
@[simp] theorem State.send_links (s : State) (m : Msg) : (s.send m).links = s.links := rfl
@[simp] theorem State.send_areas (s : State) (m : Msg) : (s.send m).areas = s.areas := rfl
@[simp] theorem State.send_hm (s : State) (m : Msg) : (s.send m).hm = s.hm := rfl
@[simp] theorem State.send_cores (s : State) (m : Msg) : (s.send m).cores = s.cores := rfl
@[simp] theorem State.send_slices (s : State) (m : Msg) : (s.send m).slices = s.slices := rfl
@[simp] theorem State.send_mem (s : State) (m : Msg) : (s.send m).mem = s.mem := rfl
@[simp] theorem State.send_turns (s : State) (m : Msg) : (s.send m).turns = s.turns := rfl
@[simp] theorem State.send_cur (s : State) (m : Msg) : (s.send m).cur = s.cur := rfl
@[simp] theorem State.send_fresh (s : State) (m : Msg) : (s.send m).fresh = s.fresh := rfl
@[simp] theorem State.send_tick (s : State) (m : Msg) : (s.send m).tick = s.tick := rfl

@[simp] theorem State.pushTurns_mgmt (s : State) (ts : List Turn) : (s.pushTurns ts).mgmt = s.mgmt := rfl
@[simp] theorem State.pushTurns_islands (s : State) (ts : List Turn) : (s.pushTurns ts).islands = s.islands := rfl
@[simp] theorem State.pushTurns_links (s : State) (ts : List Turn) : (s.pushTurns ts).links = s.links := rfl
@[simp] theorem State.pushTurns_areas (s : State) (ts : List Turn) : (s.pushTurns ts).areas = s.areas := rfl
@[simp] theorem State.pushTurns_hm (s : State) (ts : List Turn) : (s.pushTurns ts).hm = s.hm := rfl
@[simp] theorem State.pushTurns_cores (s : State) (ts : List Turn) : (s.pushTurns ts).cores = s.cores := rfl
@[simp] theorem State.pushTurns_slices (s : State) (ts : List Turn) : (s.pushTurns ts).slices = s.slices := rfl
@[simp] theorem State.pushTurns_mem (s : State) (ts : List Turn) : (s.pushTurns ts).mem = s.mem := rfl
@[simp] theorem State.pushTurns_cur (s : State) (ts : List Turn) : (s.pushTurns ts).cur = s.cur := rfl
@[simp] theorem State.pushTurns_fresh (s : State) (ts : List Turn) : (s.pushTurns ts).fresh = s.fresh := rfl
@[simp] theorem State.pushTurns_tick (s : State) (ts : List Turn) : (s.pushTurns ts).tick = s.tick := rfl
@[simp] theorem State.pushTurns_sent (s : State) (ts : List Turn) : (s.pushTurns ts).sent = s.sent := rfl

/-! ## Updates of a named team or warp -/

@[simp] theorem State.modTeam_mgmt (s : State) (n : Nat) (f : Team → Team) : (s.modTeam n f).mgmt = s.mgmt := by unfold State.modTeam; split <;> simp
@[simp] theorem State.modTeam_islands (s : State) (n : Nat) (f : Team → Team) : (s.modTeam n f).islands = s.islands := by unfold State.modTeam; split <;> simp
@[simp] theorem State.modTeam_links (s : State) (n : Nat) (f : Team → Team) : (s.modTeam n f).links = s.links := by unfold State.modTeam; split <;> simp
@[simp] theorem State.modTeam_areas (s : State) (n : Nat) (f : Team → Team) : (s.modTeam n f).areas = s.areas := by unfold State.modTeam; split <;> simp
@[simp] theorem State.modTeam_cores (s : State) (n : Nat) (f : Team → Team) : (s.modTeam n f).cores = s.cores := by unfold State.modTeam; split <;> simp
@[simp] theorem State.modTeam_slices (s : State) (n : Nat) (f : Team → Team) : (s.modTeam n f).slices = s.slices := by unfold State.modTeam; split <;> simp
@[simp] theorem State.modTeam_mem (s : State) (n : Nat) (f : Team → Team) : (s.modTeam n f).mem = s.mem := by unfold State.modTeam; split <;> simp
@[simp] theorem State.modTeam_turns (s : State) (n : Nat) (f : Team → Team) : (s.modTeam n f).turns = s.turns := by unfold State.modTeam; split <;> simp
@[simp] theorem State.modTeam_cur (s : State) (n : Nat) (f : Team → Team) : (s.modTeam n f).cur = s.cur := by unfold State.modTeam; split <;> simp
@[simp] theorem State.modTeam_fresh (s : State) (n : Nat) (f : Team → Team) : (s.modTeam n f).fresh = s.fresh := by unfold State.modTeam; split <;> simp
@[simp] theorem State.modTeam_tick (s : State) (n : Nat) (f : Team → Team) : (s.modTeam n f).tick = s.tick := by unfold State.modTeam; split <;> simp
@[simp] theorem State.modTeam_sent (s : State) (n : Nat) (f : Team → Team) : (s.modTeam n f).sent = s.sent := by unfold State.modTeam; split <;> simp

@[simp] theorem State.setWarp_mgmt (s : State) (w : WarpId) (x : Warp) : (s.setWarp w x).mgmt = s.mgmt := by unfold State.setWarp; split <;> simp
@[simp] theorem State.setWarp_islands (s : State) (w : WarpId) (x : Warp) : (s.setWarp w x).islands = s.islands := by unfold State.setWarp; split <;> simp
@[simp] theorem State.setWarp_links (s : State) (w : WarpId) (x : Warp) : (s.setWarp w x).links = s.links := by unfold State.setWarp; split <;> simp
@[simp] theorem State.setWarp_areas (s : State) (w : WarpId) (x : Warp) : (s.setWarp w x).areas = s.areas := by unfold State.setWarp; split <;> simp
@[simp] theorem State.setWarp_cores (s : State) (w : WarpId) (x : Warp) : (s.setWarp w x).cores = s.cores := by unfold State.setWarp; split <;> simp
@[simp] theorem State.setWarp_slices (s : State) (w : WarpId) (x : Warp) : (s.setWarp w x).slices = s.slices := by unfold State.setWarp; split <;> simp
@[simp] theorem State.setWarp_mem (s : State) (w : WarpId) (x : Warp) : (s.setWarp w x).mem = s.mem := by unfold State.setWarp; split <;> simp
@[simp] theorem State.setWarp_turns (s : State) (w : WarpId) (x : Warp) : (s.setWarp w x).turns = s.turns := by unfold State.setWarp; split <;> simp
@[simp] theorem State.setWarp_cur (s : State) (w : WarpId) (x : Warp) : (s.setWarp w x).cur = s.cur := by unfold State.setWarp; split <;> simp
@[simp] theorem State.setWarp_fresh (s : State) (w : WarpId) (x : Warp) : (s.setWarp w x).fresh = s.fresh := by unfold State.setWarp; split <;> simp
@[simp] theorem State.setWarp_tick (s : State) (w : WarpId) (x : Warp) : (s.setWarp w x).tick = s.tick := by unfold State.setWarp; split <;> simp
@[simp] theorem State.setWarp_sent (s : State) (w : WarpId) (x : Warp) : (s.setWarp w x).sent = s.sent := by unfold State.setWarp; split <;> simp

@[simp] theorem State.modWarp_mgmt (s : State) (w : WarpId) (f : Warp → Warp) : (s.modWarp w f).mgmt = s.mgmt := by unfold State.modWarp; split <;> simp [State.setWarp_mgmt]
@[simp] theorem State.modWarp_islands (s : State) (w : WarpId) (f : Warp → Warp) : (s.modWarp w f).islands = s.islands := by unfold State.modWarp; split <;> simp [State.setWarp_islands]
@[simp] theorem State.modWarp_links (s : State) (w : WarpId) (f : Warp → Warp) : (s.modWarp w f).links = s.links := by unfold State.modWarp; split <;> simp [State.setWarp_links]
@[simp] theorem State.modWarp_areas (s : State) (w : WarpId) (f : Warp → Warp) : (s.modWarp w f).areas = s.areas := by unfold State.modWarp; split <;> simp [State.setWarp_areas]
@[simp] theorem State.modWarp_cores (s : State) (w : WarpId) (f : Warp → Warp) : (s.modWarp w f).cores = s.cores := by unfold State.modWarp; split <;> simp [State.setWarp_cores]
@[simp] theorem State.modWarp_slices (s : State) (w : WarpId) (f : Warp → Warp) : (s.modWarp w f).slices = s.slices := by unfold State.modWarp; split <;> simp [State.setWarp_slices]
@[simp] theorem State.modWarp_mem (s : State) (w : WarpId) (f : Warp → Warp) : (s.modWarp w f).mem = s.mem := by unfold State.modWarp; split <;> simp [State.setWarp_mem]
@[simp] theorem State.modWarp_turns (s : State) (w : WarpId) (f : Warp → Warp) : (s.modWarp w f).turns = s.turns := by unfold State.modWarp; split <;> simp [State.setWarp_turns]
@[simp] theorem State.modWarp_cur (s : State) (w : WarpId) (f : Warp → Warp) : (s.modWarp w f).cur = s.cur := by unfold State.modWarp; split <;> simp [State.setWarp_cur]
@[simp] theorem State.modWarp_fresh (s : State) (w : WarpId) (f : Warp → Warp) : (s.modWarp w f).fresh = s.fresh := by unfold State.modWarp; split <;> simp [State.setWarp_fresh]
@[simp] theorem State.modWarp_tick (s : State) (w : WarpId) (f : Warp → Warp) : (s.modWarp w f).tick = s.tick := by unfold State.modWarp; split <;> simp [State.setWarp_tick]
@[simp] theorem State.modWarp_sent (s : State) (w : WarpId) (f : Warp → Warp) : (s.modWarp w f).sent = s.sent := by unfold State.modWarp; split <;> simp [State.setWarp_sent]

@[simp] theorem State.releasePort_mgmt (s : State) (w : WarpId) : (s.releasePort w).mgmt = s.mgmt := rfl
@[simp] theorem State.releasePort_islands (s : State) (w : WarpId) : (s.releasePort w).islands = s.islands := rfl
@[simp] theorem State.releasePort_links (s : State) (w : WarpId) : (s.releasePort w).links = s.links := rfl
@[simp] theorem State.releasePort_areas (s : State) (w : WarpId) : (s.releasePort w).areas = s.areas := rfl
@[simp] theorem State.releasePort_hm (s : State) (w : WarpId) : (s.releasePort w).hm = s.hm := rfl
@[simp] theorem State.releasePort_slices (s : State) (w : WarpId) : (s.releasePort w).slices = s.slices := rfl
@[simp] theorem State.releasePort_mem (s : State) (w : WarpId) : (s.releasePort w).mem = s.mem := rfl
@[simp] theorem State.releasePort_turns (s : State) (w : WarpId) : (s.releasePort w).turns = s.turns := rfl
@[simp] theorem State.releasePort_cur (s : State) (w : WarpId) : (s.releasePort w).cur = s.cur := rfl
@[simp] theorem State.releasePort_fresh (s : State) (w : WarpId) : (s.releasePort w).fresh = s.fresh := rfl
@[simp] theorem State.releasePort_tick (s : State) (w : WarpId) : (s.releasePort w).tick = s.tick := rfl
@[simp] theorem State.releasePort_sent (s : State) (w : WarpId) : (s.releasePort w).sent = s.sent := rfl

@[simp] theorem State.retireWarp_mgmt (s : State) (w : WarpId) (x : Warp) : (s.retireWarp w x).mgmt = s.mgmt := by simp only [State.retireWarp]; split <;> simp
@[simp] theorem State.retireWarp_islands (s : State) (w : WarpId) (x : Warp) : (s.retireWarp w x).islands = s.islands := by simp only [State.retireWarp]; split <;> simp
@[simp] theorem State.retireWarp_links (s : State) (w : WarpId) (x : Warp) : (s.retireWarp w x).links = s.links := by simp only [State.retireWarp]; split <;> simp
@[simp] theorem State.retireWarp_areas (s : State) (w : WarpId) (x : Warp) : (s.retireWarp w x).areas = s.areas := by simp only [State.retireWarp]; split <;> simp
@[simp] theorem State.retireWarp_slices (s : State) (w : WarpId) (x : Warp) : (s.retireWarp w x).slices = s.slices := by simp only [State.retireWarp]; split <;> simp
@[simp] theorem State.retireWarp_mem (s : State) (w : WarpId) (x : Warp) : (s.retireWarp w x).mem = s.mem := by simp only [State.retireWarp]; split <;> simp
@[simp] theorem State.retireWarp_turns (s : State) (w : WarpId) (x : Warp) : (s.retireWarp w x).turns = s.turns := by simp only [State.retireWarp]; split <;> simp
@[simp] theorem State.retireWarp_cur (s : State) (w : WarpId) (x : Warp) : (s.retireWarp w x).cur = s.cur := by simp only [State.retireWarp]; split <;> simp
@[simp] theorem State.retireWarp_fresh (s : State) (w : WarpId) (x : Warp) : (s.retireWarp w x).fresh = s.fresh := by simp only [State.retireWarp]; split <;> simp
@[simp] theorem State.retireWarp_tick (s : State) (w : WarpId) (x : Warp) : (s.retireWarp w x).tick = s.tick := by simp only [State.retireWarp]; split <;> simp
@[simp] theorem State.retireWarp_sent (s : State) (w : WarpId) (x : Warp) : (s.retireWarp w x).sent = s.sent := by simp only [State.retireWarp]; split <;> simp

@[simp] theorem State.transfer_mgmt (s : State) (w : WarpId) (x : Warp) (h : Int) : (s.transfer w x h).mgmt = s.mgmt := by simp [State.transfer]
@[simp] theorem State.transfer_islands (s : State) (w : WarpId) (x : Warp) (h : Int) : (s.transfer w x h).islands = s.islands := by simp [State.transfer]
@[simp] theorem State.transfer_links (s : State) (w : WarpId) (x : Warp) (h : Int) : (s.transfer w x h).links = s.links := by simp [State.transfer]
@[simp] theorem State.transfer_areas (s : State) (w : WarpId) (x : Warp) (h : Int) : (s.transfer w x h).areas = s.areas := by simp [State.transfer]
@[simp] theorem State.transfer_slices (s : State) (w : WarpId) (x : Warp) (h : Int) : (s.transfer w x h).slices = s.slices := by simp [State.transfer]
@[simp] theorem State.transfer_mem (s : State) (w : WarpId) (x : Warp) (h : Int) : (s.transfer w x h).mem = s.mem := by simp [State.transfer]
@[simp] theorem State.transfer_turns (s : State) (w : WarpId) (x : Warp) (h : Int) : (s.transfer w x h).turns = s.turns := by simp [State.transfer]
@[simp] theorem State.transfer_cur (s : State) (w : WarpId) (x : Warp) (h : Int) : (s.transfer w x h).cur = s.cur := by simp [State.transfer]
@[simp] theorem State.transfer_fresh (s : State) (w : WarpId) (x : Warp) (h : Int) : (s.transfer w x h).fresh = s.fresh := by simp [State.transfer]
@[simp] theorem State.transfer_tick (s : State) (w : WarpId) (x : Warp) (h : Int) : (s.transfer w x h).tick = s.tick := by simp [State.transfer]
@[simp] theorem State.transfer_sent (s : State) (w : WarpId) (x : Warp) (h : Int) : (s.transfer w x h).sent = s.sent := by simp [State.transfer]

@[simp] theorem State.takeTok_mgmt (s : State) : s.takeTok.2.mgmt = s.mgmt := rfl
@[simp] theorem State.takeTok_islands (s : State) : s.takeTok.2.islands = s.islands := rfl
@[simp] theorem State.takeTok_links (s : State) : s.takeTok.2.links = s.links := rfl
@[simp] theorem State.takeTok_areas (s : State) : s.takeTok.2.areas = s.areas := rfl
@[simp] theorem State.takeTok_hm (s : State) : s.takeTok.2.hm = s.hm := rfl
@[simp] theorem State.takeTok_cores (s : State) : s.takeTok.2.cores = s.cores := rfl
@[simp] theorem State.takeTok_slices (s : State) : s.takeTok.2.slices = s.slices := rfl
@[simp] theorem State.takeTok_turns (s : State) : s.takeTok.2.turns = s.turns := rfl
@[simp] theorem State.takeTok_cur (s : State) : s.takeTok.2.cur = s.cur := rfl
@[simp] theorem State.takeTok_fresh (s : State) : s.takeTok.2.fresh = s.fresh := rfl
@[simp] theorem State.takeTok_tick (s : State) : s.takeTok.2.tick = s.tick := rfl
@[simp] theorem State.takeTok_sent (s : State) : s.takeTok.2.sent = s.sent := rfl
@[simp] theorem State.takeFree_mgmt (s : State) : s.takeFree.2.mgmt = s.mgmt := rfl
@[simp] theorem State.takeFree_islands (s : State) : s.takeFree.2.islands = s.islands := rfl
@[simp] theorem State.takeFree_links (s : State) : s.takeFree.2.links = s.links := rfl
@[simp] theorem State.takeFree_areas (s : State) : s.takeFree.2.areas = s.areas := rfl
@[simp] theorem State.takeFree_hm (s : State) : s.takeFree.2.hm = s.hm := rfl
@[simp] theorem State.takeFree_cores (s : State) : s.takeFree.2.cores = s.cores := rfl
@[simp] theorem State.takeFree_slices (s : State) : s.takeFree.2.slices = s.slices := rfl
@[simp] theorem State.takeFree_mem (s : State) : s.takeFree.2.mem = s.mem := rfl
@[simp] theorem State.takeFree_turns (s : State) : s.takeFree.2.turns = s.turns := rfl
@[simp] theorem State.takeFree_cur (s : State) : s.takeFree.2.cur = s.cur := rfl
@[simp] theorem State.takeFree_tick (s : State) : s.takeFree.2.tick = s.tick := rfl
@[simp] theorem State.takeFree_sent (s : State) : s.takeFree.2.sent = s.sent := rfl

/-! ## Lookups -/

/-- A core just written. -/
theorem State.core_setCore_same (s : State) (n : Nat) (x : Core) (h : n < 64) : (s.setCore n x).core n = x := by
  simp [State.core, State.setCore, h]

/-- Another core. -/
theorem State.core_setCore_other (s : State) (n m : Nat) (x : Core) (h : n ≠ m) : (s.setCore n x).core m = s.core m := by
  simp [State.core, State.setCore, h]

/-- A core just changed. -/
theorem State.core_modCore_same (s : State) (n : Nat) (f : Core → Core) (h : n < 64) : (s.modCore n f).core n = f (s.core n) :=
  s.core_setCore_same n _ h

/-- Another core than the one changed. -/
theorem State.core_modCore_other (s : State) (n m : Nat) (f : Core → Core) (h : n ≠ m) : (s.modCore n f).core m = s.core m :=
  s.core_setCore_other n m _ h

/-- A slice just changed. -/
theorem State.slice_modSlice_same (s : State) (n : Nat) (f : Slice → Slice) (h : n < 128) : (s.modSlice n f).slice n = f (s.slice n) := by
  simp [State.slice, State.modSlice, h]

/-- Another slice. -/
theorem State.slice_modSlice_other (s : State) (n m : Nat) (f : Slice → Slice) (h : n ≠ m) : (s.modSlice n f).slice m = s.slice m := by
  simp [State.slice, State.modSlice, h]

/-- An area just changed. -/
theorem State.area_modArea_same (s : State) (n : Nat) (f : Area → Area) (h : n < 80) : (s.modArea n f).area n = f (s.area n) := by
  simp [State.area, State.modArea, h]

/-- Another area. -/
theorem State.area_modArea_other (s : State) (n m : Nat) (f : Area → Area) (h : n ≠ m) : (s.modArea n f).area m = s.area m := by
  simp [State.area, State.modArea, h]

/-- The first team of a number, after every team of that number has been replaced by one of the same number. -/
theorem findTeam_map (ts : List Team) (u : Team) :
    (ts.map fun x => if x.num = u.num then u else x).find? (fun x => decide (x.num = u.num)) =
      (ts.find? fun x => decide (x.num = u.num)).map fun _ => u := by
  induction ts with
  | nil => rfl
  | cons x r ih =>
    by_cases h : x.num = u.num
    · simp [h]
    · simp [h, ih]

/-- Teams of another number are as they were. -/
theorem findTeam_map_other (ts : List Team) (u : Team) (n : Nat) (h : u.num ≠ n) :
    (ts.map fun x => if x.num = u.num then u else x).find? (fun x => decide (x.num = n)) = ts.find? fun x => decide (x.num = n) := by
  induction ts with
  | nil => rfl
  | cons x r ih =>
    by_cases hx : x.num = u.num
    · have hn : x.num ≠ n := hx ▸ h
      simp [hx, h, hn, ih]
    · by_cases hn : x.num = n
      · simp [hx, hn, ih, h.symm]
      · simp [hx, hn, ih]

/-- The team of a number has that number. -/
theorem State.team?_num {s : State} {n : Nat} {t : Team} (h : s.team? n = some t) : t.num = n := by
  have := List.find?_some h
  simpa using this

/-- A team just replaced. -/
theorem State.team?_setTeam_same {s : State} {n : Nat} {t : Team} (h : s.team? n = some t) (u : Team) (hu : u.num = n) :
    (s.setTeam u).team? n = some u := by
  subst hu
  have := findTeam_map s.hm.teams u
  simp only [State.team?, State.setTeam, State.setTeams] at *
  rw [this, h]; rfl

/-- Another team. -/
theorem State.team?_setTeam_other (s : State) (u : Team) (n : Nat) (h : u.num ≠ n) : (s.setTeam u).team? n = s.team? n :=
  findTeam_map_other s.hm.teams u n h

/-- A team with a warp replaced keeps its number. -/
@[simp] theorem Team.setWarp_num (t : Team) (i : Nat) (x : Warp) : (t.setWarp i x).num = t.num := rfl

/-- A warp of a state, by its team. -/
theorem State.warp?_eq (s : State) (w : WarpId) : s.warp? w = (s.team? w.team).bind fun t => t.warps[w.idx]? := rfl

/-- A warp just replaced. -/
theorem State.warp?_setWarp_same {s : State} {w : WarpId} {x : Warp} (h : s.warp? w = some x) (y : Warp) : (s.setWarp w y).warp? w = some y := by
  rw [State.warp?_eq] at h
  cases ht : s.team? w.team with
  | none => simp [ht] at h
  | some t =>
    simp only [ht, Option.bind_some] at h
    have hn : (t.setWarp w.idx y).num = w.team := by rw [Team.setWarp_num]; exact State.team?_num ht
    have hi : w.idx < t.warps.length := by
      have := List.getElem?_eq_some_iff.mp h
      exact this.1
    simp only [State.setWarp, ht, State.warp?_eq, State.team?_setTeam_same ht _ hn, Option.bind_some]
    simp [Team.setWarp, hi]

/-- Another warp. -/
theorem State.warp?_setWarp_other (s : State) (w v : WarpId) (y : Warp) (h : w ≠ v) : (s.setWarp w y).warp? v = s.warp? v := by
  cases ht : s.team? w.team with
  | none => simp [State.setWarp, ht]
  | some t =>
    by_cases hv : w.team = v.team
    · have hi : w.idx ≠ v.idx := by
        intro hi; apply h; cases w; cases v; simp_all
      have hn : (t.setWarp w.idx y).num = v.team := by rw [Team.setWarp_num, ← hv]; exact State.team?_num ht
      have ht' : s.team? v.team = some t := hv ▸ ht
      simp only [State.setWarp, ht, State.warp?_eq, State.team?_setTeam_same ht' _ hn, ht', Option.bind_some]
      simp [Team.setWarp, hi]
    · have hn : (t.setWarp w.idx y).num ≠ v.team := by
        rw [Team.setWarp_num, State.team?_num ht]; exact hv
      simp [State.setWarp, ht, State.warp?_eq, State.team?_setTeam_other _ _ _ hn]

/-- Releasing a port changes no warp. -/
@[simp] theorem State.warp?_releasePort (s : State) (w v : WarpId) : (s.releasePort w).warp? v = s.warp? v := rfl

/-- Releasing a port changes no team. -/
@[simp] theorem State.team?_releasePort (s : State) (w : WarpId) (n : Nat) : (s.releasePort w).team? n = s.team? n := rfl

/-- Changing a core changes no warp. -/
@[simp] theorem State.warp?_modCore (s : State) (n : Nat) (f : Core → Core) (v : WarpId) : (s.modCore n f).warp? v = s.warp? v := rfl

/-- Changing a partition changes no warp. -/
@[simp] theorem State.warp?_modPart (s : State) (n p : Nat) (f : Part → Part) (v : WarpId) : (s.modPart n p f).warp? v = s.warp? v := rfl

/-- Taking a token changes no warp. -/
@[simp] theorem State.warp?_takeTok (s : State) (v : WarpId) : s.takeTok.2.warp? v = s.warp? v := rfl

/-- Taking a token changes no team. -/
@[simp] theorem State.team?_takeTok (s : State) (n : Nat) : s.takeTok.2.team? n = s.team? n := rfl

/-- Changing a core changes no team. -/
@[simp] theorem State.team?_modCore (s : State) (n m : Nat) (f : Core → Core) : (s.modCore n f).team? m = s.team? m := rfl

/-- Changing a partition changes no team. -/
@[simp] theorem State.team?_modPart (s : State) (n p m : Nat) (f : Part → Part) : (s.modPart n p f).team? m = s.team? m := rfl

/-- A named warp just changed. -/
theorem State.warp?_modWarp_same {s : State} {w : WarpId} {x : Warp} (h : s.warp? w = some x) (f : Warp → Warp) : (s.modWarp w f).warp? w = some (f x) := by
  simp [State.modWarp, h, State.warp?_setWarp_same h]

end Sys2Proof.Machine
end

