-- ==== Sys2Proof/Laws/Lines.lean ====
section
/-! SUPPORT. What the slices do for an access served in its own step: lines and counters change, nothing else does. -/

namespace Sys2Proof.Machine

/-- A core has the same traffic as itself. -/
theorem Core.onlyTraffic_refl (c : Core) : c.onlyTraffic c := ⟨rfl, List.prefix_refl _, rfl⟩

/-- Two steps of traffic on a core. -/
theorem Core.onlyTraffic_trans {a b c : Core} (h : a.onlyTraffic b) (h' : b.onlyTraffic c) : a.onlyTraffic c := by
  obtain ⟨h, ha, hl⟩ := h
  obtain ⟨h', ha', hl'⟩ := h'
  exact ⟨by rw [h', h], ha.trans ha', hl'.trans hl⟩

/-- A state differs from itself in nothing. -/
theorem State.onlyTraffic_refl (s : State) : s.onlyTraffic s := ⟨rfl, fun _ => Core.onlyTraffic_refl _⟩

/-- Two steps of traffic. -/
theorem State.onlyTraffic_trans {s t u : State} (h : s.onlyTraffic t) (h' : t.onlyTraffic u) : s.onlyTraffic u := by
  obtain ⟨h, hc⟩ := h
  obtain ⟨h', hc'⟩ := h'
  exact ⟨by rw [h', h], fun n => Core.onlyTraffic_trans (hc n) (hc' n)⟩

/-- Steps of traffic, one for each element of a list. -/
theorem State.onlyTraffic_foldl {α : Type} (f : State → α → State) (hf : ∀ (s : State) (x : α), s.onlyTraffic (f s x)) (l : List α) : ∀ s : State, s.onlyTraffic (l.foldl f s) := by
  induction l with
  | nil => exact State.onlyTraffic_refl
  | cons x l ih => exact fun s => State.onlyTraffic_trans (hf s x) (ih _)

/-- A change of slices and counters alone is traffic. -/
theorem State.onlyTraffic_of {s t : State} (h : t = { s with slices := t.slices, mem := { s.mem with ctr := t.mem.ctr } }) : s.onlyTraffic t := by
  have hc : t.cores = s.cores := by rw [h]
  refine ⟨by rw [hc]; exact h, fun n => ?_⟩
  have hn : t.core n = s.core n := by rw [State.core, State.core, hc]
  rw [hn]
  exact Core.onlyTraffic_refl _

/-- A change of what is on its way to a core, and of its loads, is traffic. -/
theorem State.onlyTraffic_modCore (s : State) (n : Nat) (f : Core → Core) (hf : ∀ c : Core, c.onlyTraffic (f c)) :
    s.onlyTraffic (s.modCore n f) := by
  refine ⟨rfl, fun m => ?_⟩
  by_cases hm : n = m
  · subst hm
    by_cases h : n < 64
    · rw [State.core_modCore_same _ _ _ h]
      exact hf _
    · have : (s.modCore n f).core n = s.core n := by
        simp only [State.modCore, State.setCore, State.core, vset, vget]
        rw [Vector.setIfInBounds_eq_of_size_le (by omega)]
      rw [this]
      exact Core.onlyTraffic_refl _
  · rw [State.core_modCore_other _ _ _ _ hm]
    exact Core.onlyTraffic_refl _

theorem State.onlyTraffic_mgmt {s t : State} (h : s.onlyTraffic t) : t.mgmt = s.mgmt := by rw [h.1]
theorem State.onlyTraffic_islands {s t : State} (h : s.onlyTraffic t) : t.islands = s.islands := by rw [h.1]
theorem State.onlyTraffic_links {s t : State} (h : s.onlyTraffic t) : t.links = s.links := by rw [h.1]
theorem State.onlyTraffic_areas {s t : State} (h : s.onlyTraffic t) : t.areas = s.areas := by rw [h.1]
theorem State.onlyTraffic_hm {s t : State} (h : s.onlyTraffic t) : t.hm = s.hm := by rw [h.1]
theorem State.onlyTraffic_turns {s t : State} (h : s.onlyTraffic t) : t.turns = s.turns := by rw [h.1]
theorem State.onlyTraffic_cur {s t : State} (h : s.onlyTraffic t) : t.cur = s.cur := by rw [h.1]
theorem State.onlyTraffic_fresh {s t : State} (h : s.onlyTraffic t) : t.fresh = s.fresh := by rw [h.1]
theorem State.onlyTraffic_tick {s t : State} (h : s.onlyTraffic t) : t.tick = s.tick := by rw [h.1]
theorem State.onlyTraffic_sent {s t : State} (h : s.onlyTraffic t) : t.sent = s.sent := by rw [h.1]
theorem State.onlyTraffic_ram {s t : State} (h : s.onlyTraffic t) : t.mem.ram = s.mem.ram := by rw [h.1]

/-- Steps that leave the cores, one for each element of a list, leave them. -/
theorem State.foldl_cores {α : Type} (f : State → α → State) (hf : ∀ (s : State) (x : α), (f s x).cores = s.cores) (l : List α) : ∀ s : State, (l.foldl f s).cores = s.cores := by
  induction l with
  | nil => exact fun _ => rfl
  | cons x l ih => exact fun s => (ih _).trans (hf s x)

/-- Traffic, or nothing. -/
theorem State.onlyTraffic_ite {p : Prop} [Decidable p] {s t : State} (h : s.onlyTraffic t) : s.onlyTraffic (if p then t else s) := by
  split
  · exact h
  · exact s.onlyTraffic_refl

/-- The end of a multicast leaves every other load. -/
theorem PendLoad.multicast_others (r : Reply) (ls : List PendLoad) :
    (ls.filterMap (PendLoad.multicast r)).filter (·.dst != .caches) = ls.filter (·.dst != .caches) := by
  induction ls with
  | nil => rfl
  | cons l ls ih =>
    by_cases hd : l.dst = .caches
    · have hl : (l.dst != LoadDst.caches) = false := by simp [hd]
      rw [List.filter_cons, hl, List.filterMap_cons]
      simp only [PendLoad.multicast]
      split
      · rename_i h; rw [ih]; rfl
      · rename_i y h
        have hy : (y.dst != LoadDst.caches) = false := by
          split at h
          · split at h
            · cases h
            · simp only [Option.some.injEq] at h; subst h; exact hl
          · simp only [Option.some.injEq] at h; subst h; exact hl
        rw [List.filter_cons, hy, ih]; rfl
    · have hl : (l.dst != LoadDst.caches) = true := by simp [hd]
      have hm : PendLoad.multicast r l = some l := by simp [PendLoad.multicast, hd]
      rw [List.filterMap_cons, hm, List.filter_cons, List.filter_cons, hl, ih]

/-- The end of multicasts is traffic. -/
theorem State.endMcasts_traffic (s : State) (r : Reply) : s.onlyTraffic (s.endMcasts r) :=
  State.onlyTraffic_foldl _ (fun s c => State.onlyTraffic_ite
    (s.onlyTraffic_modCore c (fun k => { k with loads := k.loads.filterMap (PendLoad.multicast r) }) fun k =>
      ⟨rfl, List.prefix_refl _, PendLoad.multicast_others r k.loads⟩)) _ s

/-- A reply that leaves is traffic. -/
theorem State.inject_traffic (s : State) (n : Nat) (w : OpenWindow) (extra : BitVec 64) : s.onlyTraffic (s.inject n w extra) := by
  let r := s.mem.ram.reply { w with mask := w.mask ||| extra }
  let q := (s.slice n).queue
  exact State.onlyTraffic_trans
    (State.onlyTraffic_trans (State.onlyTraffic_of (t := (s.modSlice n fun x => { x with windows := x.windows.filter fun y => y.line != w.line }).countReply n r) rfl)
      (State.endMcasts_traffic _ r))
    (State.onlyTraffic_foldl _ (fun s c => State.onlyTraffic_ite
      (s.onlyTraffic_modCore c
        (fun k => { k with arriving := k.arriving ++ [{ r := r, stored := unservedStores c w.line q, skip := unservedAtoms c w.line q }] })
        fun _ => ⟨rfl, List.prefix_append _ _, rfl⟩)) _ _)

/-- A read served in its step is traffic. -/
theorem State.readNow_traffic (s : State) (ln : Nat) (secs : BitVec 8) (mask : BitVec 64) : s.onlyTraffic (s.readNow ln secs mask) := by
  simp only [State.readNow]
  split
  · refine State.onlyTraffic_trans ?_ (State.inject_traffic _ _ _ _)
    exact State.onlyTraffic_of rfl
  · exact State.onlyTraffic_of rfl

/-- A read that the slices have served, with the bit of the core that asks. -/
theorem State.servedFor_traffic (s : State) (mask : BitVec 64) (pas : List Nat) : s.onlyTraffic (s.servedFor mask pas) :=
  State.onlyTraffic_foldl _ (fun _ _ => State.onlyTraffic_trans (State.onlyTraffic_of (t := State.countReq _ _ _) rfl) (State.readNow_traffic _ _ _ _)) _ s

/-- A read that the slices have served. -/
theorem State.served_traffic (s : State) (pas : List Nat) : s.onlyTraffic (s.served pas) := s.servedFor_traffic 0 pas

/-- A read of a run that the slices have served. -/
theorem State.servedRun_traffic (s : State) (a n : Nat) : s.onlyTraffic (s.servedRun a n) :=
  State.onlyTraffic_foldl _ (fun s _ => s.served_traffic _) _ s

/-- A write that the slices have served. -/
theorem State.servedWrite_traffic (s : State) (pas : List Nat) : s.onlyTraffic (s.servedWrite pas) :=
  State.onlyTraffic_foldl _ (fun _ _ => State.onlyTraffic_of rfl) _ s

/-- Atomics that the slices have served. -/
theorem State.servedAtomic_traffic (s : State) (pas : List Nat) : s.onlyTraffic (s.servedAtomic pas) :=
  State.onlyTraffic_foldl _ (fun _ _ => State.onlyTraffic_of rfl) _ s

/-- A read of the host aperture on its way. -/
theorem State.passedRead_traffic (s : State) (pa len : Nat) : s.onlyTraffic (s.passedRead pa len) :=
  State.onlyTraffic_foldl _ (fun _ _ => State.onlyTraffic_of rfl) _ s

/-- A write to the host aperture on its way. -/
theorem State.passedWrite_traffic (s : State) (pa len : Nat) : s.onlyTraffic (s.passedWrite pa len) :=
  State.onlyTraffic_foldl _ (fun _ _ => State.onlyTraffic_of rfl) _ s

/-- Host bytes on their way back. -/
theorem State.passedReply_traffic (s : State) (pa : Nat) (data : List Byte) : s.onlyTraffic (s.passedReply pa data) :=
  State.onlyTraffic_foldl _ (fun _ _ => State.onlyTraffic_of rfl) _ s

/-- The walks of the Harbourmaster are traffic. -/
theorem State.hmWalked_traffic (s : State) (asid : BitVec 12) (va n : Nat) : s.onlyTraffic (s.hmWalked asid va n) :=
  State.onlyTraffic_foldl _ (fun s _ => s.served_traffic _) _ s

/-- A read of the Harbourmaster is traffic. -/
theorem State.hmServed_traffic (s : State) (asid : BitVec 12) (va n : Nat) : s.onlyTraffic (s.hmServed asid va n) := by
  simp only [State.hmServed]
  split
  · exact State.onlyTraffic_trans (s.hmWalked_traffic asid va n) (State.served_traffic _ _)
  · exact s.hmWalked_traffic asid va n

@[simp] theorem State.served_mgmt (s : State) (pas : List Nat) : (s.served pas).mgmt = s.mgmt := State.onlyTraffic_mgmt (s.served_traffic pas)
@[simp] theorem State.served_islands (s : State) (pas : List Nat) : (s.served pas).islands = s.islands := State.onlyTraffic_islands (s.served_traffic pas)
@[simp] theorem State.served_links (s : State) (pas : List Nat) : (s.served pas).links = s.links := State.onlyTraffic_links (s.served_traffic pas)
@[simp] theorem State.served_areas (s : State) (pas : List Nat) : (s.served pas).areas = s.areas := State.onlyTraffic_areas (s.served_traffic pas)
@[simp] theorem State.served_hm (s : State) (pas : List Nat) : (s.served pas).hm = s.hm := State.onlyTraffic_hm (s.served_traffic pas)
@[simp] theorem State.served_turns (s : State) (pas : List Nat) : (s.served pas).turns = s.turns := State.onlyTraffic_turns (s.served_traffic pas)
@[simp] theorem State.served_cur (s : State) (pas : List Nat) : (s.served pas).cur = s.cur := State.onlyTraffic_cur (s.served_traffic pas)
@[simp] theorem State.served_fresh (s : State) (pas : List Nat) : (s.served pas).fresh = s.fresh := State.onlyTraffic_fresh (s.served_traffic pas)
@[simp] theorem State.served_tick (s : State) (pas : List Nat) : (s.served pas).tick = s.tick := State.onlyTraffic_tick (s.served_traffic pas)
@[simp] theorem State.served_sent (s : State) (pas : List Nat) : (s.served pas).sent = s.sent := State.onlyTraffic_sent (s.served_traffic pas)
@[simp] theorem State.served_ram (s : State) (pas : List Nat) : (s.served pas).mem.ram = s.mem.ram := State.onlyTraffic_ram (s.served_traffic pas)

@[simp] theorem State.servedFor_mgmt (s : State) (m : BitVec 64) (pas : List Nat) : (s.servedFor m pas).mgmt = s.mgmt := State.onlyTraffic_mgmt (s.servedFor_traffic m pas)
@[simp] theorem State.servedFor_islands (s : State) (m : BitVec 64) (pas : List Nat) : (s.servedFor m pas).islands = s.islands := State.onlyTraffic_islands (s.servedFor_traffic m pas)
@[simp] theorem State.servedFor_links (s : State) (m : BitVec 64) (pas : List Nat) : (s.servedFor m pas).links = s.links := State.onlyTraffic_links (s.servedFor_traffic m pas)
@[simp] theorem State.servedFor_areas (s : State) (m : BitVec 64) (pas : List Nat) : (s.servedFor m pas).areas = s.areas := State.onlyTraffic_areas (s.servedFor_traffic m pas)
@[simp] theorem State.servedFor_hm (s : State) (m : BitVec 64) (pas : List Nat) : (s.servedFor m pas).hm = s.hm := State.onlyTraffic_hm (s.servedFor_traffic m pas)
@[simp] theorem State.servedFor_turns (s : State) (m : BitVec 64) (pas : List Nat) : (s.servedFor m pas).turns = s.turns := State.onlyTraffic_turns (s.servedFor_traffic m pas)
@[simp] theorem State.servedFor_cur (s : State) (m : BitVec 64) (pas : List Nat) : (s.servedFor m pas).cur = s.cur := State.onlyTraffic_cur (s.servedFor_traffic m pas)
@[simp] theorem State.servedFor_fresh (s : State) (m : BitVec 64) (pas : List Nat) : (s.servedFor m pas).fresh = s.fresh := State.onlyTraffic_fresh (s.servedFor_traffic m pas)
@[simp] theorem State.servedFor_tick (s : State) (m : BitVec 64) (pas : List Nat) : (s.servedFor m pas).tick = s.tick := State.onlyTraffic_tick (s.servedFor_traffic m pas)
@[simp] theorem State.servedFor_sent (s : State) (m : BitVec 64) (pas : List Nat) : (s.servedFor m pas).sent = s.sent := State.onlyTraffic_sent (s.servedFor_traffic m pas)
@[simp] theorem State.servedFor_ram (s : State) (m : BitVec 64) (pas : List Nat) : (s.servedFor m pas).mem.ram = s.mem.ram := State.onlyTraffic_ram (s.servedFor_traffic m pas)

@[simp] theorem State.hmWalked_mgmt (s : State) (a : BitVec 12) (va n : Nat) : (s.hmWalked a va n).mgmt = s.mgmt := State.onlyTraffic_mgmt (s.hmWalked_traffic a va n)
@[simp] theorem State.hmWalked_islands (s : State) (a : BitVec 12) (va n : Nat) : (s.hmWalked a va n).islands = s.islands := State.onlyTraffic_islands (s.hmWalked_traffic a va n)
@[simp] theorem State.hmWalked_links (s : State) (a : BitVec 12) (va n : Nat) : (s.hmWalked a va n).links = s.links := State.onlyTraffic_links (s.hmWalked_traffic a va n)
@[simp] theorem State.hmWalked_areas (s : State) (a : BitVec 12) (va n : Nat) : (s.hmWalked a va n).areas = s.areas := State.onlyTraffic_areas (s.hmWalked_traffic a va n)
@[simp] theorem State.hmWalked_hm (s : State) (a : BitVec 12) (va n : Nat) : (s.hmWalked a va n).hm = s.hm := State.onlyTraffic_hm (s.hmWalked_traffic a va n)
@[simp] theorem State.hmWalked_turns (s : State) (a : BitVec 12) (va n : Nat) : (s.hmWalked a va n).turns = s.turns := State.onlyTraffic_turns (s.hmWalked_traffic a va n)
@[simp] theorem State.hmWalked_cur (s : State) (a : BitVec 12) (va n : Nat) : (s.hmWalked a va n).cur = s.cur := State.onlyTraffic_cur (s.hmWalked_traffic a va n)
@[simp] theorem State.hmWalked_fresh (s : State) (a : BitVec 12) (va n : Nat) : (s.hmWalked a va n).fresh = s.fresh := State.onlyTraffic_fresh (s.hmWalked_traffic a va n)
@[simp] theorem State.hmWalked_tick (s : State) (a : BitVec 12) (va n : Nat) : (s.hmWalked a va n).tick = s.tick := State.onlyTraffic_tick (s.hmWalked_traffic a va n)
@[simp] theorem State.hmWalked_sent (s : State) (a : BitVec 12) (va n : Nat) : (s.hmWalked a va n).sent = s.sent := State.onlyTraffic_sent (s.hmWalked_traffic a va n)
@[simp] theorem State.hmWalked_ram (s : State) (a : BitVec 12) (va n : Nat) : (s.hmWalked a va n).mem.ram = s.mem.ram := State.onlyTraffic_ram (s.hmWalked_traffic a va n)

@[simp] theorem State.hmServed_mgmt (s : State) (a : BitVec 12) (va n : Nat) : (s.hmServed a va n).mgmt = s.mgmt := State.onlyTraffic_mgmt (s.hmServed_traffic a va n)
@[simp] theorem State.hmServed_islands (s : State) (a : BitVec 12) (va n : Nat) : (s.hmServed a va n).islands = s.islands := State.onlyTraffic_islands (s.hmServed_traffic a va n)
@[simp] theorem State.hmServed_links (s : State) (a : BitVec 12) (va n : Nat) : (s.hmServed a va n).links = s.links := State.onlyTraffic_links (s.hmServed_traffic a va n)
@[simp] theorem State.hmServed_areas (s : State) (a : BitVec 12) (va n : Nat) : (s.hmServed a va n).areas = s.areas := State.onlyTraffic_areas (s.hmServed_traffic a va n)
@[simp] theorem State.hmServed_hm (s : State) (a : BitVec 12) (va n : Nat) : (s.hmServed a va n).hm = s.hm := State.onlyTraffic_hm (s.hmServed_traffic a va n)
@[simp] theorem State.hmServed_turns (s : State) (a : BitVec 12) (va n : Nat) : (s.hmServed a va n).turns = s.turns := State.onlyTraffic_turns (s.hmServed_traffic a va n)
@[simp] theorem State.hmServed_cur (s : State) (a : BitVec 12) (va n : Nat) : (s.hmServed a va n).cur = s.cur := State.onlyTraffic_cur (s.hmServed_traffic a va n)
@[simp] theorem State.hmServed_fresh (s : State) (a : BitVec 12) (va n : Nat) : (s.hmServed a va n).fresh = s.fresh := State.onlyTraffic_fresh (s.hmServed_traffic a va n)
@[simp] theorem State.hmServed_tick (s : State) (a : BitVec 12) (va n : Nat) : (s.hmServed a va n).tick = s.tick := State.onlyTraffic_tick (s.hmServed_traffic a va n)
@[simp] theorem State.hmServed_sent (s : State) (a : BitVec 12) (va n : Nat) : (s.hmServed a va n).sent = s.sent := State.onlyTraffic_sent (s.hmServed_traffic a va n)
@[simp] theorem State.hmServed_ram (s : State) (a : BitVec 12) (va n : Nat) : (s.hmServed a va n).mem.ram = s.mem.ram := State.onlyTraffic_ram (s.hmServed_traffic a va n)

@[simp] theorem State.servedRun_mgmt (s : State) (a n : Nat) : (s.servedRun a n).mgmt = s.mgmt := State.onlyTraffic_mgmt (s.servedRun_traffic a n)
@[simp] theorem State.servedRun_islands (s : State) (a n : Nat) : (s.servedRun a n).islands = s.islands := State.onlyTraffic_islands (s.servedRun_traffic a n)
@[simp] theorem State.servedRun_links (s : State) (a n : Nat) : (s.servedRun a n).links = s.links := State.onlyTraffic_links (s.servedRun_traffic a n)
@[simp] theorem State.servedRun_areas (s : State) (a n : Nat) : (s.servedRun a n).areas = s.areas := State.onlyTraffic_areas (s.servedRun_traffic a n)
@[simp] theorem State.servedRun_hm (s : State) (a n : Nat) : (s.servedRun a n).hm = s.hm := State.onlyTraffic_hm (s.servedRun_traffic a n)
@[simp] theorem State.servedRun_turns (s : State) (a n : Nat) : (s.servedRun a n).turns = s.turns := State.onlyTraffic_turns (s.servedRun_traffic a n)
@[simp] theorem State.servedRun_cur (s : State) (a n : Nat) : (s.servedRun a n).cur = s.cur := State.onlyTraffic_cur (s.servedRun_traffic a n)
@[simp] theorem State.servedRun_fresh (s : State) (a n : Nat) : (s.servedRun a n).fresh = s.fresh := State.onlyTraffic_fresh (s.servedRun_traffic a n)
@[simp] theorem State.servedRun_tick (s : State) (a n : Nat) : (s.servedRun a n).tick = s.tick := State.onlyTraffic_tick (s.servedRun_traffic a n)
@[simp] theorem State.servedRun_sent (s : State) (a n : Nat) : (s.servedRun a n).sent = s.sent := State.onlyTraffic_sent (s.servedRun_traffic a n)
@[simp] theorem State.servedRun_ram (s : State) (a n : Nat) : (s.servedRun a n).mem.ram = s.mem.ram := State.onlyTraffic_ram (s.servedRun_traffic a n)

@[simp] theorem State.servedWrite_mgmt (s : State) (pas : List Nat) : (s.servedWrite pas).mgmt = s.mgmt := State.onlyTraffic_mgmt (s.servedWrite_traffic pas)
@[simp] theorem State.servedWrite_islands (s : State) (pas : List Nat) : (s.servedWrite pas).islands = s.islands := State.onlyTraffic_islands (s.servedWrite_traffic pas)
@[simp] theorem State.servedWrite_links (s : State) (pas : List Nat) : (s.servedWrite pas).links = s.links := State.onlyTraffic_links (s.servedWrite_traffic pas)
@[simp] theorem State.servedWrite_areas (s : State) (pas : List Nat) : (s.servedWrite pas).areas = s.areas := State.onlyTraffic_areas (s.servedWrite_traffic pas)
@[simp] theorem State.servedWrite_hm (s : State) (pas : List Nat) : (s.servedWrite pas).hm = s.hm := State.onlyTraffic_hm (s.servedWrite_traffic pas)
@[simp] theorem State.servedWrite_cores (s : State) (pas : List Nat) : (s.servedWrite pas).cores = s.cores  := by
  refine State.foldl_cores _ ?_ _ s
  exact fun _ _ => rfl
@[simp] theorem State.servedWrite_turns (s : State) (pas : List Nat) : (s.servedWrite pas).turns = s.turns := State.onlyTraffic_turns (s.servedWrite_traffic pas)
@[simp] theorem State.servedWrite_cur (s : State) (pas : List Nat) : (s.servedWrite pas).cur = s.cur := State.onlyTraffic_cur (s.servedWrite_traffic pas)
@[simp] theorem State.servedWrite_fresh (s : State) (pas : List Nat) : (s.servedWrite pas).fresh = s.fresh := State.onlyTraffic_fresh (s.servedWrite_traffic pas)
@[simp] theorem State.servedWrite_tick (s : State) (pas : List Nat) : (s.servedWrite pas).tick = s.tick := State.onlyTraffic_tick (s.servedWrite_traffic pas)
@[simp] theorem State.servedWrite_sent (s : State) (pas : List Nat) : (s.servedWrite pas).sent = s.sent := State.onlyTraffic_sent (s.servedWrite_traffic pas)
@[simp] theorem State.servedWrite_ram (s : State) (pas : List Nat) : (s.servedWrite pas).mem.ram = s.mem.ram := State.onlyTraffic_ram (s.servedWrite_traffic pas)

@[simp] theorem State.servedAtomic_mgmt (s : State) (pas : List Nat) : (s.servedAtomic pas).mgmt = s.mgmt := State.onlyTraffic_mgmt (s.servedAtomic_traffic pas)
@[simp] theorem State.servedAtomic_islands (s : State) (pas : List Nat) : (s.servedAtomic pas).islands = s.islands := State.onlyTraffic_islands (s.servedAtomic_traffic pas)
@[simp] theorem State.servedAtomic_links (s : State) (pas : List Nat) : (s.servedAtomic pas).links = s.links := State.onlyTraffic_links (s.servedAtomic_traffic pas)
@[simp] theorem State.servedAtomic_areas (s : State) (pas : List Nat) : (s.servedAtomic pas).areas = s.areas := State.onlyTraffic_areas (s.servedAtomic_traffic pas)
@[simp] theorem State.servedAtomic_hm (s : State) (pas : List Nat) : (s.servedAtomic pas).hm = s.hm := State.onlyTraffic_hm (s.servedAtomic_traffic pas)
@[simp] theorem State.servedAtomic_cores (s : State) (pas : List Nat) : (s.servedAtomic pas).cores = s.cores  := by
  refine State.foldl_cores _ ?_ _ s
  exact fun _ _ => rfl
@[simp] theorem State.servedAtomic_turns (s : State) (pas : List Nat) : (s.servedAtomic pas).turns = s.turns := State.onlyTraffic_turns (s.servedAtomic_traffic pas)
@[simp] theorem State.servedAtomic_cur (s : State) (pas : List Nat) : (s.servedAtomic pas).cur = s.cur := State.onlyTraffic_cur (s.servedAtomic_traffic pas)
@[simp] theorem State.servedAtomic_fresh (s : State) (pas : List Nat) : (s.servedAtomic pas).fresh = s.fresh := State.onlyTraffic_fresh (s.servedAtomic_traffic pas)
@[simp] theorem State.servedAtomic_tick (s : State) (pas : List Nat) : (s.servedAtomic pas).tick = s.tick := State.onlyTraffic_tick (s.servedAtomic_traffic pas)
@[simp] theorem State.servedAtomic_sent (s : State) (pas : List Nat) : (s.servedAtomic pas).sent = s.sent := State.onlyTraffic_sent (s.servedAtomic_traffic pas)
@[simp] theorem State.servedAtomic_ram (s : State) (pas : List Nat) : (s.servedAtomic pas).mem.ram = s.mem.ram := State.onlyTraffic_ram (s.servedAtomic_traffic pas)

@[simp] theorem State.passedRead_mgmt (s : State) (pa len : Nat) : (s.passedRead pa len).mgmt = s.mgmt := State.onlyTraffic_mgmt (s.passedRead_traffic pa len)
@[simp] theorem State.passedRead_islands (s : State) (pa len : Nat) : (s.passedRead pa len).islands = s.islands := State.onlyTraffic_islands (s.passedRead_traffic pa len)
@[simp] theorem State.passedRead_links (s : State) (pa len : Nat) : (s.passedRead pa len).links = s.links := State.onlyTraffic_links (s.passedRead_traffic pa len)
@[simp] theorem State.passedRead_areas (s : State) (pa len : Nat) : (s.passedRead pa len).areas = s.areas := State.onlyTraffic_areas (s.passedRead_traffic pa len)
@[simp] theorem State.passedRead_hm (s : State) (pa len : Nat) : (s.passedRead pa len).hm = s.hm := State.onlyTraffic_hm (s.passedRead_traffic pa len)
@[simp] theorem State.passedRead_cores (s : State) (pa len : Nat) : (s.passedRead pa len).cores = s.cores  := by
  refine State.foldl_cores _ ?_ _ s
  exact fun _ _ => rfl
@[simp] theorem State.passedRead_turns (s : State) (pa len : Nat) : (s.passedRead pa len).turns = s.turns := State.onlyTraffic_turns (s.passedRead_traffic pa len)
@[simp] theorem State.passedRead_cur (s : State) (pa len : Nat) : (s.passedRead pa len).cur = s.cur := State.onlyTraffic_cur (s.passedRead_traffic pa len)
@[simp] theorem State.passedRead_fresh (s : State) (pa len : Nat) : (s.passedRead pa len).fresh = s.fresh := State.onlyTraffic_fresh (s.passedRead_traffic pa len)
@[simp] theorem State.passedRead_tick (s : State) (pa len : Nat) : (s.passedRead pa len).tick = s.tick := State.onlyTraffic_tick (s.passedRead_traffic pa len)
@[simp] theorem State.passedRead_sent (s : State) (pa len : Nat) : (s.passedRead pa len).sent = s.sent := State.onlyTraffic_sent (s.passedRead_traffic pa len)
@[simp] theorem State.passedRead_ram (s : State) (pa len : Nat) : (s.passedRead pa len).mem.ram = s.mem.ram := State.onlyTraffic_ram (s.passedRead_traffic pa len)

@[simp] theorem State.passedWrite_mgmt (s : State) (pa len : Nat) : (s.passedWrite pa len).mgmt = s.mgmt := State.onlyTraffic_mgmt (s.passedWrite_traffic pa len)
@[simp] theorem State.passedWrite_islands (s : State) (pa len : Nat) : (s.passedWrite pa len).islands = s.islands := State.onlyTraffic_islands (s.passedWrite_traffic pa len)
@[simp] theorem State.passedWrite_links (s : State) (pa len : Nat) : (s.passedWrite pa len).links = s.links := State.onlyTraffic_links (s.passedWrite_traffic pa len)
@[simp] theorem State.passedWrite_areas (s : State) (pa len : Nat) : (s.passedWrite pa len).areas = s.areas := State.onlyTraffic_areas (s.passedWrite_traffic pa len)
@[simp] theorem State.passedWrite_hm (s : State) (pa len : Nat) : (s.passedWrite pa len).hm = s.hm := State.onlyTraffic_hm (s.passedWrite_traffic pa len)
@[simp] theorem State.passedWrite_cores (s : State) (pa len : Nat) : (s.passedWrite pa len).cores = s.cores  := by
  refine State.foldl_cores _ ?_ _ s
  exact fun _ _ => rfl
@[simp] theorem State.passedWrite_turns (s : State) (pa len : Nat) : (s.passedWrite pa len).turns = s.turns := State.onlyTraffic_turns (s.passedWrite_traffic pa len)
@[simp] theorem State.passedWrite_cur (s : State) (pa len : Nat) : (s.passedWrite pa len).cur = s.cur := State.onlyTraffic_cur (s.passedWrite_traffic pa len)
@[simp] theorem State.passedWrite_fresh (s : State) (pa len : Nat) : (s.passedWrite pa len).fresh = s.fresh := State.onlyTraffic_fresh (s.passedWrite_traffic pa len)
@[simp] theorem State.passedWrite_tick (s : State) (pa len : Nat) : (s.passedWrite pa len).tick = s.tick := State.onlyTraffic_tick (s.passedWrite_traffic pa len)
@[simp] theorem State.passedWrite_sent (s : State) (pa len : Nat) : (s.passedWrite pa len).sent = s.sent := State.onlyTraffic_sent (s.passedWrite_traffic pa len)
@[simp] theorem State.passedWrite_ram (s : State) (pa len : Nat) : (s.passedWrite pa len).mem.ram = s.mem.ram := State.onlyTraffic_ram (s.passedWrite_traffic pa len)

@[simp] theorem State.passedReply_mgmt (s : State) (pa : Nat) (data : List Byte) : (s.passedReply pa data).mgmt = s.mgmt := State.onlyTraffic_mgmt (s.passedReply_traffic pa data)
@[simp] theorem State.passedReply_islands (s : State) (pa : Nat) (data : List Byte) : (s.passedReply pa data).islands = s.islands := State.onlyTraffic_islands (s.passedReply_traffic pa data)
@[simp] theorem State.passedReply_links (s : State) (pa : Nat) (data : List Byte) : (s.passedReply pa data).links = s.links := State.onlyTraffic_links (s.passedReply_traffic pa data)
@[simp] theorem State.passedReply_areas (s : State) (pa : Nat) (data : List Byte) : (s.passedReply pa data).areas = s.areas := State.onlyTraffic_areas (s.passedReply_traffic pa data)
@[simp] theorem State.passedReply_hm (s : State) (pa : Nat) (data : List Byte) : (s.passedReply pa data).hm = s.hm := State.onlyTraffic_hm (s.passedReply_traffic pa data)
@[simp] theorem State.passedReply_cores (s : State) (pa : Nat) (data : List Byte) : (s.passedReply pa data).cores = s.cores  := by
  refine State.foldl_cores _ ?_ _ s
  exact fun _ _ => rfl
@[simp] theorem State.passedReply_turns (s : State) (pa : Nat) (data : List Byte) : (s.passedReply pa data).turns = s.turns := State.onlyTraffic_turns (s.passedReply_traffic pa data)
@[simp] theorem State.passedReply_cur (s : State) (pa : Nat) (data : List Byte) : (s.passedReply pa data).cur = s.cur := State.onlyTraffic_cur (s.passedReply_traffic pa data)
@[simp] theorem State.passedReply_fresh (s : State) (pa : Nat) (data : List Byte) : (s.passedReply pa data).fresh = s.fresh := State.onlyTraffic_fresh (s.passedReply_traffic pa data)
@[simp] theorem State.passedReply_tick (s : State) (pa : Nat) (data : List Byte) : (s.passedReply pa data).tick = s.tick := State.onlyTraffic_tick (s.passedReply_traffic pa data)
@[simp] theorem State.passedReply_sent (s : State) (pa : Nat) (data : List Byte) : (s.passedReply pa data).sent = s.sent := State.onlyTraffic_sent (s.passedReply_traffic pa data)
@[simp] theorem State.passedReply_ram (s : State) (pa : Nat) (data : List Byte) : (s.passedReply pa data).mem.ram = s.mem.ram := State.onlyTraffic_ram (s.passedReply_traffic pa data)

@[simp] theorem State.homeWrite_mgmt (s : State) (bs : List Host.Cell) : (s.homeWrite bs).mgmt = s.mgmt := State.servedWrite_mgmt _ _
@[simp] theorem State.homeWrite_islands (s : State) (bs : List Host.Cell) : (s.homeWrite bs).islands = s.islands := State.servedWrite_islands _ _
@[simp] theorem State.homeWrite_links (s : State) (bs : List Host.Cell) : (s.homeWrite bs).links = s.links := State.servedWrite_links _ _
@[simp] theorem State.homeWrite_areas (s : State) (bs : List Host.Cell) : (s.homeWrite bs).areas = s.areas := State.servedWrite_areas _ _
@[simp] theorem State.homeWrite_hm (s : State) (bs : List Host.Cell) : (s.homeWrite bs).hm = s.hm := State.servedWrite_hm _ _
@[simp] theorem State.homeWrite_cores (s : State) (bs : List Host.Cell) : (s.homeWrite bs).cores = s.cores := State.servedWrite_cores _ _
@[simp] theorem State.homeWrite_turns (s : State) (bs : List Host.Cell) : (s.homeWrite bs).turns = s.turns := State.servedWrite_turns _ _
@[simp] theorem State.homeWrite_cur (s : State) (bs : List Host.Cell) : (s.homeWrite bs).cur = s.cur := State.servedWrite_cur _ _
@[simp] theorem State.homeWrite_fresh (s : State) (bs : List Host.Cell) : (s.homeWrite bs).fresh = s.fresh := State.servedWrite_fresh _ _
@[simp] theorem State.homeWrite_tick (s : State) (bs : List Host.Cell) : (s.homeWrite bs).tick = s.tick := State.servedWrite_tick _ _
@[simp] theorem State.homeWrite_sent (s : State) (bs : List Host.Cell) : (s.homeWrite bs).sent = s.sent := State.servedWrite_sent _ _

/-- A write of a unit that is no core: its bytes are stored, the rest is traffic. -/
@[simp] theorem State.homeWrite_ram (s : State) (bs : List Host.Cell) : (s.homeWrite bs).mem.ram = s.mem.ram.store bs fun _ => false := State.servedWrite_ram _ _

end Sys2Proof.Machine
end

