-- ==== Sys2Proof/Laws/Memory.lean ====
section
/-! SUPPORT. Cells in canonical form: what is read after a write, and that every memory operation keeps the form. -/

namespace Sys2Proof.Machine

/-! ## One byte -/

/-- Every listed address is above a bound. -/
def cellsAbove (a : Nat) (c : List Host.Cell) : Prop := ∀ x ∈ c, a < x.1

/-- The canonical form, as a recursion on the first cell. -/
theorem cellsWf_cons (k : Nat) (v : Byte) (r : List Host.Cell) :
    cellsWf ((k, v) :: r) = true ↔ v ≠ 0 ∧ cellsAbove k r ∧ cellsWf r = true := by
  induction r generalizing k v with
  | nil => simp [cellsWf, cellsAbove]
  | cons x r ih =>
    obtain ⟨k', v'⟩ := x
    have ih' := ih k' v'
    simp only [cellsWf, Bool.and_eq_true, decide_eq_true_eq, bne_iff_ne, ne_eq]
    constructor
    · rintro ⟨⟨hk, hv⟩, hr⟩
      refine ⟨hv, ?_, hr⟩
      have hr' := ih'.mp hr
      intro y hy
      rcases List.mem_cons.mp hy with rfl | hy
      · exact hk
      · exact Nat.lt_trans hk (hr'.2.1 y hy)
    · rintro ⟨hv, ha, hr⟩
      exact ⟨⟨ha (k', v') (by simp), hv⟩, hr⟩

/-- A byte that is not listed reads 0. -/
theorem readCell_of_above {c : List Host.Cell} {a : Nat} (h : cellsAbove a c) : readCell c a = 0 := by
  induction c with
  | nil => rfl
  | cons x r ih =>
    obtain ⟨k, v⟩ := x
    have hk : a < k := h (k, v) (by simp)
    have : k ≠ a := by omega
    simp only [readCell, this, if_false]
    exact ih fun y hy => h y (List.mem_cons_of_mem _ hy)

/-- What is above a bound stays above it under a write above it. -/
theorem writeCell_above {c : List Host.Cell} {b a : Nat} (v : Byte) (h : cellsAbove b c) (hab : b < a) : cellsAbove b (writeCell c a v) := by
  induction c with
  | nil => simp only [writeCell]; split <;> simp [cellsAbove, hab]
  | cons x r ih =>
    obtain ⟨k, y⟩ := x
    have hr : cellsAbove b r := fun z hz => h z (List.mem_cons_of_mem _ hz)
    have hk : b < k := h (k, y) (by simp)
    simp only [writeCell]
    split
    · split
      · exact h
      · intro z hz
        rcases List.mem_cons.mp hz with rfl | hz
        · exact hab
        · exact h z hz
    · split
      · split
        · exact hr
        · intro z hz
          rcases List.mem_cons.mp hz with rfl | hz
          · exact hab
          · exact hr z hz
      · intro z hz
        rcases List.mem_cons.mp hz with rfl | hz
        · exact hk
        · exact ih hr z hz

/-- A write keeps the canonical form. -/
theorem writeCell_wf {c : List Host.Cell} (a : Nat) (v : Byte) (h : cellsWf c = true) : cellsWf (writeCell c a v) = true := by
  induction c with
  | nil => simp only [writeCell]; split <;> simp_all [cellsWf]
  | cons x r ih =>
    obtain ⟨k, y⟩ := x
    have h' := (cellsWf_cons k y r).mp h
    simp only [writeCell]
    split
    · rename_i hlt
      split
      · exact h
      · rename_i hv
        refine (cellsWf_cons a v _).mpr ⟨hv, ?_, h⟩
        intro z hz
        rcases List.mem_cons.mp hz with rfl | hz
        · exact hlt
        · exact Nat.lt_trans hlt (h'.2.1 z hz)
    · split
      · rename_i _ heq
        split
        · exact h'.2.2
        · rename_i hv
          exact (cellsWf_cons a v r).mpr ⟨hv, heq ▸ h'.2.1, h'.2.2⟩
      · rename_i h1 h2
        exact (cellsWf_cons k y _).mpr ⟨h'.1, writeCell_above v h'.2.1 (by omega), ih h'.2.2⟩

/-- The byte just written. -/
theorem readCell_writeCell_same {c : List Host.Cell} (a : Nat) (v : Byte) (h : cellsWf c = true) : readCell (writeCell c a v) a = v := by
  induction c with
  | nil => simp only [writeCell]; split <;> simp_all [readCell]
  | cons x r ih =>
    obtain ⟨k, y⟩ := x
    have h' := (cellsWf_cons k y r).mp h
    simp only [writeCell]
    split
    · rename_i hlt
      have hne : k ≠ a := by omega
      split
      · rename_i hv
        simp only [readCell, hne, if_false, hv]
        exact readCell_of_above fun z hz => Nat.lt_trans hlt (h'.2.1 z hz)
      · simp [readCell]
    · split
      · rename_i _ heq
        split
        · rename_i hv
          rw [hv]; exact readCell_of_above (heq ▸ h'.2.1)
        · simp [readCell]
      · rename_i h1 h2
        have hne : k ≠ a := by omega
        simp only [readCell, hne, if_false]
        exact ih h'.2.2

/-- Every other byte is as it was. -/
theorem readCell_writeCell_other (c : List Host.Cell) (a b : Nat) (v : Byte) (h : b ≠ a) : readCell (writeCell c a v) b = readCell c b := by
  induction c with
  | nil => simp only [writeCell]; split <;> simp [readCell, Ne.symm h]
  | cons x r ih =>
    obtain ⟨k, y⟩ := x
    simp only [writeCell]
    split
    · split <;> simp [readCell, Ne.symm h]
    · split
      · rename_i _ heq
        have hk : k ≠ b := by rintro rfl; exact h heq.symm
        split <;> simp [readCell, Ne.symm h, hk]
      · simp [readCell, ih]

/-! ## Runs and stores -/

/-- Writes of several bytes keep the canonical form. -/
theorem writeCells_wf (bs : List Host.Cell) : ∀ c : List Host.Cell, cellsWf c = true → cellsWf (bs.foldl (fun c b => writeCell c b.1 b.2) c) = true := by
  induction bs with
  | nil => intro c h; exact h
  | cons b r ih => intro c h; exact ih _ (writeCell_wf b.1 b.2 h)

/-- A byte that none of the writes touches is as it was. -/
theorem readCell_writes_other (bs : List Host.Cell) (a : Nat) : ∀ c : List Host.Cell, (∀ b ∈ bs, b.1 ≠ a) →
    readCell (bs.foldl (fun c b => writeCell c b.1 b.2) c) a = readCell c a := by
  induction bs with
  | nil => intro c _; rfl
  | cons b r ih =>
    intro c h
    have hb : b.1 ≠ a := h b (by simp)
    simp only [List.foldl_cons]
    rw [ih _ fun x hx => h x (List.mem_cons_of_mem _ hx), readCell_writeCell_other _ _ _ _ (Ne.symm hb)]

/-- A byte that the last of the writes to it stores. -/
theorem readCell_writes_last (bs : List Host.Cell) (a : Nat) (v : Byte) (tail : List Host.Cell) (c : List Host.Cell) (hc : cellsWf c = true)
    (h : ∀ b ∈ tail, b.1 ≠ a) : readCell ((bs ++ (a, v) :: tail).foldl (fun c b => writeCell c b.1 b.2) c) a = v := by
  rw [List.foldl_append, List.foldl_cons, readCell_writes_other _ _ _ h]
  exact readCell_writeCell_same _ _ (writeCells_wf bs c hc)

/-- The poison marks stay a rising list when one is set. -/
theorem insertNat_sorted (n : Nat) (l : List Nat) (h : l.Pairwise (· < ·)) : (insertNat n l).Pairwise (· < ·) := by
  induction l with
  | nil => simp [insertNat]
  | cons x r ih =>
    have hx := List.pairwise_cons.mp h
    simp only [insertNat]
    split
    · rename_i hlt
      refine List.pairwise_cons.mpr ⟨?_, h⟩
      intro y hy
      rcases List.mem_cons.mp hy with rfl | hy
      · exact hlt
      · exact Nat.lt_trans hlt (hx.1 y hy)
    · split
      · exact h
      · rename_i h1 h2
        refine List.pairwise_cons.mpr ⟨?_, ih hx.2⟩
        have key : ∀ y ∈ insertNat n r, x < y := by
          intro y hy
          have : y = n ∨ y ∈ r := by
            clear ih h hx
            induction r with
            | nil => simp [insertNat] at hy; exact Or.inl hy
            | cons z t iht =>
              simp only [insertNat] at hy
              split at hy
              · rcases List.mem_cons.mp hy with rfl | hy
                · exact Or.inl rfl
                · exact Or.inr hy
              · split at hy
                · exact Or.inr hy
                · rcases List.mem_cons.mp hy with rfl | hy
                  · exact Or.inr (by simp)
                  · rcases iht hy with rfl | hm
                    · exact Or.inl rfl
                    · exact Or.inr (List.mem_cons_of_mem _ hm)
          rcases this with rfl | hm
          · omega
          · exact hx.1 y hm
        exact key

/-- The poison marks stay a rising list under a store. -/
theorem storePoison_sorted (p : List Nat) (bs : List Host.Cell) (bad : Nat → Bool) (h : p.Pairwise (· < ·)) :
    (storePoison p bs bad).Pairwise (· < ·) := by
  unfold storePoison
  generalize (bs.map fun c => c.1 / 16).eraseDups = secs
  induction secs generalizing p with
  | nil => exact h
  | cons x r ih =>
    simp only [List.foldl_cons]
    apply ih
    split
    · exact insertNat_sorted _ _ h
    · split
      · exact h.sublist List.erase_sublist
      · exact h

/-- The canonical form of an image, as its two parts. -/
theorem Ram.wf_iff (r : Ram) : r.wf = true ↔ cellsWf r.cells = true ∧ r.poison.Pairwise (· < ·) := by
  simp [Ram.wf]

/-- A store keeps the canonical form. -/
theorem Ram.store_wf (r : Ram) (bs : List Host.Cell) (bad : Nat → Bool) (h : r.wf = true) : (r.store bs bad).wf = true := by
  have h' := (Ram.wf_iff r).mp h
  exact (Ram.wf_iff _).mpr ⟨writeCells_wf bs _ h'.1, storePoison_sorted _ _ _ h'.2⟩

/-- A read-modify-write keeps the canonical form. -/
theorem Ram.rmw_wf (r : Ram) (a : AtomElem) (r' : Ram) (m : Nat) (h : r.wf = true) (hr : r.rmw a = some (r', m)) : r'.wf = true := by
  simp only [Ram.rmw] at hr
  split at hr
  · simp at hr
  · simp only [Option.some.injEq, Prod.mk.injEq] at hr
    rw [← hr.1]; exact Ram.store_wf _ _ _ h

/-- A store leaves every other byte as it was. -/
theorem Ram.store_other (r : Ram) (bs : List Host.Cell) (bad : Nat → Bool) (a : Nat) (h : ∀ b ∈ bs, b.1 ≠ a) :
    readCell (r.store bs bad).cells a = readCell r.cells a := readCell_writes_other bs a r.cells h

/-- Home memory keeps its canonical form when bytes are stored. -/
theorem State.storeHome_wf (s : State) (bs : List Host.Cell) (h : s.mem.ram.wf = true) : (s.storeHome bs).mem.ram.wf = true :=
  Ram.store_wf _ _ _ h

/-- Memory at reset has the canonical form. -/
theorem reset_ram_wf : State.reset.mem.ram.wf = true := by decide

/-! ## The lanes of a load -/

/-- What the lanes of a load still need after the reads of those that come first, they needed before. -/
theorem State.lanesFirst_need {s : State} {core : Nat} {l : PendLoad} {n : NeedByte} (h : n ∈ (s.lanesFirst core l).2.need) : n ∈ l.need := by
  simp only [State.lanesFirst] at h
  split at h
  · exact h
  · exact (List.mem_filter.mp h).1

/-- A load whose bytes the L1 does not hold loses none, and nothing happens. -/
theorem State.lanesFirst_missing {s : State} {core : Nat} {l : PendLoad} (h : ∀ n ∈ l.need, (s.core core).l1Hit n.pa = false) : s.lanesFirst core l = (s, l) := by
  have : (l.need.filter fun n => isHbm n.pa && (s.core core).l1Hit n.pa) = [] := by
    rw [List.filter_eq_nil_iff]; intro n hn; simp [h n hn]
  simp [State.lanesFirst, this]

end Sys2Proof.Machine
end

