-- ==== Sys2Proof/Laws/Ops.lean ====
section
/-! SUPPORT. What the shared operations of warp instructions answer: who is current, retiring, storing a warp and its team. -/

namespace Sys2Proof.Machine

/-! ## Who is current -/

/-- What a current warp is: named by `cur`, in a team of the device. -/
theorem State.ctx?_cur {s : State} {c : Ctx} (h : s.ctx? = some c) : s.cur = some (.warp c.w) := by
  unfold State.ctx? at h
  split at h
  · rename_i w hw
    cases ht : s.team? w.team with
    | none => simp [ht] at h
    | some t =>
      simp only [ht, Option.map_eq_some_iff] at h
      obtain ⟨x, _, rfl⟩ := h
      exact hw
  · simp at h

/-- The team of the current warp. -/
theorem State.ctx?_team {s : State} {c : Ctx} (h : s.ctx? = some c) : s.team? c.w.team = some c.t := by
  unfold State.ctx? at h
  split at h
  · rename_i w hw
    cases ht : s.team? w.team with
    | none => simp [ht] at h
    | some t =>
      simp only [ht, Option.map_eq_some_iff] at h
      obtain ⟨x, _, rfl⟩ := h
      exact ht
  · simp at h

/-- The place of the current warp in its team. -/
theorem State.ctx?_idx {s : State} {c : Ctx} (h : s.ctx? = some c) : c.t.warps[c.w.idx]? = some c.x := by
  unfold State.ctx? at h
  split at h
  · rename_i w hw
    cases ht : s.team? w.team with
    | none => simp [ht] at h
    | some t =>
      simp only [ht, Option.map_eq_some_iff] at h
      obtain ⟨x, hx, rfl⟩ := h
      exact hx
  · simp at h

/-- The current warp is the one that the state holds. -/
theorem State.ctx?_warp {s : State} {c : Ctx} (h : s.ctx? = some c) : s.warp? c.w = some c.x := by
  rw [State.warp?_eq, State.ctx?_team h, Option.bind_some, State.ctx?_idx h]

/-- The number of the current warp's team. -/
theorem State.ctx?_num {s : State} {c : Ctx} (h : s.ctx? = some c) : c.t.num = c.w.team := State.team?_num (State.ctx?_team h)

/-- A warp instruction with a warp current: its meaning's answer, concluded. -/
theorem State.asWarp_eq {s : State} {c : Ctx} (h : s.ctx? = some c) (f : Ctx → Except Stop State) : s.asWarp f = .next (s.conclude c.w (f c)) := by
  simp [State.asWarp, h]

/-- A warp instruction with a warp current always answers a next state. -/
theorem State.asWarp_next {s : State} {c : Ctx} (h : s.ctx? = some c) (f : Ctx → Except Stop State) : ∃ t, s.asWarp f = .next t :=
  ⟨_, State.asWarp_eq h f⟩

/-- A meaning that gives a state ends there. -/
@[simp] theorem State.conclude_ok (s : State) (w : WarpId) (t : State) : s.conclude w (.ok t) = t := rfl

/-- A meaning that traps takes the trap. -/
@[simp] theorem State.conclude_trap (s : State) (w : WarpId) (q : TrapReq) : s.conclude w (.error (.trap q)) = s.raise w q := rfl

/-- A meaning that stalls leaves all but the stall's record. -/
@[simp] theorem State.conclude_stall (s : State) (w : WarpId) (y : Stall) : s.conclude w (.error (.stall y)) = s.stallWarp w y := rfl

/-! ## Retiring -/

/-- A warp after its instruction has retired. -/
theorem State.retireWarp_warp {s : State} {w : WarpId} {y : Warp} (h : s.warp? w = some y) (x : Warp) : (s.retireWarp w x).warp? w = some x.retire := by
  simp only [State.retireWarp]
  split
  · rw [State.warp?_releasePort, State.warp?_setWarp_same h]
  · rw [State.warp?_setWarp_same h]

/-- Every other warp is as it was. -/
theorem State.retireWarp_other (s : State) (w v : WarpId) (x : Warp) (h : w ≠ v) : (s.retireWarp w x).warp? v = s.warp? v := by
  simp only [State.retireWarp]
  split
  · rw [State.warp?_releasePort, State.warp?_setWarp_other _ _ _ _ h]
  · rw [State.warp?_setWarp_other _ _ _ _ h]

/-- A warp after a transfer of control. -/
theorem State.transfer_warp {s : State} {w : WarpId} {y : Warp} (h : s.warp? w = some y) (x : Warp) (a : Int) :
    (s.transfer w x a).warp? w = some ({ x with retired := x.retired + 1, stall := none, failed := [], recheck := false }.goto a) := by
  simp only [State.transfer, State.warp?_releasePort]
  exact State.warp?_setWarp_same h _

/-- Every other warp is as it was. -/
theorem State.transfer_other (s : State) (w v : WarpId) (x : Warp) (a : Int) (h : w ≠ v) : (s.transfer w x a).warp? v = s.warp? v := by
  simp only [State.transfer, State.warp?_releasePort, State.warp?_setWarp_other _ _ _ _ h]

/-- A warp replaced in the team of its number. -/
theorem State.putCtx_warp {s : State} {d : Ctx} {t : Team} (ht : s.team? d.w.team = some t) (hn : d.t.num = d.w.team) (hi : d.w.idx < d.t.warps.length) :
    (s.putCtx d).warp? d.w = some d.x := by
  have hn' : (d.t.setWarp d.w.idx d.x).num = d.w.team := by rw [Team.setWarp_num, hn]
  simp only [State.putCtx, State.warp?_eq, State.team?_setTeam_same ht _ hn', Option.bind_some]
  simp [Team.setWarp, hi]

/-- The instruction of a context retires: the warp is the context's, retired. -/
theorem State.retireCtx_warp {s : State} {d : Ctx} {t : Team} (ht : s.team? d.w.team = some t) (hn : d.t.num = d.w.team) (hi : d.w.idx < d.t.warps.length) :
    (s.retireCtx d).warp? d.w = some d.x.retire := State.retireWarp_warp (State.putCtx_warp ht hn hi) d.x

/-- What a retiring instruction leaves as it was, whatever the context. -/
theorem State.retireCtx_frame (s : State) (d : Ctx) :
    (s.retireCtx d).mem = s.mem ∧ (s.retireCtx d).slices = s.slices ∧ (s.retireCtx d).links = s.links ∧ (s.retireCtx d).areas = s.areas ∧
      (s.retireCtx d).mgmt = s.mgmt ∧ (s.retireCtx d).islands = s.islands ∧ (s.retireCtx d).sent = s.sent ∧ (s.retireCtx d).tick = s.tick ∧
      (s.retireCtx d).fresh = s.fresh ∧ (s.retireCtx d).turns = s.turns := by
  simp [State.retireCtx, State.putCtx]

/-- Retiring counts one instruction. -/
theorem Warp.retire_retired (x : Warp) : x.retire.retired = x.retired + 1 := by
  simp only [Warp.retire]
  split
  · rfl
  · simp only [Warp.advance]; split <;> rfl

/-- Retiring leaves every register of the warp as it is. -/
theorem Warp.retire_regs (x : Warp) : x.retire.v = x.v ∧ x.retire.a = x.a ∧ x.retire.k = x.k ∧ x.retire.p = x.p ∧ x.retire.tc = x.tc ∧ x.retire.tw = x.tw ∧
    x.retire.tinfo = x.tinfo ∧ x.retire.fflags = x.fflags ∧ x.retire.amax = x.amax ∧ x.retire.matrix = x.matrix ∧ x.retire.m = x.m ∧ x.retire.live = x.live ∧
    x.retire.rpc = x.rpc ∧ x.retire.pstack = x.pstack ∧ x.retire.cstack = x.cstack ∧ x.retire.frame = x.frame := by
  simp only [Warp.retire]
  split
  · simp
  · simp only [Warp.advance]; split <;> simp [Warp.goto]

/-! ## Flags -/

/-- No lane raises a flag. -/
@[simp] theorem laneFlags_zero (act : Mask) : (laneFlags act fun _ => 0) = 0 := by
  have h : ∀ l : List Nat, l.foldl (fun (a : Nat) (_ : Nat) => a ||| 0) 0 = 0 := by
    intro l
    induction l with
    | nil => rfl
    | cons x r ih => simpa using ih
  exact h _

/-- No flag added. -/
@[simp] theorem Warp.addFlags_zero (x : Warp) : x.addFlags 0 = x := by
  have h : x.fflags ||| word 0 = x.fflags := by simp [word]
  simp [Warp.addFlags, h]

end Sys2Proof.Machine
end

