-- ==== Sys2Proof/Laws/Ready.lean ====
section
/-! SUPPORT. Words whose fields are all ready: their checks pass and their destination is written. -/

namespace Sys2Proof.Machine

/-- A ready source passes its check. -/
theorem State.srcReady_check {s : State} {c : Ctx} {act : Mask} {u : SrcUse} {pos : Nat} (h : s.srcReady c act u pos = true) :
    srcCheck c act u pos = .ok := by
  simp only [State.srcReady] at h
  simp only [srcCheck]
  split at h <;> rename_i ho <;> simp only [ho]
  · -- a v register
    split at h
    · rename_i r hr
      simp only [hr]
      simp only [Bool.and_eq_true, Bool.not_eq_true', Bool.or_eq_true, beq_iff_eq] at h
      obtain ⟨⟨h1, h2⟩, -⟩ := h
      have h3 : u.flt = true → r.uninit &&& act = 0#32 := by
        intro hf
        rcases h2 with h2 | h2
        · simp [hf] at h2
        · exact h2
      simpa [h1] using h3
    · simp at h
  all_goals first
    | (split at h
       · rename_i y hy
         simp only [Bool.and_eq_true, beq_iff_eq, bne_iff_ne, ne_eq] at h
         obtain ⟨⟨h1, h2⟩, h3⟩ := h
         split at h3
         · rename_i e he
           simp only [Bool.and_eq_true, beq_iff_eq] at h3
           obtain ⟨h4, h5⟩ := h3
           simp [popCheck, entryCheck, hy, h1, h2, he, h4, h5]
         · simp at h3
       · simp at h)
    | simp at h
    | skip

/-- A ready source waits for nothing. -/
theorem State.srcReady_free {s : State} {c : Ctx} {act : Mask} {u : SrcUse} {pos : Nat} (h : s.srcReady c act u pos = true) :
    s.fieldBusy c u.fld = false := by
  simp only [State.srcReady] at h
  simp only [State.fieldBusy]
  split at h <;> rename_i ho <;> simp only [ho]
  · simp only [Bool.and_eq_true, Bool.not_eq_true'] at h; exact h.2
  · simpa using h

/-- One position for each source field. -/
theorem popPositions_length (access : Bool) (us : List SrcUse) : ∀ done, (popPositions access us done).length = us.length := by
  induction us with
  | nil => intro _; rfl
  | cons u r ih =>
    intro done
    simp only [popPositions]
    split <;> simp [ih]

/-- No ready source waits. -/
theorem State.srcsReady_free {s : State} {c : Ctx} {act : Mask} {us : List SrcUse} (h : s.srcsReady c act us = true) :
    (us.any fun u => s.fieldBusy c u.fld) = false := by
  rw [List.any_eq_false]
  intro u hu
  obtain ⟨n, hn, rfl⟩ := List.mem_iff_getElem.mp hu
  rw [State.srcsReady, List.all_eq_true] at h
  have hl := popPositions_length c.w.access us []
  have hm : (us[n], (popPositions c.w.access us [])[n]'(by omega)) ∈ us.zip (popPositions c.w.access us []) := by
    rw [List.mem_iff_getElem]
    exact ⟨n, by simp [hl, hn], by simp⟩
  have := State.srcReady_free (h _ hm)
  simp only at this
  simp [this]

/-- Checks that all pass. -/
theorem verdict_ok {cs : List FieldCheck} (h : ∀ x ∈ cs, x = .ok) : verdict cs = .ok () := by
  have hw : firstWait cs = none := by
    simp only [firstWait, List.findSome?_eq_none_iff]
    intro x hx; rw [h x hx]
  have hf : firstTrap cs = none := by
    simp only [firstTrap, List.findSome?_eq_none_iff]
    intro x hx; rw [h x hx]
  simp only [verdict, hw, hf]

/-- The checks of ready sources pass. -/
theorem State.srcsReady_verdict {s : State} {c : Ctx} {act : Mask} {us : List SrcUse} (h : s.srcsReady c act us = true) :
    verdict ((us.zip (popPositions c.w.access us [])).map fun x => srcCheck c act x.1 x.2) = .ok () := by
  apply verdict_ok
  intro y hy
  rw [List.mem_map] at hy
  obtain ⟨x, hx, rfl⟩ := hy
  rw [State.srcsReady, List.all_eq_true] at h
  exact State.srcReady_check (h x hx)

/-- A ready destination waits for nothing. -/
theorem State.dstReady_free {s : State} {c : Ctx} {us : List SrcUse} {d : Fld} (h : s.dstReady c us d = true) : s.fieldBusy c d = false := by
  simp only [State.dstReady] at h
  simp only [State.fieldBusy]
  split at h <;> rename_i ho <;> simp only [ho]
  · simp only [Bool.and_eq_true, Bool.not_eq_true'] at h; exact h.2
  · simpa using h

/-- The check of a ready destination passes. -/
theorem State.dstReady_check {s : State} {c : Ctx} {us : List SrcUse} {d : Fld} (okK okP : Bool) (h : s.dstReady c us d = true) :
    dstCheck c okK okP true d = .ok (dstOf c.w.access d) := by
  simp only [State.dstReady] at h
  simp only [dstCheck, dstOf]
  split at h <;> rename_i ho <;> simp only [ho]
  · simp only [Bool.and_eq_true, decide_eq_true_eq] at h; simp [h.1]
  · simp
  · split at h
    · rename_i y hy
      simp only [Bool.and_eq_true, beq_iff_eq] at h
      obtain ⟨⟨h1, h2⟩, -⟩ := h
      simp [pushCheck, hy, h1, h2]
    · simp at h
  · simp only [beq_iff_eq] at h
    subst h
    rfl
  · simp at h

/-- The checks that come before the effect of a word whose fields are ready all pass. -/
theorem State.vecStart_ready {s : State} {c : Ctx} {d : Fld} {cc : BitVec 2} {g : Guard} {us : List SrcUse} (okK okP : Bool)
    (h : s.fieldsReady c d cc g us = true) : s.vecStart c d cc g us okK okP true = .ok (dstOf c.w.access d) := by
  simp only [State.fieldsReady, Bool.and_eq_true] at h
  obtain ⟨⟨h1, h2⟩, h3⟩ := h
  simp only [State.vecStart, h1, checkOperands, State.dstReady_check okK okP h3, State.srcsReady_verdict h2,
    State.srcsReady_free h2, State.dstReady_free h3, Bool.or_false]
  simp

/-- A ready destination is written. -/
theorem State.writeDst_ready {s : State} {c : Ctx} {us : List SrcUse} {d : Fld} (act : Mask) (x : Image) (cc : BitVec 2) (h : s.dstReady c us d = true) :
    (c.afterReads us).writeDst (dstOf c.w.access d) act x cc = .ok ((c.afterReads us).written (dstOf c.w.access d) act x cc) := by
  simp only [State.dstReady] at h
  simp only [dstOf]
  split at h <;> rename_i ho <;> simp only [ho]
  · simp [Ctx.writeDst, Ctx.written]
  · simp [Ctx.writeDst, Ctx.written]
  · simp only [Ctx.writeDst, Ctx.written]
    split at h
    · rename_i y hy
      simp only [Bool.and_eq_true, beq_iff_eq] at h
      obtain ⟨-, h3⟩ := h
      split at h3
      · rename_i z hz
        simp only [hz]
        simp only [Bool.or_eq_true] at h3
        have : ¬ ((c.afterReads us).t.noConsumer z = false ∧ z.hasRoom 1 = false) := by
          rintro ⟨ha, hb⟩; simp [ha, hb] at h3
        simp [this]
      · rename_i hz
        simp [hz]
    · simp at h
  · simp [Ctx.writeDst, Ctx.written]
  · simp at h

/-- The end of a vector word whose fields are ready. -/
theorem State.vecEnd_ready {s : State} {c : Ctx} {d : Fld} {cc : BitVec 2} {g : Guard} {us : List SrcUse} (act : Mask) (x : Image) (flags : Nat)
    (h : s.fieldsReady c d cc g us = true) :
    s.vecEnd c us (dstOf c.w.access d) act x cc flags =
      .ok (s.retireCtx { (c.afterReads us).written (dstOf c.w.access d) act x cc with
        x := ((c.afterReads us).written (dstOf c.w.access d) act x cc).x.addFlags flags }) := by
  simp only [State.fieldsReady, Bool.and_eq_true] at h
  simp only [State.vecEnd, State.writeDst_ready act x cc h.2]

/-- An element-wise word whose fields are ready. -/
theorem State.elementwise_ready {s : State} {c : Ctx} {e : Elem} (f : List Word → Word × Nat) (hc : s.ctx? = some c) (hu : e.uni = false)
    (h : s.fieldsReady c e.d e.cc e.g e.us = true) :
    s.elementwise e f = .next (s.retireCtx
      { (c.afterReads e.us).written (dstOf c.w.access e.d) (c.x.active e.g) (ofLanes fun t => (f (laneArgs (srcVals c e.ty e.us) t)).1) e.cc with
        x := ((c.afterReads e.us).written (dstOf c.w.access e.d) (c.x.active e.g) (ofLanes fun t => (f (laneArgs (srcVals c e.ty e.us) t)).1) e.cc).x.addFlags
          (laneFlags (c.x.active e.g) fun t => (f (laneArgs (srcVals c e.ty e.us) t)).2) }) := by
  simp only [State.elementwise, State.asWarp_eq hc, hu, State.vecStart_ready _ _ h, State.vecEnd_ready _ _ _ h]
  simp

/-- An element-wise word in its uniform form. -/
theorem State.elementwise_uniform {s : State} {c : Ctx} {e : Elem} (f : List Word → Word × Nat) (hc : s.ctx? = some c) (hu : e.uni = true)
    (hcc : e.cc = 0) (hf : uniFields e = true) (hg : c.x.cond e.g = true) :
    s.elementwise e f = .next (s.retireWarp c.w ((c.x.writeK e.d (f (e.us.map fun u => uniVal c e.ty u.fld)).1).addFlags
      (f (e.us.map fun u => uniVal c e.ty u.fld)).2)) := by
  simp only [uniFields, Bool.and_eq_true, List.all_eq_true] at hf
  have hn : (e.us.map (·.fld)).find? (fun f => !uniSrcOk f) = none := by
    rw [List.find?_eq_none]
    intro y hy
    rw [List.mem_map] at hy
    obtain ⟨u, hu, rfl⟩ := hy
    simp [hf.2 u hu]
  simp [State.elementwise, State.asWarp_eq hc, hu, hcc, checkUniform, hf.1, hn, hg]

/-- A uniform word whose condition fails has no effect. -/
theorem State.elementwise_skipped {s : State} {c : Ctx} {e : Elem} (f : List Word → Word × Nat) (hc : s.ctx? = some c) (hu : e.uni = true)
    (hcc : e.cc = 0) (hf : uniFields e = true) (hg : c.x.cond e.g = false) : s.elementwise e f = .next (s.retireWarp c.w c.x) := by
  simp only [uniFields, Bool.and_eq_true, List.all_eq_true] at hf
  have hn : (e.us.map (·.fld)).find? (fun f => !uniSrcOk f) = none := by
    rw [List.find?_eq_none]
    intro y hy
    rw [List.mem_map] at hy
    obtain ⟨u, hu, rfl⟩ := hy
    simp [hf.2 u hu]
  simp [State.elementwise, State.asWarp_eq hc, hu, hcc, checkUniform, hf.1, hn, hg]

end Sys2Proof.Machine
end

