-- ==== Sys2Proof/Laws/Trap.lean ====
section
/-! SUPPORT. What the end of a team and the taking of a trap do to the teams: an ended team is gone; a trap enters the handler, waits, or ends the team; no
trap retires its instruction. -/

namespace Sys2Proof.Machine

/-! ## What leaves the list of teams as it is -/

/-- The list of teams, replaced. -/
@[simp] theorem State.setTeams_teams (s : State) (ts : List Team) : (s.setTeams ts).hm.teams = ts := rfl

/-- A change of a task. -/
@[simp] theorem State.modTask_teams (s : State) (id : Nat) (f : Task → Task) : (s.modTask id f).hm.teams = s.hm.teams := rfl

/-- A change of a block. -/
@[simp] theorem State.modBlock_teams (s : State) (id : Nat) (f : Block → Block) : (s.modBlock id f).hm.teams = s.hm.teams := rfl

/-- A request for a translation. -/
theorem State.atsAsk_teams (s : State) (page : Nat) : (s.atsAsk page).hm.teams = s.hm.teams := by
  simp only [State.atsAsk]
  split <;> rfl

/-- A posted write. -/
theorem State.apWrite_teams (s : State) (own : ApOwner) (pa : Nat) (data : List Byte) : (s.apWrite own pa data).hm.teams = s.hm.teams := by
  simp only [State.apWrite]
  split
  · simp
  · split
    · simp
    · rw [State.atsAsk_teams]; simp

/-- Posted writes. -/
theorem State.apWrites_teams (s : State) (own : ApOwner) (bs : List Host.Cell) : (s.apWrites own bs).hm.teams = s.hm.teams := by
  have h : ∀ (l : List (Nat × List Byte)) (s : State), (l.foldl (fun s r => s.apWrite own r.1 r.2) s).hm.teams = s.hm.teams := by
    intro l
    induction l with
    | nil => intro _; rfl
    | cons r l ih => intro s; simp only [List.foldl_cons]; rw [ih, State.apWrite_teams]
  exact h _ _

/-- The state after the attempt to write a completion entry. -/
def CplGot.state (s : State) : CplGot → State
  | .written t => t
  | .fail => s
  | .wait t => t

/-- A completion entry. -/
theorem State.cplPut_teams (s : State) (a : Nat) (e : Kept) : ((s.cplPut a e).state s).hm.teams = s.hm.teams := by
  have hw (t : State) (f : Area → Area) : (CplGot.state s (.written (t.modArea a f))).hm.teams = t.hm.teams := rfl
  simp only [State.cplPut]
  split
  · rfl
  · split
    · rw [hw, State.homeWrite_hm, State.hmWalked_hm]
    · split
      · rfl
      · split
        · rw [hw, State.apWrite_teams, State.hmWalked_hm]
        · exact State.atsAsk_teams _ _

/-- The kept completion entries. -/
theorem State.cplDrain_teams (a : Nat) (l : List Kept) : ∀ s : State, (s.cplDrain a l).hm.teams = s.hm.teams := by
  induction l with
  | nil => intro s; simp [State.cplDrain]
  | cons e r ih =>
    intro s
    have h := s.cplPut_teams a e
    simp only [State.cplDrain]
    split
    · simp
    · cases hp : s.cplPut a e with
      | written t => rw [hp] at h; simp only [ih]; exact h
      | fail => simp
      | wait t => rw [hp] at h; simpa [CplGot.state] using h

/-- A finished completion. -/
theorem State.cplFinish_teams (s : State) (a : Nat) (e : Kept) : (s.cplFinish a e).hm.teams = s.hm.teams := State.cplDrain_teams _ _ _

/-- The join of a task. -/
theorem State.joinUpdate_teams (s : State) (t : Task) : (s.joinUpdate t).hm.teams = s.hm.teams := by
  simp only [State.joinUpdate]
  split
  · rfl
  · split
    · split
      · simp
      · split <;> simp
    · simp

/-- The end of a lease. -/
theorem State.settleLease_teams (s : State) (a id : Nat) : (s.settleLease a id).hm.teams = s.hm.teams := by
  simp only [State.settleLease]
  split
  · rfl
  · split
    · rfl
    · split
      · rfl
      · split <;> rfl

/-- The end of a task. -/
theorem State.taskEnd_teams (s : State) (id status cause : Nat) : (s.taskEnd id status cause).hm.teams = s.hm.teams := by
  simp only [State.taskEnd]
  split
  · rfl
  · rw [State.settleLease_teams]
    split
    · simp [State.joinUpdate_teams]
    · simp [State.cplFinish_teams, State.joinUpdate_teams]

/-- The settling of a task. -/
theorem State.settleTask_teams (s : State) (id : Nat) : (s.settleTask id).hm.teams = s.hm.teams := by
  simp only [State.settleTask]
  split
  · rfl
  · split
    · rfl
    · split <;> simp [State.taskEnd_teams]

/-- The settling of barriers. -/
theorem State.settleBarriers_teams (s : State) (b : Nat) : (s.settleBarriers b).hm.teams = s.hm.teams := by
  simp only [State.settleBarriers]
  split
  · rfl
  · split
    · rfl
    · simp

/-! ## The end of a team -/

/-- The teams after one of them has ended. -/
theorem State.endTeam_teams (s : State) (n : Nat) (how : TeamEnd) (t : Team) (h : s.team? n = some t) :
    (s.endTeam n how).hm.teams = s.hm.teams.filter fun x => x.num != n := by
  simp only [State.endTeam, h, State.settleTask_teams]
  split <;> split
  all_goals
    show (State.settleBarriers _ _).hm.teams = _
    rw [State.settleBarriers_teams]
    first
      | rfl
      | exact congrArg (List.filter fun x => x.num != n) (by simp)

/-- An ended team is gone. -/
theorem State.endTeam_gone (s : State) (n : Nat) (how : TeamEnd) : (s.endTeam n how).team? n = none := by
  cases h : s.team? n with
  | none => simp [State.endTeam, h]
  | some t =>
    rw [State.team?, State.endTeam_teams s n how t h, List.find?_eq_none]
    intro x hx
    rw [List.mem_filter] at hx
    simpa using hx.2

/-! ## Traps -/

/-- The teams are those of the state when a warp gives up its port. -/
theorem State.releasePort_teams (s : State) (w : WarpId) : (s.releasePort w).hm.teams = s.hm.teams := by simp [State.releasePort]

/-- A delivered trap: the team ends when it has no handler or is inside it, else its warp enters the handler (R216, R217). -/
theorem State.deliverTrap_cases (s : State) (w : WarpId) (i : TrapInfo) (x : Warp) (h : s.warp? w = some x) :
    (s.deliverTrap w i).team? w.team = none ∨ (s.deliverTrap w i).warp? w = some (x.enterHandler w.access (s.traph w.team) i) := by
  simp only [State.deliverTrap, h]
  split
  · exact .inl (State.endTeam_gone _ _ _)
  · right
    apply State.warp?_setWarp_same (x := x)
    rw [State.warp?_releasePort, h]

/-- A delivered trap with a handler, outside it. -/
theorem State.deliverTrap_enters {s : State} {w : WarpId} {x : Warp} (i : TrapInfo) (h : s.warp? w = some x) (ht : s.traph w.team ≠ 0) (hi : x.inHandler = false) :
    s.deliverTrap w i = (s.releasePort w).setWarp w (x.enterHandler w.access (s.traph w.team) i) := by
  simp [State.deliverTrap, h, ht, hi]

/-- A raised trap leaves the count of instructions retired as it was, or the team is gone. -/
theorem State.raise_retired (s : State) (w : WarpId) (q : TrapReq) (x y : Warp) (h : s.warp? w = some x) (hy : (s.raise w q).warp? w = some y) :
    y.retired = x.retired := by
  simp only [State.raise, h, State.raiseInfo] at hy
  split at hy
  · rcases State.deliverTrap_cases s w (x.trapInfo q) x h with h1 | h1
    · rw [State.warp?_eq, h1] at hy
      simp at hy
    · rw [h1] at hy
      simp only [Option.some.injEq] at hy
      rw [← hy]
      rfl
  · rw [State.warp?_modWarp_same (x := x) (by rw [State.warp?_releasePort, h])] at hy
    simp only [Option.some.injEq] at hy
    rw [← hy]

/-- A stall leaves the count as it was. -/
theorem State.stall_retired (s : State) (w : WarpId) (k : Stall) (x y : Warp) (h : s.warp? w = some x) (hy : (s.stallWarp w k).warp? w = some y) :
    y.retired = x.retired := by
  simp only [State.stallWarp] at hy
  rw [State.warp?_modWarp_same (x := x) h] at hy
  simp only [Option.some.injEq] at hy
  rw [← hy]

/-- An instruction that has retired neither trapped nor stalled. -/
theorem State.conclude_retired {s t : State} {c : Ctx} {r : Except Stop State} (h : s.warp? c.w = some c.x) (ht : s.conclude c.w r = t)
    (hr : ∃ y, t.warp? c.w = some y ∧ y.retired = c.x.retired + 1) : r = .ok t := by
  obtain ⟨y, hy, hc⟩ := hr
  have hne : c.x.retired + 1 ≠ c.x.retired := by simp
  match r, ht with
  | .ok _, ht => exact congrArg _ ht
  | .error (.trap q), ht =>
    subst ht
    exact absurd (hc.symm.trans (State.raise_retired s c.w q c.x y h hy)) hne
  | .error (.stall k), ht =>
    subst ht
    exact absurd (hc.symm.trans (State.stall_retired s c.w k c.x y h hy)) hne

end Sys2Proof.Machine
end

