-- ==== Sys2Proof/Tests/Slice0.lean ====
section
/-! SUPPORT. Tests: ill-formed terms refused, words of the spec decoded, one step on small states, and a witness for the hypotheses of every statement. -/

namespace Sys2Proof.Machine

set_option Elab.async false


/-! ## Small states -/

/-- The access warp and the execute warp of the one team of a test. -/
def aw : WarpId := { team := 1, idx := 0 }
/-- The execute warp. -/
def xw : WarpId := { team := 1, idx := 1 }

/-- No predicate. -/
def g0 : Guard := { p := 0, neg := false }
/-- Predicate 1, which no lane passes. -/
def g1 : Guard := { p := 1, neg := false }
/-- Predicate 2, which only the lower sixteen lanes pass. -/
def g2 : Guard := { p := 2, neg := false }

/-- A field of a warp word. -/
def fv (n : Nat) : Fld := BitVec.ofNat 11 n
/-- Queue n. -/
def fq (n : Nat) : Fld := BitVec.ofNat 11 (1536 + n)
/-- k register n. -/
def fk (n : Nat) : Fld := BitVec.ofNat 11 (1664 + n)
/-- Predicate n. -/
def fp (n : Nat) : Fld := BitVec.ofNat 11 (1728 + n)
/-- The field `zero`. -/
def fz : Fld := 1736

/-- Queues of a test: a forward queue with two entries and a return queue of the execute warp, and the Lighter's, the Pilot's, the copy engine's and the decoder's queues. -/
def testQueues : List Queue :=
  let q (d : Dir) (p : Nat) : Queue := { depth := 8, dir := d, producer := p, owner := 0, head := 0, gens := List.replicate 8 0, entries := [] }
  [{ q .forward 0 with entries := [Entry.ready 5, Entry.ready 6] }, q .ret 0, q .engine 0, q .engine 2, q .engine 4, q .engine 1]

/-- A k register of a warp set. -/
def Warp.withK (x : Warp) (n v : Nat) : Warp := { x with k := vset x.k n (word v) }
/-- A v register of a warp set in every lane. -/
def Warp.withV (x : Warp) (n v : Nat) : Warp := { x with v := x.v.modify n fun r => { r with data := ofLanes fun _ => v, uninit := 0 } }

/-- The device running with one team that has the queues; both warps hold small values. -/
def base : State :=
  let s := State.reset.withTeam
  let s := s.modTeam 1 fun t => { t with queues := testQueues }
  let ks : List Task := s.hm.tasks.map fun k => { k with launch := { k.launch with demand := [(0x40000, 0x40000)] } }
  let bs : List Block := s.hm.blocks.map fun b => { b with shm := 4 }
  let s : State := { s with hm := { s.hm with tasks := ks, blocks := bs } }
  let regs (x : Warp) : Warp := ((((x.withK 1 7).withK 2 3).withK 3 0x100).withK 4 1)
  let s := s.modWarp xw fun x =>
    { (((regs x).withV 1 7).withV 2 3) with p := vset (vset x.p 1 0) 2 0xffff }
  s.modWarp aw fun x => { regs x with p := vset (vset x.p 1 0) 2 0xffff, a := vset (vset x.a 1 (ofLanes fun t => 0x40000 + 8 * t)) 2 (ofLanes fun t => t) }

/-- A warp current in an open clause. -/
def State.on (s : State) (w : WarpId) (cls count : Nat) : State :=
  { s.modWarp w (fun x => { x with clause := some { cls := cls, count := count } }) with cur := some (.warp w) }

/-- The execute warp current in a vector clause of two words. -/
def sx : State := base.on xw 0 2
/-- The execute warp at the last word of its clause. -/
def sl : State := base.on xw 0 1
/-- The access warp current in a clause of two words. -/
def sa : State := base.on aw 2 2
/-- The access warp at the last word of its clause. -/
def sal : State := base.on aw 2 1

/-- A launch with a trap handler at offset 0x40. -/
def sh : State := { sx with hm := { sx.hm with tasks := sx.hm.tasks.map fun k => { k with launch := { k.launch with traph := 0x40 } } } }
/-- A long-latency instruction of the execute warp has not completed. -/
def sbusy : State := sx.modWarp xw fun x => { x with window := [{ tok := 9, done := false, left := none, load := false, grid := false }] }

/-- What holds of the context of a state holds of a context. -/
theorem ctx_with {s : State} {p : Ctx → Prop} [DecidablePred p] (h : (s.ctx?.elim false fun c => decide (p c)) = true) :
    ∃ c, s.ctx? = some c ∧ p c := by
  cases hc : s.ctx? with
  | none => simp [hc] at h
  | some c => exact ⟨c, rfl, by simpa [hc] using h⟩


/-! ## Ill-formed terms, one for each check -/

/-- A two-source word of a type. -/
def iw2 (ty : BitVec 4) (uni : Bool) (cc : BitVec 2) : Alu2 := { ty := ty, d := 1664, a := 1665, b := 1666, cc := cc, g := g0, uni := uni }
/-- A three-source word of a type. -/
def iw3 (ty : BitVec 4) (uni : Bool) : Alu3 := { ty := ty, d := 1664, a := 1665, b := 1666, c := 1667, cc := 0, g := g0, uni := uni }
/-- A one-source word of a type. -/
def iw1 (ty : BitVec 4) (uni : Bool) : Alu1 := { ty := ty, d := 1664, a := 1665, cc := 0, g := g0, uni := uni }
/-- A memory word. -/
def fm (ty scope : Nat) (order op tw : BitVec 3) (sh : Bool) : MemF :=
  { ty := BitVec.ofNat 4 ty, d := 1, scope := BitVec.ofNat 2 scope, order := order, off := 0, b := 0, la := 0, sh := sh, op := op, tw := tw, g := g0 }

/-- Uniform words: the uniform bit and a type; no consumer count; integer types (R263, R264, R290). -/
theorem test_wf_uniform : [Instr.kmov (iw1 13 false), .kmov (iw1 10 true), .kmovi { ty := 8, d := 1664, imm := 0, cc := 0, g := g0, uni := true }, .kadd (iw2 7 false 0), .kadd (iw2 7 true 1), .kadd (iw2 13 true 0),
    .kand (iw2 10 true 0), .kmad (iw3 13 true), .ksel (iw3 9 true), .kcmp { ty := 7, d := 1729, a := 1665, b := 1666, any := true, cond := 0, cc := 0, g := g0, uni := true },
    .kcmp { ty := 7, d := 1729, a := 1665, b := 1666, any := false, cond := 6, cc := 0, g := g0, uni := true }, .kclz (iw1 13 true)].all (fun i => !i.wf) = true := by decide

/-- Vector words: the types of each, the conditions of comparisons, class masks, group sizes and parts (R261, R292 to R319). -/
theorem test_wf_vector : [Instr.vadd (iw2 8 false 0), .vmad (iw3 13 false), .vabs (iw1 9 false), .vand (iw2 8 false 0), .vnot (iw1 10 false), .vsel (iw3 11 false), .vmov (iw1 14 false),
    .vcmp { ty := 7, d := 1729, a := 1, b := 2, any := false, cond := 6, cc := 0, g := g0, uni := false }, .vcmp { ty := 7, d := 1, a := 1, b := 2, any := true, cond := 0, cc := 0, g := g0, uni := false },
    .vmovi { ty := 10, d := 1, imm := 0, cc := 0, g := g0, uni := false }, .rgrow { d := 1729, a := 48, g := g0 }, .rshrink { d := 1729, a := 0, g := g0 }, .vfadd (iw2 7 false 0), .vfma (iw3 11 false),
    .vfneg (iw1 13 false), .vfcmp { ty := 3, d := 1, a := 1, b := 2, any := false, cond := 7, cc := 0, g := g0, uni := false }, .vfclass { ty := 8, d := 1729, a := 1, any := false, mask := 0, cc := 0, g := g0, uni := false },
    .vfclass { ty := 8, d := 1, a := 1, any := false, mask := 1, cc := 0, g := g0, uni := false }, .vfrcp { ty := 0, d := 1, a := 2, la := 0, cc := 0, g := g0 }, .vfdiv { ty := 12, d := 1, a := 2, b := 3, la := 0, cc := 0, g := g0 },
    .vcvt { ty := 10, d := 1, a := 2, part := 1, la := 0, sf := false, rm := 0, st := 10, cc := 0, g := g0 }, .vcvt { ty := 3, d := 1, a := 2, part := 0, la := 0, sf := true, rm := 0, st := 10, cc := 0, g := g0 },
    .vcvti { ty := 8, d := 1, a := 2, sat := false, part := 0, st := 3, cc := 0, g := g0 }, .vcvtf { ty := 10, d := 1, a := 2, part := 8, rm := 0, st := 11, cc := 0, g := g0 }, .vqnt { ty := 7, d := 1, a := 2, b := 3, la := 0, part := 0, st := 10, cc := 0, g := g0 },
    .vdqnt { ty := 10, d := 1, a := 2, b := 3, part := 0, st := 10, cc := 0, g := g0 }, .vshfl { ty := 2, d := 1, a := 2, b := 3, pe := false, pn := 1, gs := 4, cc := 0, g := g0 },
    .vshfl { ty := 2, d := 1, a := 2, b := 3, pe := false, pn := 0, gs := 7, cc := 0, g := g0 }, .vbcast { ty := 2, d := 1, a := 2, pos := 16, gs := 4, cc := 0, g := g0 }, .vperm (iw3 7 false), .vpack (iw1 14 false), .vunpk (iw1 7 true),
    .vred { ty := 10, d := 1, a := 2, ex := false, op := 3, gs := 1, cc := 0, g := g0 }, .vred { ty := 7, d := 1, a := 2, ex := false, op := 6, gs := 1, cc := 0, g := g0 }, .vscan { ty := 13, d := 1, a := 2, ex := true, op := 0, gs := 1, cc := 0, g := g0 },
    .vtopk { ty := 13, d := 1, a := 2, k := 1, lo := false, gs := 1, cc := 0, g := g0 }, .vballot (iw1 7 false), .vmatch (iw1 13 true)].all (fun i => !i.wf) = true := by decide

/-- Matrix, memory, barrier, system and engine words (R342 to R376). -/
theorem test_wf_access : [Instr.mcvt { ty := 11, d := 1, n := 0, la := 0, sf := false, rm := 0, cc := 0, g := g0 }, .mcvt { ty := 7, d := 1, n := 0, la := 0, sf := true, rm := 0, cc := 0, g := g0 },
    .mrmask { d := 1729, a := 1, off := 2, g := g0 }, .lda (fm 11 0 0 0 0 false), .ldq (fm 7 1 0 0 0 false), .sta (fm 7 0 1 0 0 false), .stq (fm 7 0 0 1 0 false), .lds (fm 7 0 0 0 1 false), .sts (fm 7 0 0 0 0 true),
    .ldacq (fm 7 0 1 0 0 false), .strel (fm 7 0 0 0 1 true), .atom (fm 7 0 5 0 0 false), .atomq (fm 10 0 0 3 0 false), .redl2 (fm 7 0 0 6 0 false), .gatl2 (fm 3 0 0 0 0 false), .mcast (fm 1 0 0 0 0 false),
    .pref { fm 0 0 0 0 0 false with d := 0, la := 1 }, .cflushL1 { fm 0 0 0 1 0 false with d := 0 }, .cflushL2 { fm 0 0 0 2 0 false with d := 0 }, .fence { scope := 0, order := 0, g := g0 }, .bara { d := 1, err := false, n := 0, g := g0 },
    .barw { d := 1729, err := true, n := 0, g := g0 }, .ewait { d := 1664, a := 1665, e := 5, g := g0 }, .sysr { d := 1664, n := 0, w := 4, g := g0 }, .sysw { a := 1664, n := 0, w := 6, g := g0 },
    .push { d := 1729, a := 1664, la := 0, e := 4, g := g0 }, .push { d := 1729, a := 1664, la := 0, e := 7, g := g0 }, .spawn { d := 1729, a := 1664, la := 0, e := 1, g := g0 }, .xput 0 0 0 0, .xput 0 0 0 129].all (fun i => !i.wf) = true := by decide

/-- Words that the decoder refuses by name: a header, a reserved opcode, type 14, a consumer count on a k register, a uniform bit where none may stand (R255, R261 to R268). -/
theorem test_refused_words : (decodeWord 0xf000000000000000).toOption = none ∧ (decodeWord (word (0x00f * 2 ^ 55))).toOption = none ∧ (decodeWord (word (0x040 * 2 ^ 55 + 14 * 2 ^ 51))).toOption = none ∧
    (decodeWord (word (0x022 * 2 ^ 55 + 1664 * 2 ^ 40 + 32 + 1))).toOption = none ∧ (decodeWord (word (0x0e5 * 2 ^ 55 + 1))).toOption = none := by decide +kernel

/-! ## Decoding: words written from the spec's tables -/

/-- The fields of Table 9.2 at their bits, with predicate 5 negated. -/
def w9 (op ty d a b c cc uni : Nat) : Word :=
  word (op * 2 ^ 55 + ty * 2 ^ 51 + d * 2 ^ 40 + a * 2 ^ 29 + b * 2 ^ 18 + c * 2 ^ 7 + cc * 2 ^ 5 + 5 * 2 ^ 2 + 1 * 2 + uni)

/-- Control words (Table 10.1). -/
theorem test_decode_control :
    (decodeWord (w9 0x000 0 0 0 0 0 0 0 + 2 ^ 40 + (2 ^ 33 - 3) * 2 ^ 7)).toOption = some (.bra { all := true, disp := BitVec.ofInt 33 (-3), g := ⟨5, true⟩ }) ∧
    (decodeWord (w9 0x001 0 0 0 0 0 0 0 + (2 ^ 22 - 2) * 2 ^ 29 + 8 * 2 ^ 7)).toOption = some (.brc { tdisp := BitVec.ofInt 22 (-2), jdisp := 8, g := ⟨5, true⟩ }) ∧
    (decodeWord (w9 0x002 0 0 0 0 0 0 0 + 9 * 2 ^ 7)).toOption = some (.call { all := false, disp := 9, g := ⟨5, true⟩ }) ∧
    (decodeWord (w9 0x003 0 0 0 0 0 0 0)).toOption = some (.ret ⟨5, true⟩) ∧
    (decodeWord (w9 0x004 0 0 1670 0 0 0 0 + 2 ^ 40)).toOption = some (.jmpi { all := true, a := 1670, g := ⟨5, true⟩ }) ∧
    (decodeWord (w9 0x005 0 1669 0 0 0 0 0 + 77 * 2 ^ 7)).toOption = some (.loop { d := 1669, disp := 77, g := ⟨5, true⟩ }) ∧
    (decodeWord (w9 0x006 0 0 0 0 0 0 0)).toOption = some (.exit ⟨5, true⟩) ∧
    (decodeWord (w9 0x007 0 0 0 0 0 0 0)).toOption = some (.yield ⟨5, true⟩) ∧
    (decodeWord (w9 0x008 0 0 0 0 0 0 0)).toOption = some (.spin ⟨5, true⟩) ∧
    (decodeWord (w9 0x009 0 0 0 0 0 0 0)).toOption = some (.reconv ⟨5, true⟩) ∧
    (decodeWord (w9 0x00a 0 0 0 0 0 0 0)).toOption = some (.nop ⟨5, true⟩) ∧
    (decodeWord (0x00b * 2 ^ 55 + 63 * 2 ^ 49 + 1 * 2 ^ 41 + 255 * 2 ^ 33 + 3 * 2 ^ 25 + 128 * 2 ^ 17)).toOption = some (.rep { n := 63, sd := 1, sa := 255, sb := 3, sc := 128 }) ∧
    (decodeWord (w9 0x00c 0 0 0 0 2047 0 0)).toOption = some (.trap { n := 2047, g := ⟨5, true⟩ }) ∧
    (decodeWord (w9 0x00d 0 0 0 0 1 0 0)).toOption = some (.bpt { n := 1, g := ⟨5, true⟩ }) ∧
    (decodeWord (w9 0x00e 0 0 0 0 0 0 0)).toOption = some (.eret ⟨5, true⟩) := by
  decide +kernel

/-- Uniform scalar words (Table 9.7, R290 to R292). -/
theorem test_decode_uniform :
    (decodeWord (w9 0x020 13 1669 1670 0 0 0 1)).toOption = some (.kmov { ty := 13, d := 1669, a := 1670, cc := 0, g := ⟨5, true⟩, uni := true }) ∧
    (decodeWord (w9 0x021 3 1669 0 0 0 0 1 + (2 ^ 33 - 7) * 2 ^ 7)).toOption = some (.kmovi { ty := 3, d := 1669, imm := BitVec.ofInt 33 (-7), cc := 0, g := ⟨5, true⟩, uni := true }) ∧
    (decodeWord (w9 0x022 7 1669 1670 1671 0 0 1)).toOption = some (.kadd { ty := 7, d := 1669, a := 1670, b := 1671, cc := 0, g := ⟨5, true⟩, uni := true }) ∧
    (decodeWord (w9 0x023 7 1669 1670 1671 0 0 1)).toOption = some (.ksub { ty := 7, d := 1669, a := 1670, b := 1671, cc := 0, g := ⟨5, true⟩, uni := true }) ∧
    (decodeWord (w9 0x024 7 1669 1670 1671 0 0 1)).toOption = some (.kmul { ty := 7, d := 1669, a := 1670, b := 1671, cc := 0, g := ⟨5, true⟩, uni := true }) ∧
    (decodeWord (w9 0x026 7 1669 1670 1671 0 0 1)).toOption = some (.kdiv { ty := 7, d := 1669, a := 1670, b := 1671, cc := 0, g := ⟨5, true⟩, uni := true }) ∧
    (decodeWord (w9 0x027 7 1669 1670 1671 0 0 1)).toOption = some (.kmod { ty := 7, d := 1669, a := 1670, b := 1671, cc := 0, g := ⟨5, true⟩, uni := true }) ∧
    (decodeWord (w9 0x028 7 1669 1670 1671 0 0 1)).toOption = some (.kand { ty := 7, d := 1669, a := 1670, b := 1671, cc := 0, g := ⟨5, true⟩, uni := true }) ∧
    (decodeWord (w9 0x029 7 1669 1670 1671 0 0 1)).toOption = some (.kor { ty := 7, d := 1669, a := 1670, b := 1671, cc := 0, g := ⟨5, true⟩, uni := true }) ∧
    (decodeWord (w9 0x02a 7 1669 1670 1671 0 0 1)).toOption = some (.kxor { ty := 7, d := 1669, a := 1670, b := 1671, cc := 0, g := ⟨5, true⟩, uni := true }) ∧
    (decodeWord (w9 0x02b 7 1669 1670 1671 0 0 1)).toOption = some (.kshl { ty := 7, d := 1669, a := 1670, b := 1671, cc := 0, g := ⟨5, true⟩, uni := true }) ∧
    (decodeWord (w9 0x02c 7 1669 1670 1671 0 0 1)).toOption = some (.kshr { ty := 7, d := 1669, a := 1670, b := 1671, cc := 0, g := ⟨5, true⟩, uni := true }) ∧
    (decodeWord (w9 0x02d 7 1669 1670 1671 0 0 1)).toOption = some (.ksar { ty := 7, d := 1669, a := 1670, b := 1671, cc := 0, g := ⟨5, true⟩, uni := true }) ∧
    (decodeWord (w9 0x030 7 1669 1670 1671 0 0 1)).toOption = some (.kmin { ty := 7, d := 1669, a := 1670, b := 1671, cc := 0, g := ⟨5, true⟩, uni := true }) ∧
    (decodeWord (w9 0x031 7 1669 1670 1671 0 0 1)).toOption = some (.kmax { ty := 7, d := 1669, a := 1670, b := 1671, cc := 0, g := ⟨5, true⟩, uni := true }) ∧
    (decodeWord (w9 0x025 3 1669 1670 1671 1672 0 1)).toOption = some (.kmad { ty := 3, d := 1669, a := 1670, b := 1671, c := 1672, cc := 0, g := ⟨5, true⟩, uni := true }) ∧
    (decodeWord (w9 0x02f 3 1669 1670 1671 1672 0 1)).toOption = some (.ksel { ty := 3, d := 1669, a := 1670, b := 1671, c := 1672, cc := 0, g := ⟨5, true⟩, uni := true }) ∧
    (decodeWord (w9 0x02e 7 1729 1670 1671 5 0 1)).toOption = some (.kcmp { ty := 7, d := 1729, a := 1670, b := 1671, any := false, cond := 5, cc := 0, g := ⟨5, true⟩, uni := true }) ∧
    (decodeWord (w9 0x032 6 1669 1670 0 0 0 1)).toOption = some (.kclz { ty := 6, d := 1669, a := 1670, cc := 0, g := ⟨5, true⟩, uni := true }) ∧
    (decodeWord (w9 0x033 6 1669 1670 0 0 0 1)).toOption = some (.kpopc { ty := 6, d := 1669, a := 1670, cc := 0, g := ⟨5, true⟩, uni := true }) := by
  decide +kernel

/-- Vector integer words (Table 9.7, R291 to R294). -/
theorem test_decode_vectorInteger :
    (decodeWord (w9 0x040 6 40 41 42 0 3 0)).toOption = some (.vadd { ty := 6, d := 40, a := 41, b := 42, cc := 3, g := ⟨5, true⟩, uni := false }) ∧
    (decodeWord (w9 0x041 6 40 41 42 0 3 0)).toOption = some (.vsub { ty := 6, d := 40, a := 41, b := 42, cc := 3, g := ⟨5, true⟩, uni := false }) ∧
    (decodeWord (w9 0x042 6 40 41 42 0 3 0)).toOption = some (.vmul { ty := 6, d := 40, a := 41, b := 42, cc := 3, g := ⟨5, true⟩, uni := false }) ∧
    (decodeWord (w9 0x043 6 40 41 42 0 3 0)).toOption = some (.vmulh { ty := 6, d := 40, a := 41, b := 42, cc := 3, g := ⟨5, true⟩, uni := false }) ∧
    (decodeWord (w9 0x045 6 40 41 42 0 3 0)).toOption = some (.vdiv { ty := 6, d := 40, a := 41, b := 42, cc := 3, g := ⟨5, true⟩, uni := false }) ∧
    (decodeWord (w9 0x046 6 40 41 42 0 3 0)).toOption = some (.vadds { ty := 6, d := 40, a := 41, b := 42, cc := 3, g := ⟨5, true⟩, uni := false }) ∧
    (decodeWord (w9 0x047 6 40 41 42 0 3 0)).toOption = some (.vsubs { ty := 6, d := 40, a := 41, b := 42, cc := 3, g := ⟨5, true⟩, uni := false }) ∧
    (decodeWord (w9 0x048 6 40 41 42 0 3 0)).toOption = some (.vmin { ty := 6, d := 40, a := 41, b := 42, cc := 3, g := ⟨5, true⟩, uni := false }) ∧
    (decodeWord (w9 0x049 6 40 41 42 0 3 0)).toOption = some (.vmax { ty := 6, d := 40, a := 41, b := 42, cc := 3, g := ⟨5, true⟩, uni := false }) ∧
    (decodeWord (w9 0x04c 6 40 41 42 0 3 0)).toOption = some (.vand { ty := 6, d := 40, a := 41, b := 42, cc := 3, g := ⟨5, true⟩, uni := false }) ∧
    (decodeWord (w9 0x04d 6 40 41 42 0 3 0)).toOption = some (.vor { ty := 6, d := 40, a := 41, b := 42, cc := 3, g := ⟨5, true⟩, uni := false }) ∧
    (decodeWord (w9 0x04e 6 40 41 42 0 3 0)).toOption = some (.vxor { ty := 6, d := 40, a := 41, b := 42, cc := 3, g := ⟨5, true⟩, uni := false }) ∧
    (decodeWord (w9 0x050 6 40 41 42 0 3 0)).toOption = some (.vshl { ty := 6, d := 40, a := 41, b := 42, cc := 3, g := ⟨5, true⟩, uni := false }) ∧
    (decodeWord (w9 0x051 6 40 41 42 0 3 0)).toOption = some (.vshr { ty := 6, d := 40, a := 41, b := 42, cc := 3, g := ⟨5, true⟩, uni := false }) ∧
    (decodeWord (w9 0x052 6 40 41 42 0 3 0)).toOption = some (.vsar { ty := 6, d := 40, a := 41, b := 42, cc := 3, g := ⟨5, true⟩, uni := false }) ∧
    (decodeWord (w9 0x053 6 40 41 42 0 3 0)).toOption = some (.vrot { ty := 6, d := 40, a := 41, b := 42, cc := 3, g := ⟨5, true⟩, uni := false }) ∧
    (decodeWord (w9 0x044 1 40 41 42 43 1 0)).toOption = some (.vmad { ty := 1, d := 40, a := 41, b := 42, c := 43, cc := 1, g := ⟨5, true⟩, uni := false }) ∧
    (decodeWord (w9 0x057 1 40 41 42 43 1 0)).toOption = some (.vsel { ty := 1, d := 40, a := 41, b := 42, c := 43, cc := 1, g := ⟨5, true⟩, uni := false }) ∧
    (decodeWord (w9 0x04a 2 40 41 0 0 2 0)).toOption = some (.vabs { ty := 2, d := 40, a := 41, cc := 2, g := ⟨5, true⟩, uni := false }) ∧
    (decodeWord (w9 0x04b 2 40 41 0 0 2 0)).toOption = some (.vneg { ty := 2, d := 40, a := 41, cc := 2, g := ⟨5, true⟩, uni := false }) ∧
    (decodeWord (w9 0x04f 2 40 41 0 0 2 0)).toOption = some (.vnot { ty := 2, d := 40, a := 41, cc := 2, g := ⟨5, true⟩, uni := false }) ∧
    (decodeWord (w9 0x054 2 40 41 0 0 2 0)).toOption = some (.vclz { ty := 2, d := 40, a := 41, cc := 2, g := ⟨5, true⟩, uni := false }) ∧
    (decodeWord (w9 0x055 2 40 41 0 0 2 0)).toOption = some (.vpopc { ty := 2, d := 40, a := 41, cc := 2, g := ⟨5, true⟩, uni := false }) ∧
    (decodeWord (w9 0x058 2 40 41 0 0 2 0)).toOption = some (.vmov { ty := 2, d := 40, a := 41, cc := 2, g := ⟨5, true⟩, uni := false }) ∧
    (decodeWord (w9 0x056 2 1729 41 42 12 0 0)).toOption = some (.vcmp { ty := 2, d := 1729, a := 41, b := 42, any := true, cond := 4, cc := 0, g := ⟨5, true⟩, uni := false }) ∧
    (decodeWord (w9 0x059 5 40 0 0 0 1 0 + 513 * 2 ^ 7)).toOption = some (.vmovi { ty := 5, d := 40, imm := 513, cc := 1, g := ⟨5, true⟩, uni := false }) := by
  decide +kernel

/-- Register management (Table 10.5). -/
theorem test_decode_registers :
    (decodeWord (w9 0x060 0 0 41 255 1 0 0)).toOption = some (.rgn { a := 41, count := 255, new := true, g := ⟨5, true⟩ }) ∧
    (decodeWord (w9 0x061 0 1729 47 0 0 0 0)).toOption = some (.rgrow { d := 1729, a := 47, g := ⟨5, true⟩ }) ∧
    (decodeWord (w9 0x062 0 1736 1 0 0 0 0)).toOption = some (.rshrink { d := 1736, a := 1, g := ⟨5, true⟩ }) ∧
    (decodeWord (w9 0x063 0 40 41 0 0 2 0)).toOption = some (.vmovx { d := 40, a := 41, cc := 2, g := ⟨5, true⟩ }) ∧
    (decodeWord (w9 0x064 0 0 41 42 0 0 0)).toOption = some (.vstx { a := 41, b := 42, g := ⟨5, true⟩ }) ∧
    (decodeWord (w9 0x065 0 0 41 128 0 0 0)).toOption = some (.rkill { a := 41, count := 128, g := ⟨5, true⟩ }) := by
  decide +kernel

/-- Vector floating-point words (Tables 9.3 and 9.7, R303 to R305). -/
theorem test_decode_vectorFloat :
    (decodeWord (w9 0x080 9 40 41 42 0 3 0)).toOption = some (.vfadd { ty := 9, d := 40, a := 41, b := 42, cc := 3, g := ⟨5, true⟩, uni := false }) ∧
    (decodeWord (w9 0x081 9 40 41 42 0 3 0)).toOption = some (.vfsub { ty := 9, d := 40, a := 41, b := 42, cc := 3, g := ⟨5, true⟩, uni := false }) ∧
    (decodeWord (w9 0x082 9 40 41 42 0 3 0)).toOption = some (.vfmul { ty := 9, d := 40, a := 41, b := 42, cc := 3, g := ⟨5, true⟩, uni := false }) ∧
    (decodeWord (w9 0x086 9 40 41 42 0 3 0)).toOption = some (.vfmin { ty := 9, d := 40, a := 41, b := 42, cc := 3, g := ⟨5, true⟩, uni := false }) ∧
    (decodeWord (w9 0x087 9 40 41 42 0 3 0)).toOption = some (.vfmax { ty := 9, d := 40, a := 41, b := 42, cc := 3, g := ⟨5, true⟩, uni := false }) ∧
    (decodeWord (w9 0x083 8 40 41 42 43 1 0)).toOption = some (.vfma { ty := 8, d := 40, a := 41, b := 42, c := 43, cc := 1, g := ⟨5, true⟩, uni := false }) ∧
    (decodeWord (w9 0x084 8 40 41 42 43 1 0)).toOption = some (.vfms { ty := 8, d := 40, a := 41, b := 42, c := 43, cc := 1, g := ⟨5, true⟩, uni := false }) ∧
    (decodeWord (w9 0x085 8 40 41 42 43 1 0)).toOption = some (.vfnma { ty := 8, d := 40, a := 41, b := 42, c := 43, cc := 1, g := ⟨5, true⟩, uni := false }) ∧
    (decodeWord (w9 0x088 10 40 41 0 0 2 0)).toOption = some (.vfabs { ty := 10, d := 40, a := 41, cc := 2, g := ⟨5, true⟩, uni := false }) ∧
    (decodeWord (w9 0x089 10 40 41 0 0 2 0)).toOption = some (.vfneg { ty := 10, d := 40, a := 41, cc := 2, g := ⟨5, true⟩, uni := false }) ∧
    (decodeWord (w9 0x08a 10 40 41 42 7 1 0)).toOption = some (.vfcmp { ty := 10, d := 40, a := 41, b := 42, any := false, cond := 7, cc := 1, g := ⟨5, true⟩, uni := false }) ∧
    (decodeWord (w9 0x08b 8 1729 41 0 1537 0 0)).toOption = some (.vfclass { ty := 8, d := 1729, a := 41, any := true, mask := 513, cc := 0, g := ⟨5, true⟩, uni := false }) ∧
    (decodeWord (w9 0x090 10 40 41 0 1152 1 0)).toOption = some (.vfrcp { ty := 10, d := 40, a := 41, la := 9, cc := 1, g := ⟨5, true⟩ }) ∧
    (decodeWord (w9 0x091 10 40 41 0 1152 1 0)).toOption = some (.vfrsq { ty := 10, d := 40, a := 41, la := 9, cc := 1, g := ⟨5, true⟩ }) ∧
    (decodeWord (w9 0x092 10 40 41 0 1152 1 0)).toOption = some (.vfsqrt { ty := 10, d := 40, a := 41, la := 9, cc := 1, g := ⟨5, true⟩ }) ∧
    (decodeWord (w9 0x094 10 40 41 0 1152 1 0)).toOption = some (.vfexp2 { ty := 10, d := 40, a := 41, la := 9, cc := 1, g := ⟨5, true⟩ }) ∧
    (decodeWord (w9 0x095 10 40 41 0 1152 1 0)).toOption = some (.vflog2 { ty := 10, d := 40, a := 41, la := 9, cc := 1, g := ⟨5, true⟩ }) ∧
    (decodeWord (w9 0x096 10 40 41 0 1152 1 0)).toOption = some (.vfsin { ty := 10, d := 40, a := 41, la := 9, cc := 1, g := ⟨5, true⟩ }) ∧
    (decodeWord (w9 0x097 10 40 41 0 1152 1 0)).toOption = some (.vfcos { ty := 10, d := 40, a := 41, la := 9, cc := 1, g := ⟨5, true⟩ }) ∧
    (decodeWord (w9 0x098 10 40 41 0 1152 1 0)).toOption = some (.vftanh { ty := 10, d := 40, a := 41, la := 9, cc := 1, g := ⟨5, true⟩ }) ∧
    (decodeWord (w9 0x099 10 40 41 0 1152 1 0)).toOption = some (.vfsig { ty := 10, d := 40, a := 41, la := 9, cc := 1, g := ⟨5, true⟩ }) ∧
    (decodeWord (w9 0x093 10 40 41 42 1152 1 0)).toOption = some (.vfdiv { ty := 10, d := 40, a := 41, b := 42, la := 9, cc := 1, g := ⟨5, true⟩ }) := by
  decide +kernel

/-- Conversions (Table 11.5) and amax (R315). -/
theorem test_decode_convert :
    (decodeWord (w9 0x0c0 8 40 41 1 1258 1 0)).toOption = some (.vcvt { ty := 8, d := 40, a := 41, part := 1, la := 9, sf := true, rm := 2, st := 10, cc := 1, g := ⟨5, true⟩ }) ∧
    (decodeWord (w9 0x0c1 0 40 41 0 371 1 0)).toOption = some (.vcvti { ty := 0, d := 40, a := 41, sat := true, part := 7, st := 3, cc := 1, g := ⟨5, true⟩ }) ∧
    (decodeWord (w9 0x0c2 9 40 41 0 219 1 0)).toOption = some (.vcvtf { ty := 9, d := 40, a := 41, part := 3, rm := 1, st := 11, cc := 1, g := ⟨5, true⟩ }) ∧
    (decodeWord (w9 0x0c3 11 40 41 42 1274 1 0)).toOption = some (.vqnt { ty := 11, d := 40, a := 41, b := 42, la := 9, part := 7, st := 10, cc := 1, g := ⟨5, true⟩ }) ∧
    (decodeWord (w9 0x0c4 10 40 41 42 123 1 0)).toOption = some (.vdqnt { ty := 10, d := 40, a := 41, b := 42, part := 7, st := 11, cc := 1, g := ⟨5, true⟩ }) := by
  decide +kernel

/-- Cross-lane words (Table 11.6). -/
theorem test_decode_crossLane :
    (decodeWord (w9 0x0e0 2 40 41 42 452 1 0)).toOption = some (.vshfl { ty := 2, d := 40, a := 41, b := 42, pe := true, pn := 6, gs := 4, cc := 1, g := ⟨5, true⟩ }) ∧
    (decodeWord (w9 0x0e1 2 40 41 15 4 1 0)).toOption = some (.vbcast { ty := 2, d := 40, a := 41, pos := 15, gs := 4, cc := 1, g := ⟨5, true⟩ }) ∧
    (decodeWord (w9 0x0e2 13 40 41 42 43 1 0)).toOption = some (.vperm { ty := 13, d := 40, a := 41, b := 42, c := 43, cc := 1, g := ⟨5, true⟩, uni := false }) ∧
    (decodeWord (w9 0x0e3 4 40 41 0 0 1 0)).toOption = some (.vpack { ty := 4, d := 40, a := 41, cc := 1, g := ⟨5, true⟩, uni := false }) ∧
    (decodeWord (w9 0x0e4 4 40 41 0 0 1 0)).toOption = some (.vunpk { ty := 4, d := 40, a := 41, cc := 1, g := ⟨5, true⟩, uni := false }) ∧
    (decodeWord (w9 0x0e5 6 40 41 0 164 1 0)).toOption = some (.vred { ty := 6, d := 40, a := 41, ex := false, op := 5, gs := 4, cc := 1, g := ⟨5, true⟩ }) ∧
    (decodeWord (w9 0x0e6 6 40 41 0 356 1 0)).toOption = some (.vscan { ty := 6, d := 40, a := 41, ex := true, op := 3, gs := 4, cc := 1, g := ⟨5, true⟩ }) ∧
    (decodeWord (w9 0x0e7 10 40 41 2047 19 1 0)).toOption = some (.vtopk { ty := 10, d := 40, a := 41, k := 2047, lo := true, gs := 3, cc := 1, g := ⟨5, true⟩ }) ∧
    (decodeWord (w9 0x0e8 13 1669 41 0 0 0 0)).toOption = some (.vballot { ty := 13, d := 1669, a := 41, cc := 0, g := ⟨5, true⟩, uni := false }) ∧
    (decodeWord (w9 0x0e9 13 40 41 0 0 1 0)).toOption = some (.vmatch { ty := 13, d := 40, a := 41, cc := 1, g := ⟨5, true⟩, uni := false }) := by
  decide +kernel

/-- Matrix words (Table 12.1). -/
theorem test_decode_matrix :
    (decodeWord (w9 0x101 0 15 1670 0 0 0 0)).toOption = some (.tcset { n := 15, a := 1670, g := ⟨5, true⟩ }) ∧
    (decodeWord (w9 0x102 0 1669 15 0 0 0 0)).toOption = some (.tcget { d := 1669, n := 15, g := ⟨5, true⟩ }) ∧
    (decodeWord (w9 0x103 0 9 0 0 0 0 0)).toOption = some (.mzero { n := 9, g := ⟨5, true⟩ }) ∧
    (decodeWord (w9 0x104 0 1 2 2035 1173 0 0)).toOption = some (.mxacc { tcd := 1, tca := 2, oe := true, ko := 63, tcb := 3, la := 9, fe := true, fb := 5, g := ⟨5, true⟩ }) ∧
    (decodeWord (w9 0x105 0 1 2 3 0 0 0)).toOption = some (.mxsub { tcd := 1, tca := 2, oe := false, ko := 0, tcb := 3, la := 0, fe := false, fb := 0, g := ⟨5, true⟩ }) ∧
    (decodeWord (w9 0x106 0 9 0 0 0 0 0)).toOption = some (.mnorm { n := 9, g := ⟨5, true⟩ }) ∧
    (decodeWord (w9 0x107 8 40 7 0 1159 1 0)).toOption = some (.mcvt { ty := 8, d := 40, n := 7, la := 9, sf := true, rm := 3, cc := 1, g := ⟨5, true⟩ }) ∧
    (decodeWord (w9 0x108 0 1729 41 0 252 0 0)).toOption = some (.mrmask { d := 1729, a := 41, off := 252, g := ⟨5, true⟩ }) ∧
    (decodeWord (w9 0x109 0 9 0 1670 0 0 0)).toOption = some (.mexp { n := 9, b := 1670, g := ⟨5, true⟩ }) ∧
    (decodeWord (w9 0x109 0 9 0 1670 1 0 0)).toOption = some (.mexpTo { n := 9, b := 1670, g := ⟨5, true⟩ }) := by
  decide +kernel

/-- Memory words (Table 13.1, R350 to R359). -/
theorem test_decode_memory :
    (decodeWord (w9 0x142 7 1599 63 2047 1159 0 0)).toOption = some (.ldq { ty := 7, d := 1599, scope := 0, order := 0, off := 63, b := 2047, la := 9, sh := false, op := 0, tw := 7, g := ⟨5, true⟩ }) ∧
    (decodeWord (w9 0x143 7 40 63 2047 1159 0 0)).toOption = some (.lda { ty := 7, d := 40, scope := 0, order := 0, off := 63, b := 2047, la := 9, sh := false, op := 0, tw := 7, g := ⟨5, true⟩ }) ∧
    (decodeWord (w9 0x144 6 40 63 1023 1159 0 0)).toOption = some (.sta { ty := 6, d := 40, scope := 0, order := 0, off := 63, b := 1023, la := 9, sh := false, op := 0, tw := 7, g := ⟨5, true⟩ }) ∧
    (decodeWord (w9 0x145 6 1536 63 1023 1159 0 0)).toOption = some (.stq { ty := 6, d := 1536, scope := 0, order := 0, off := 63, b := 1023, la := 9, sh := false, op := 0, tw := 7, g := ⟨5, true⟩ }) ∧
    (decodeWord (w9 0x146 7 40 63 2047 1152 0 0)).toOption = some (.lds { ty := 7, d := 40, scope := 0, order := 0, off := 63, b := 2047, la := 9, sh := false, op := 0, tw := 0, g := ⟨5, true⟩ }) ∧
    (decodeWord (w9 0x147 7 40 63 2047 1152 0 0)).toOption = some (.sts { ty := 7, d := 40, scope := 0, order := 0, off := 63, b := 2047, la := 9, sh := false, op := 0, tw := 0, g := ⟨5, true⟩ }) ∧
    (decodeWord (w9 0x148 7 40 1087 5 1159 0 0)).toOption = some (.ldacq { ty := 7, d := 40, scope := 2, order := 0, off := 63, b := 5, la := 9, sh := false, op := 0, tw := 7, g := ⟨5, true⟩ }) ∧
    (decodeWord (w9 0x149 7 40 1599 5 1159 0 0)).toOption = some (.strel { ty := 7, d := 40, scope := 3, order := 0, off := 63, b := 5, la := 9, sh := false, op := 0, tw := 7, g := ⟨5, true⟩ }) ∧
    (decodeWord (w9 0x14a 7 40 1855 42 1215 0 0)).toOption = some (.atom { ty := 7, d := 40, scope := 3, order := 4, off := 63, b := 42, la := 9, sh := false, op := 7, tw := 7, g := ⟨5, true⟩ }) ∧
    (decodeWord (w9 0x14b 7 1537 767 42 1175 0 0)).toOption = some (.atomq { ty := 7, d := 1537, scope := 1, order := 3, off := 63, b := 42, la := 9, sh := false, op := 2, tw := 7, g := ⟨5, true⟩ }) ∧
    (decodeWord (w9 0x14c 6 0 63 5 1199 0 0)).toOption = some (.redl2 { ty := 6, d := 0, scope := 0, order := 0, off := 63, b := 5, la := 9, sh := false, op := 5, tw := 7, g := ⟨5, true⟩ }) ∧
    (decodeWord (w9 0x14d 6 1537 63 1670 1207 0 0)).toOption = some (.gatl2 { ty := 6, d := 1537, scope := 0, order := 0, off := 63, b := 1670, la := 9, sh := false, op := 6, tw := 7, g := ⟨5, true⟩ }) ∧
    (decodeWord (w9 0x14e 0 0 63 1670 1159 0 0)).toOption = some (.mcast { ty := 0, d := 0, scope := 0, order := 0, off := 63, b := 1670, la := 9, sh := false, op := 0, tw := 7, g := ⟨5, true⟩ }) ∧
    (decodeWord (w9 0x150 0 0 63 5 7 0 0)).toOption = some (.pref { ty := 0, d := 0, scope := 0, order := 0, off := 63, b := 5, la := 0, sh := false, op := 0, tw := 7, g := ⟨5, true⟩ }) ∧
    (decodeWord (w9 0x157 0 0 63 5 7 0 0)).toOption = some (.cflushL1 { ty := 0, d := 0, scope := 0, order := 0, off := 63, b := 5, la := 0, sh := false, op := 0, tw := 7, g := ⟨5, true⟩ }) ∧
    (decodeWord (w9 0x157 0 0 63 5 15 0 0)).toOption = some (.cflushL2 { ty := 0, d := 0, scope := 0, order := 0, off := 63, b := 5, la := 0, sh := false, op := 1, tw := 7, g := ⟨5, true⟩ }) ∧
    (decodeWord (w9 0x140 0 7 1670 0 1 0 0)).toOption = some (.wset { n := 7, a := 1670, dom := true, g := ⟨5, true⟩ }) ∧
    (decodeWord (w9 0x141 0 6 0 0 0 0 0)).toOption = some (.winv { n := 6, g := ⟨5, true⟩ }) := by
  decide +kernel

/-- Fences, code and shared memory, queues, barriers, system registers and commands (R360 to R381, Tables 13.4 to 13.9). -/
theorem test_decode_system :
    (decodeWord (w9 0x14f 0 1537 63 255 1152 0 0)).toOption = some (.rld { d := 1537, off := 63, n := 255, la := 9, g := ⟨5, true⟩ }) ∧
    (decodeWord (w9 0x151 0 1669 1670 1671 1152 0 0)).toOption = some (.scopy { d := 1669, a := 1670, b := 1671, la := 9, g := ⟨5, true⟩ }) ∧
    (decodeWord (w9 0x152 0 0 1280 0 0 0 0)).toOption = some (.fence { scope := 2, order := 4, g := ⟨5, true⟩ }) ∧
    (decodeWord (w9 0x153 0 0 1670 1671 0 0 0)).toOption = some (.iinv { a := 1670, b := 1671, g := ⟨5, true⟩ }) ∧
    (decodeWord (w9 0x154 0 0 0 0 0 0 0)).toOption = some (.isync ⟨5, true⟩) ∧
    (decodeWord (w9 0x155 0 1729 1670 0 0 0 0)).toOption = some (.l1res { d := 1729, a := 1670, g := ⟨5, true⟩ }) ∧
    (decodeWord (w9 0x156 0 0 1670 0 0 0 0)).toOption = some (.tide { a := 1670, g := ⟨5, true⟩ }) ∧
    (decodeWord (w9 0x158 0 15 1720 0 0 0 0)).toOption = some (.fbset { n := 15, a := 1720, g := ⟨5, true⟩ }) ∧
    (decodeWord (w9 0x180 0 1537 41 0 0 0 0)).toOption = some (.qpush { d := 1537, a := 41, g := ⟨5, true⟩ }) ∧
    (decodeWord (w9 0x181 0 40 1538 0 0 0 0)).toOption = some (.qpop { d := 40, a := 1538, g := ⟨5, true⟩ }) ∧
    (decodeWord (w9 0x182 0 0 1538 0 0 0 0)).toOption = some (.qdrop { a := 1538, g := ⟨5, true⟩ }) ∧
    (decodeWord (w9 0x183 0 0 1538 0 0 0 0)).toOption = some (.qflush { a := 1538, g := ⟨5, true⟩ }) ∧
    (decodeWord (w9 0x184 0 1669 1538 0 0 0 0)).toOption = some (.qstat { d := 1669, a := 1538, g := ⟨5, true⟩ }) ∧
    (decodeWord (w9 0x185 0 0 1538 0 0 0 0)).toOption = some (.qwait { a := 1538, g := ⟨5, true⟩ }) ∧
    (decodeWord (w9 0x1a0 0 1729 0 0 511 0 0)).toOption = some (.bar { d := 1729, err := true, n := 255, g := ⟨5, true⟩ }) ∧
    (decodeWord (w9 0x1a1 0 0 0 0 263 0 0)).toOption = some (.bara { d := 0, err := true, n := 7, g := ⟨5, true⟩ }) ∧
    (decodeWord (w9 0x1a2 0 1729 0 0 7 0 0)).toOption = some (.barw { d := 1729, err := false, n := 7, g := ⟨5, true⟩ }) ∧
    (decodeWord (w9 0x1a3 0 1669 1670 0 15 0 0)).toOption = some (.ewait { d := 1669, a := 1670, e := 15, g := ⟨5, true⟩ }) ∧
    (decodeWord (w9 0x1a8 0 1669 0 47 3 0 0)).toOption = some (.sysr { d := 1669, n := 47, w := 3, g := ⟨5, true⟩ }) ∧
    (decodeWord (w9 0x1a9 0 0 1670 47 7 0 0)).toOption = some (.sysw { a := 1670, n := 47, w := 7, g := ⟨5, true⟩ }) ∧
    (decodeWord (w9 0x1aa 0 0 1670 0 0 0 0)).toOption = some (.park { a := 1670, g := ⟨5, true⟩ }) ∧
    (decodeWord (w9 0x1ab 0 1669 0 0 1 0 0)).toOption = some (.cnt { d := 1669, sync := true, g := ⟨5, true⟩ }) ∧
    (decodeWord (w9 0x1c0 0 1729 1720 0 1167 0 0)).toOption = some (.push { d := 1729, a := 1720, la := 9, e := 15, g := ⟨5, true⟩ }) ∧
    (decodeWord (w9 0x1c1 0 1729 1664 0 1152 0 0)).toOption = some (.spawn { d := 1729, a := 1664, la := 9, e := 0, g := ⟨5, true⟩ }) ∧
    (decodeWord (w9 0x0c5 0 40 0 0 1 1 0)).toOption = some (.amaxr { d := 40, clr := true, cc := 1, g := ⟨5, true⟩ }) ∧
    (decodeWord (w9 0x0c6 0 0 0 0 0 0 0)).toOption = some (.amaxc ⟨5, true⟩) := by
  decide +kernel

/-- `mmode.on` and `mmode.off` as Chapter 12 writes them. -/
theorem test_decode_mmode : (decodeWord 0x8000000000000080).toOption = some .mmodeOn ∧ (decodeWord 0x8000000000000000).toOption = some .mmodeOff := by decide +kernel

/-- Lighter words (Table 14.6: op at [31:27], d, a, b, then the immediate). -/
theorem test_decode_lighter :
    decodeX (0) = some (.xend) ∧
    decodeX (BitVec.ofNat 32 (1 * 2 ^ 27 + 1 * 2 ^ 23 + 0 * 2 ^ 19 + 0 * 2 ^ 15 + (2 ^ 15 - 2) * 2 ^ 0)) = some (.xli 1 (BitVec.ofInt 15 (-2))) ∧
    decodeX (BitVec.ofNat 32 (2 * 2 ^ 27 + 15 * 2 ^ 23 + 0 * 2 ^ 19 + 0 * 2 ^ 15 + 32767 * 2 ^ 0)) = some (.xlsh 15 32767) ∧
    decodeX (BitVec.ofNat 32 (3 * 2 ^ 27 + 1 * 2 ^ 23 + 2 * 2 ^ 19 + 3 * 2 ^ 15 + 5 * 2 ^ 0)) = some (.xadd 1 2 3 5) ∧
    decodeX (BitVec.ofNat 32 (4 * 2 ^ 27 + 1 * 2 ^ 23 + 2 * 2 ^ 19 + 3 * 2 ^ 15)) = some (.xsub 1 2 3) ∧
    decodeX (BitVec.ofNat 32 (5 * 2 ^ 27 + 1 * 2 ^ 23 + 2 * 2 ^ 19 + 3 * 2 ^ 15)) = some (.xmul 1 2 3) ∧
    decodeX (BitVec.ofNat 32 (6 * 2 ^ 27 + 1 * 2 ^ 23 + 2 * 2 ^ 19 + 3 * 2 ^ 15)) = some (.xand 1 2 3) ∧
    decodeX (BitVec.ofNat 32 (7 * 2 ^ 27 + 1 * 2 ^ 23 + 2 * 2 ^ 19 + 0 * 2 ^ 15 + 63 * 2 ^ 0)) = some (.xshl 1 2 63) ∧
    decodeX (BitVec.ofNat 32 (8 * 2 ^ 27 + 1 * 2 ^ 23 + 2 * 2 ^ 19 + 0 * 2 ^ 15 + 63 * 2 ^ 0)) = some (.xshr 1 2 63) ∧
    decodeX (BitVec.ofNat 32 (9 * 2 ^ 27 + 1 * 2 ^ 23 + 2 * 2 ^ 19 + 0 * 2 ^ 15)) = some (.xpopc 1 2) ∧
    decodeX (BitVec.ofNat 32 (10 * 2 ^ 27 + 1 * 2 ^ 23 + 2 * 2 ^ 19 + 3 * 2 ^ 15 + 5 * 2 ^ 0)) = some (.xld 1 2 3 5) ∧
    decodeX (BitVec.ofNat 32 (11 * 2 ^ 27 + 2 * 2 ^ 23 + 3 * 2 ^ 19 + 4 * 2 ^ 15 + 5 * 2 ^ 0)) = some (.xbr 2 3 4 5) ∧
    decodeX (BitVec.ofNat 32 (12 * 2 ^ 27 + 0 * 2 ^ 23 + 0 * 2 ^ 19 + 0 * 2 ^ 15 + (2 ^ 15 - 1) * 2 ^ 0)) = some (.xblk (BitVec.ofInt 15 (-1))) ∧
    decodeX (BitVec.ofNat 32 (13 * 2 ^ 27 + 1 * 2 ^ 23 + 2 * 2 ^ 19 + 3 * 2 ^ 15 + 128 * 2 ^ 0)) = some (.xput 1 2 3 128) ∧
    decodeX (BitVec.ofNat 32 (14 * 2 ^ 27 + 0 * 2 ^ 23 + 2 * 2 ^ 19 + 0 * 2 ^ 15)) = some (.xmask 2) ∧
    decodeX (BitVec.ofNat 32 (15 * 2 ^ 27 + 0 * 2 ^ 23 + 2 * 2 ^ 19 + 3 * 2 ^ 15)) = some (.xchk 2 3) ∧
    decodeX (BitVec.ofNat 32 (16 * 2 ^ 27 + 0 * 2 ^ 23 + 2 * 2 ^ 19 + 0 * 2 ^ 15)) = some (.xemit 2) := by
  decide +kernel

/-- Pilot words (Table 14.11: op at [31:28], d, a, b, then the immediate), some of them as Chapters 14 and 16 write them. -/
theorem test_decode_pilot :
    decodeP (0) = some (.pend 0) ∧
    decodeP (1) = some (.pend 1) ∧
    decodeP (BitVec.ofNat 32 (1 * 2 ^ 28 + 1 * 2 ^ 25 + 0 * 2 ^ 22 + 0 * 2 ^ 19 + (2 ^ 19 - 3) * 2 ^ 0)) = some (.pli 1 (BitVec.ofInt 19 (-3))) ∧
    decodeP (BitVec.ofNat 32 (2 * 2 ^ 28 + 1 * 2 ^ 25 + 2 * 2 ^ 22 + 3 * 2 ^ 19 + 5 * 2 ^ 0)) = some (.padd 1 2 3 5) ∧
    decodeP (BitVec.ofNat 32 (3 * 2 ^ 28 + 1 * 2 ^ 25 + 2 * 2 ^ 22 + 3 * 2 ^ 19)) = some (.psub 1 2 3) ∧
    decodeP (BitVec.ofNat 32 (4 * 2 ^ 28 + 1 * 2 ^ 25 + 2 * 2 ^ 22 + 3 * 2 ^ 19)) = some (.pmul 1 2 3) ∧
    decodeP (BitVec.ofNat 32 (5 * 2 ^ 28 + 1 * 2 ^ 25 + 2 * 2 ^ 22 + 3 * 2 ^ 19)) = some (.pand 1 2 3) ∧
    decodeP (BitVec.ofNat 32 (6 * 2 ^ 28 + 1 * 2 ^ 25 + 2 * 2 ^ 22 + 3 * 2 ^ 19)) = some (.pxor 1 2 3) ∧
    decodeP (BitVec.ofNat 32 (7 * 2 ^ 28 + 1 * 2 ^ 25 + 2 * 2 ^ 22 + 0 * 2 ^ 19 + 63 * 2 ^ 0)) = some (.pshr 1 2 63) ∧
    decodeP (BitVec.ofNat 32 (8 * 2 ^ 28 + 1 * 2 ^ 25 + 2 * 2 ^ 22 + 0 * 2 ^ 19 + 63 * 2 ^ 0)) = some (.pshl 1 2 63) ∧
    decodeP (0x98180010) = some (.pld 4 3 16) ∧
    decodeP (BitVec.ofNat 32 (10 * 2 ^ 28 + 1 * 2 ^ 25 + 2 * 2 ^ 22 + 2 * 2 ^ 19 + 255 * 2 ^ 0)) = some (.pldx 1 2 2 255) ∧
    decodeP (0xb1400003) = some (.pbr 0 5 0 3) ∧
    decodeP (0xc1000000) = some (.pnext 4) ∧
    decodeP (BitVec.ofNat 32 (13 * 2 ^ 28 + 0 * 2 ^ 25 + 2 * 2 ^ 22 + 3 * 2 ^ 19 + 255 * 2 ^ 0)) = some (.pwr 2 3 255) := by
  decide +kernel
/-! ## Witnesses: states and operands that meet the hypotheses of the statements -/

/-- A vector word over v1 and v2. -/
def f2 : Alu2 := { ty := 6, d := 3, a := 1, b := 2, cc := 0, g := g0, uni := false }
/-- A uniform word over k1 and k2. -/
def u2 : Alu2 := { ty := 6, d := fk 5, a := fk 1, b := fk 2, cc := 0, g := g0, uni := true }
/-- A vector word with one source. -/
def f1 : Alu1 := { ty := 6, d := 3, a := 1, cc := 0, g := g0, uni := false }
/-- A uniform word with one source. -/
def u1 : Alu1 := { ty := 6, d := fk 5, a := fk 1, cc := 0, g := g0, uni := true }
/-- A vector word with three sources. -/
def f3 : Alu3 := { ty := 13, d := 3, a := 1, b := 2, c := 1, cc := 0, g := g0, uni := false }

theorem witness_RoundTrip :
    (∃ i w, Instr.wf i = true ∧ encode i = some w) ∧ (∃ i w, Instr.wf i = true ∧ encodeX i = some w) ∧ ∃ i w, Instr.wf i = true ∧ encodeP i = some w :=
  ⟨⟨.vadd f2, _, by decide, rfl⟩, ⟨.xadd 1 2 3 4, _, by decide, rfl⟩, ⟨.padd 1 2 3 4, _, by decide, rfl⟩⟩

/-- The access warp at a `nop` whose line of code it holds. -/
def sNop : State :=
  let w := (encode (.nop g0)).getD 0
  let s := (State.reset.withWarpWord w).modWarp aw fun x => { x with code := some { va := 0x30080, pa := 0x30080, bytes := BitVec.ofNat 1024 (w.toNat * 2 ^ 64), poison := 0, fail := false } }
  { s with turns := [.run (.warp aw)] }

theorem witness_StepRunsDecodedWord :
    sNop.turns = [.run (.warp aw)] ∧ ∃ c, ({ sNop with turns := [], cur := some (.warp aw) } : State).ctx? = some c ∧
      (c.t.st = .resident ∧ c.x.awake = true ∧ c.x.clause.isSome = true ∧ c.x.resumed = false ∧ c.x.lookaheadOut = false ∧ c.x.repLeft = 0 ∧
        0 ≤ c.x.wordOff c.x.slot ∧ c.x.wordOff c.x.slot % 8 = 0 ∧ (sNop.task? c.t.task).any (fun k => decide (c.x.wordOff c.x.slot < k.launch.csize) &&
          c.x.code.any fun l => l.va == (k.code + (c.x.wordOff c.x.slot).toNat) / 128 * 128 && (l.wordAt (k.code + (c.x.wordOff c.x.slot).toNat)).toOption == encode (.nop g0)) = true ∧
        (wordCheck c.w.access ((c.x.clause.map (·.cls)).getD 7) ((encode (.nop g0)).getD 0)).toOption = some (.nop g0)) :=
  ⟨by decide +kernel, ctx_with (by decide +kernel)⟩

theorem witness_FetchReadsHomeMemory :
    ∃ c, sx.ctx? = some c ∧ ((sx.task? c.t.task).any (fun k => 8 < k.launch.csize && k.code == 0x30000) = true ∧ c.x.code = none ∧
      (match sx.xlat (sx.spaceOf c.w.team).core (sx.spaceOf c.w.team).asid 0x30008 with
        | .leaf f big _ _ => isHbm (leafPa f big 0x30008 / 128 * 128) && !sx.mem.ram.poisonedAt (leafPa f big 0x30008 / 128 * 128 + 0x30008 % 128)
        | _ => false) = true) := ctx_with (by decide +kernel)

theorem witness_StepRunsTurn :
    isEvent .mailboxCommandDone = true ∧ ({ State.reset with turns := [.event .mailboxCommandDone] } : State).turns = .event .mailboxCommandDone :: [] ∧
    (exec .mailboxCommandDone State.reset matches .next _) = true ∧ ({ State.reset with turns := [.elapse none 5] } : State).turns = .elapse none 5 :: [] ∧
    ({ State.reset with turns := [.evict 63 127] } : State).turns = .evict 63 127 :: [] ∧ ({ State.reset with turns := [.upset none 127] } : State).turns = .upset none 127 :: [] := by
  decide +kernel

/-- A running Lighter word and a running walk's word. -/
def sLight : State := { base.withMicroWord 0 with turns := [], cur := some (.lighter 0) }

theorem witness_StepKeeps :
    (step State.reset matches .next _) = true ∧ State.reset.mem.ram.wf = true := by decide +kernel

theorem witness_StoresKeepAndReadBack :
    let r : Ram := (Ram.zero.store [(16, 1#8)] fun _ => true)
    r.wf = true ∧ (∃ b ∈ [(16, 3#8)], b.1 / 16 = 1) ∧ (∀ b ∈ [(16, 3#8)], b.1 ≠ 17) := by decide +kernel

theorem witness_TrapsTaken :
    ((sx.warp? xw).isSome = true ∧ sx.quiet xw = true ∧ sx.traph 1 = 0) ∧ ((sh.warp? xw).any (fun x => !x.inHandler) = true ∧ sh.quiet xw = true ∧ sh.traph 1 ≠ 0) ∧
    (((sh.modWarp xw fun x => { x with tinfo := vset x.tinfo 0 0x1000000 }).warp? xw).any (·.inHandler) = true) ∧
    (sbusy.warp? xw).isSome = true ∧ sbusy.quiet xw = false ∧ ((sbusy.warp? xw).map fun x => { x with trap := some (x.trapInfo { cause := .userTrap }) }).any (·.trap.isSome) = true := by
  decide +kernel
theorem witness_OperandTraps :
    (∃ e v, intResult (.vadd { f2 with a := 40 }) [] = some (e, v) ∧ isScalar (.vadd { f2 with a := 40 }) = false ∧ e.uni = false) ∧
    (∃ c, sx.ctx? = some c ∧ (ccOk c.w.access 0 3 = true ∧ sx.fieldBusy c 3 = false ∧ sx.fieldBusy c 40 = false ∧ sx.fieldBusy c 2 = false ∧
      dstFault c 3 = none ∧ (dstFault c 40).isSome = true ∧ (srcFault c (c.x.active g0) ⟨40, false⟩ 0).isSome = true ∧
      (srcFault c (c.x.active g0) ⟨fq 9, false⟩ 0).isSome = true ∧ sx.srcsReady c (c.x.active g0) [⟨1, false⟩] = true)) ∧
    (∃ e v, intResult (.kadd { u2 with a := 5 }) [] = some (e, v) ∧ isScalar (.kadd { u2 with a := 5 }) = true ∧ (1664 ≤ e.d.toNat ∧ e.d.toNat < 1728)) ∧
    ∃ e v, fltResult (.vfadd { u2 with ty := 10, d := 3 }) [] = some (e, v) ∧ e.uni = true ∧ e.cc = 0 ∧ ¬ (1664 ≤ e.d.toNat) :=
  ⟨⟨_, _, rfl, by decide⟩, ctx_with (by decide +kernel), ⟨_, _, rfl, by decide⟩, ⟨_, _, rfl, by decide⟩⟩

theorem witness_DataWordFrame :
    dataDst (.vadd f2) = some 3 ∧ (sx.ctx?).isSome = true ∧ (match exec (.vadd f2) sx with | .next t => (t.warp? xw).any fun y => y.retired == 1 | _ => false) = true ∧
    dataDst (.vadd { f2 with a := fq 1 }) = some 3 ∧ sh.traph 1 ≠ 0 ∧
      (match exec (.vadd { f2 with d := fq 1 }) { sh with cur := some (.warp xw) } with | .next t => (t.warp? xw).isSome | _ => false) = true := by
  decide +kernel

theorem witness_ScalarResults :
    (∃ e v, intResult (.kadd u2) [] = some (e, v) ∧ isScalar (.kadd u2) = true ∧ Instr.wf (.kadd u2) = true ∧ uniFields e = true) ∧
    (∃ e v, intResult (.kadd { u2 with ty := 7 }) [] = some (e, v) ∧ Instr.wf (.kadd { u2 with ty := 7 }) = true ∧ uniFields e = true ∧ (sa.ctx?).isSome = true) :=
  ⟨⟨_, _, rfl, by decide⟩, ⟨_, _, rfl, by decide +kernel⟩⟩

theorem witness_VectorIntegerResults :
    (∃ e v, intResult (.vadd f2) [] = some (e, v) ∧ isScalar (.vadd f2) = false ∧ Instr.wf (.vadd f2) = true ∧ e.uni = false) ∧
    (∃ c, sx.ctx? = some c ∧ sx.fieldsReady c 3 0 g0 [⟨1, false⟩, ⟨2, false⟩] = true) ∧
    (∃ c, sx.ctx? = some c ∧ sx.fieldsReady c (fq 1) 0 g2 [⟨fq 0, false⟩, ⟨fq 0, false⟩] = true) ∧
    (∃ c, sa.ctx? = some c ∧ sa.fieldsReady c 3 0 g0 [⟨1, false⟩, ⟨2, false⟩] = true) :=
  ⟨⟨_, _, rfl, by decide⟩, ctx_with (by decide +kernel), ctx_with (by decide +kernel), ctx_with (by decide +kernel)⟩

theorem witness_VectorFloatResults :
    (∃ e v, fltResult (.vfadd { f2 with ty := 10 }) [] = some (e, v) ∧ Instr.wf (.vfadd { f2 with ty := 10 }) = true ∧ e.uni = false) ∧
    (∃ c, sx.ctx? = some c ∧ sx.fieldsReady c 3 0 g0 [⟨1, true⟩, ⟨2, true⟩] = true) :=
  ⟨⟨_, _, rfl, by decide⟩, ctx_with (by decide +kernel)⟩

theorem witness_UniformResults :
    (∃ e v, intResult (.vadd u2) [] = some (e, v) ∧ isScalar (.vadd u2) = false ∧ Instr.wf (.vadd u2) = true ∧ e.uni = true ∧ e.cc = 0 ∧ uniFields e = true) ∧
    (∃ e v, fltResult (.vfmul { u2 with ty := 10 }) [] = some (e, v) ∧ Instr.wf (.vfmul { u2 with ty := 10 }) = true ∧ e.uni = true ∧ e.cc = 0 ∧ uniFields e = true) ∧
    (sx.ctx?).isSome = true := ⟨⟨_, _, rfl, by decide⟩, ⟨_, _, rfl, by decide⟩, by decide +kernel⟩

theorem witness_MoveVoteAndMaximum :
    (∃ c, sx.ctx? = some c ∧ (sx.fieldsReady c 3 0 g0 [⟨1, false⟩] = true ∧ sx.srcsReady c (c.x.active g0) [⟨1, false⟩] = true ∧ sx.quiet c.w = true ∧ c.w.idx ≠ 0 ∧
      sx.fieldBusy c 1 = false ∧ sx.fieldsReady c 3 0 g0 [] = true)) ∧
    uniFields (elem1 u1 false) = true ∧ Fld.isK (fk 63) = true ∧ Fld.isPred (fp 7) = true ∧ fz = 1736 ∧ ((3 : Fld).toNat < 1664) := by
  refine ⟨ctx_with (by decide +kernel), by decide⟩

/-- A comparison of v1 and v2 to p3. -/
def fc : AluCmp := { ty := 6, d := fp 3, a := 1, b := 2, cond := 0, any := true, cc := 0, g := g0, uni := false }

theorem witness_CompareResults :
    (∃ e a b n, cmpResult (.vcmp fc) [] = some (e, a, b, n) ∧ Instr.wf (.vcmp fc) = true ∧ e.uni = false ∧ Fld.isPred e.d = true ∧ e.cc = 0) ∧
    (∃ c, sx.ctx? = some c ∧ (sx.srcsReady c (c.x.active g0) [⟨1, false⟩, ⟨2, false⟩] = true ∧ sx.fieldsReady c 3 0 g0 [⟨1, false⟩, ⟨2, false⟩] = true)) ∧
    ∃ e a b n, cmpResult (.vcmp { fc with d := fk 5, a := fk 1, b := fk 2, any := false, uni := true }) [] = some (e, a, b, n) ∧
      Instr.wf (.vcmp { fc with d := fk 5, a := fk 1, b := fk 2, any := false, uni := true }) = true ∧ e.uni = true ∧ e.cc = 0 ∧ uniFields e = true :=
  ⟨⟨_, _, _, _, rfl, by decide⟩, ctx_with (by decide +kernel), ⟨_, _, _, _, rfl, by decide⟩⟩

/-- A long-latency word over v1. -/
def fl1 : Long1 := { ty := 10, d := 3, a := 1, la := 2, cc := 0, g := g0 }

theorem witness_LongFloatResults :
    (∃ e la v, longResult (.vfrcp fl1) [] = some (e, la, v) ∧ Instr.wf (.vfrcp fl1) = true) ∧
    (∃ c, sx.ctx? = some c ∧ sx.fieldsReady c 3 0 g0 [⟨1, true⟩] = true) := ⟨⟨_, _, _, rfl, by decide⟩, ctx_with (by decide +kernel)⟩

/-- bf16 from f32. -/
def fcv : CvtF := { ty := 9, d := 3, a := 1, part := 1, la := 1, sf := false, rm := 0, st := 10, cc := 0, g := g0 }

theorem witness_ConversionResults :
    (∃ v, convOf (.vcvt fcv) = some v ∧ Instr.wf (.vcvt fcv) = true ∧ v.la = some 1 ∧ v.from 0 = none ∧ (v.from 2).isSome = true) ∧
    (∃ c, sx.ctx? = some c ∧ sx.fieldsReady c 3 0 g0 [⟨1, true⟩] = true) := ⟨⟨_, rfl, by decide +kernel⟩, ctx_with (by decide +kernel)⟩

theorem witness_DivisionRule :
    (Ty.int 0 = true ∧ intVal 0 0 = 0 ∧ intVal 0 0x80 = -(2 ^ (Ty.width 0 - 1) : Nat) ∧ intVal 0 0xff = -1 ∧ Ty.signed 0 = true ∧ intVal 0 7 ≠ 0) ∧
    (∃ c, sx.ctx? = some c ∧ (uniFields (elem2 u2 false) = true ∧ c.x.cond u2.g = true ∧ sx.fieldsReady c 3 0 g0 [⟨1, false⟩, ⟨2, false⟩] = true)) :=
  ⟨by decide, ctx_with (by decide +kernel)⟩

theorem witness_CountedReadsAndPops :
    (∃ c, sx.ctx? = some c ∧ (c.w.idx ≠ 0 ∧ (c.x.v[1]?).isSome = true ∧ (c.t.queues[0]?).isSome = true)) ∧ VReg.fresh.released = false :=
  ⟨ctx_with (by decide +kernel), by decide⟩

theorem witness_PermuteLanes : ∃ c, sx.ctx? = some c ∧ sx.fieldsReady c f3.d f3.cc f3.g [⟨f3.a, false⟩, ⟨f3.b, false⟩, ⟨f3.c, false⟩] = true :=
  ctx_with (by decide +kernel)

theorem witness_CrossLaneResults :
    Instr.wf (.vshfl { ty := 6, d := 3, a := 1, b := 2, gs := 5, pn := 3, pe := true, cc := 0, g := g0 }) = true ∧
    Instr.wf (.vbcast { ty := 6, d := 3, a := 1, pos := 31, gs := 5, cc := 0, g := g0 }) = true ∧
    Instr.wf (.vred { ty := 10, d := fk 5, a := 1, ex := false, op := 2, gs := 6, cc := 0, g := g0 }) = true ∧ Fld.isK (fk 5) = true ∧
    Instr.wf (.vred { ty := 10, d := 3, a := 1, ex := false, op := 0, gs := 2, cc := 0, g := g0 }) = true ∧
    Instr.wf (.vscan { ty := 6, d := 3, a := 1, ex := true, op := 5, gs := 3, cc := 0, g := g0 }) = true ∧
    Instr.wf (.vtopk { ty := 6, d := 3, a := 1, k := 3, lo := true, gs := 4, cc := 0, g := g0 }) = true ∧
    ∃ c, sx.ctx? = some c ∧ (sx.fieldsReady c 3 0 g0 [⟨1, false⟩, ⟨2, false⟩] = true ∧ sx.fieldsReady c 3 0 g0 [⟨1, false⟩] = true ∧
      sx.srcsReady c (c.x.active g0) [⟨1, false⟩] = true) :=
  ⟨by decide, by decide, by decide, by decide, by decide, by decide, by decide, ctx_with (by decide +kernel)⟩

theorem witness_WordEnds :
    (sx.warp? xw).any (fun x => decide (x.repLeft ≤ 1) && decide (x.slot + 1 < x.count)) = true ∧ (sl.warp? xw).any (fun x => decide (x.count ≤ x.slot + 1)) = true ∧
    (sx.warp? xw).any (fun x => decide (1 < { x with repLeft := 2 }.repLeft)) = true := by decide +kernel

theorem witness_PositionRule :
    (∃ c, sx.ctx? = some c ∧ (c.x.slot + 1 < c.x.count ∧ Fld.isK (fk 3) = true ∧ c.x.condAll false g0 = true ∧ c.x.cond g0 = true ∧ vget c.x.k 1 0 ≠ 1)) :=
  ctx_with (by decide +kernel)

/-- The last word of a clause, with an open call, a path-stack entry whose merge is here, and a target in k3. -/
def spath : State := sl.modWarp xw fun x => { x with cstack := [0x40], pstack := [{ pc := x.hdr, mask := 0xff, rpc := none }], rpc := some x.hdr }

theorem witness_UniformTransfers :
    (∃ c, sl.ctx? = some c ∧ (c.x.count ≤ c.x.slot + 1 ∧ c.x.cstack = [] ∧ c.x.cond g0 = true ∧ c.x.cond g1 = false ∧ c.x.condAll false g0 = true)) ∧
    (∃ c, spath.ctx? = some c ∧ (c.x.count ≤ c.x.slot + 1 ∧ c.x.cstack = [0x40] ∧ c.x.cond g0 = true ∧ (vget c.x.k 3 0).toNat % 8 = 0 ∧ vget c.x.k 4 0 - 1 = 0)) ∧
    Fld.isK 3 = false :=
  ⟨ctx_with (by decide +kernel), ctx_with (by decide +kernel), by decide⟩

theorem witness_PathDivision :
    ∃ c, sl.ctx? = some c ∧ (c.x.count ≤ c.x.slot + 1 ∧ c.x.m &&& c.x.guard g2 ≠ 0 ∧ c.x.m &&& ~~~(c.x.guard g2) ≠ 0 ∧
      c.x.m &&& ~~~(c.x.guard g0) = 0 ∧ c.x.m &&& c.x.guard g1 = 0 ∧ ¬ 30 < c.x.pstack.length) := ctx_with (by decide +kernel)

theorem witness_Reconvergence :
    (∃ c, sl.ctx? = some c ∧ (c.x.count ≤ c.x.slot + 1 ∧ c.x.rpc ≠ some c.x.hdr)) ∧
    (∃ c, spath.ctx? = some c ∧ (c.x.count ≤ c.x.slot + 1 ∧ c.x.rpc = some c.x.hdr ∧ c.x.pstack = [{ pc := c.x.hdr, mask := 0xff, rpc := none }] ∧
      hdrFault c.t xw 0xf000000100000000 = none ∧ c.x.resumed = false ∧ (0xf000000100000000 : Word).getLsbD 32 = true)) :=
  ⟨ctx_with (by decide +kernel), ctx_with (by decide +kernel)⟩

theorem witness_ExitWord :
    (∃ c, sl.ctx? = some c ∧ (c.x.count ≤ c.x.slot + 1 ∧ sl.quiet c.w = true ∧ c.x.m &&& ~~~(c.x.m &&& c.x.guard g2) ≠ 0 ∧
      c.x.m &&& ~~~(c.x.m &&& c.x.guard g0) = 0 ∧ c.x.pstack = [] ∧ c.t.core < 64 ∧ c.x.partOf < 32)) ∧
    (∃ c, spath.ctx? = some c ∧ ((c.x.pstack.map fun e => e.mask) = [0xff] ∧ (0xff : Mask) &&& ~~~(c.x.m &&& c.x.guard { g2 with neg := true }) ≠ 0)) ∧
    { sbusy with cur := some (.warp xw) }.quiet xw = false :=
  ⟨ctx_with (by decide +kernel), ctx_with (by decide +kernel), by decide +kernel⟩
/-- The execute warp in matrix mode: an accumulator at v0, an 8-bit A tile at v64 and a B tile at v65. -/
def sm : State := (base.modWarp xw fun x => { x with
  matrix := true, v := List.replicate 96 { VReg.fresh with uninit := 0, released := false }
  tc := vset (vset (vset x.tc 0 0x300000000) 1 (word (64 + 2 ^ 32 + 7 * 2 ^ 38))) 2 (word (65 + 2 ^ 33 + 7 * 2 ^ 38)) }).on xw 1 2

/-- The two tiles of `sm`. -/
def fmx : MxF := { tcd := 0, tca := 1, oe := false, ko := 0, tcb := 2, la := 0, fe := false, fb := 0, g := g0 }

/-- `sm` with its grid and a step of it. -/
def smg (a : GridAct) : State := sm.modPart 0 0 fun p => { p with
  grid := some xw, ops := [{ w := xw, tok := 5, tcn := 0, base := 0, act := a }] }

theorem witness_GridClaimAndTileControl :
    (∃ c, sl.ctx? = some c ∧ (c.x.count ≤ c.x.slot + 1 ∧ c.t.core < 64 ∧ c.x.partOf < 32 ∧ c.x.matrix = false ∧ sl.quiet c.w = true ∧ (sl.partOf c).grid = none ∧
      (sl.partOf c).waiters = [] ∧ (sl.partOf c).ops.any (·.w = c.w) = false)) ∧
    (∃ c, (sl.modPart 0 0 fun p => { p with grid := some { team := 1, idx := 3 } }).ctx? = some c ∧
      (c.x.matrix = false ∧ (({ sl with cur := none }.modPart 0 0 fun p => { p with grid := some { team := 1, idx := 3 } }).partOf c).grid = some { team := 1, idx := 3 } ∧
        c.w ∉ ((sl.modPart 0 0 fun p => { p with grid := some { team := 1, idx := 3 } }).partOf c).waiters)) ∧
    (∃ c, ((sm.on xw 1 1).modPart 0 0 fun p => { p with grid := some xw }).ctx? = some c ∧ (c.x.matrix = true ∧ c.x.count ≤ c.x.slot + 1 ∧
      (((sm.on xw 1 1).modPart 0 0 fun p => { p with grid := some xw }).partOf c).grid = some c.w)) ∧
    (let s := sl.modPart 0 0 fun p => { p with waiters := [xw] }
     ((s.core 0).part 0).grid = none ∧ ((s.core 0).part 0).waiters = xw :: [] ∧ (s.warp? xw).isSome = true) ∧
    (Fld.isK (fk 0) = true ∧ Fld.isK 3 = false ∧ (3 : Fld) ≠ 1736 ∧ Fld.isPred (fp 1) = true ∧ Fld.isPred 3 = false ∧ (1 : Fld).toNat < 1664 ∧ 1664 ≤ (fk 0).toNat) ∧
    ∃ c, sx.ctx? = some c ∧ sx.srcsReady c (c.x.active g0) [⟨1, false⟩] = true :=
  ⟨ctx_with (by decide +kernel), ctx_with (by decide +kernel), ctx_with (by decide +kernel), by decide +kernel, by decide, ctx_with (by decide +kernel)⟩

theorem witness_GridWords :
    (∃ c, sm.ctx? = some c ∧ (c.accOk 0 = true ∧ sm.tileReady c (regRun 0 64) = true ∧ Fld.isK (fk 2) = true ∧ (vget c.x.k 2 0).toInt ≤ 2047 ∧ -2048 ≤ (vget c.x.k 2 0).toInt ∧
      c.tilesOk fmx = true ∧ sm.tileReady c (c.mxRegs fmx) = true ∧ (sm.mxQuant c fmx).toOption = some none)) ∧
    (∃ c, (sm.modWarp xw fun x => x.withK 2 2048).ctx? = some c ∧ 2047 < (vget c.x.k 2 0).toInt) ∧
    (∃ c, sm.ctx? = some c ∧ (ccOk c.w.access 0 67 = true ∧ c.w.idx ≠ 0 ∧ 67 + Ty.width 0 ≤ c.x.v.length ∧ overlap 67 (Ty.width 0) 0 64 = false ∧
      (∀ n < 75, 67 ≤ n → sm.vBusy c n = false) ∧ 0 < Ty.width 0)) ∧
    (∃ c, sm.ctx? = some c ∧ (c.t.queues[1]?).any (fun q => q.owner + 1 == c.w.idx && q.dir == .ret && decide (q.entries.length + Ty.width 0 ≤ q.depth) && !c.t.noConsumer q) = true) ∧
    (∃ c, sx.ctx? = some c ∧ c.x.matrix = false) ∧ (∃ c, sm.ctx? = some c ∧ (c.x.matrix = true ∧ c.accOk 1 = false)) :=
  ⟨ctx_with (by decide +kernel), ctx_with (by decide +kernel), ctx_with (by decide +kernel), ctx_with (by decide +kernel), ctx_with (by decide +kernel), ctx_with (by decide +kernel)⟩

theorem witness_GridSteps :
    (∀ a ∈ [GridAct.zero, .norm, .exp 3, .expTo 5, .acc false 8 0 0 [] [] none, .cvt (.regs 67 0) 0 0 false 0xffffffff],
      ((((smg a).core 0).part 0).ops.map (·.act)) = [a] ∧ ((smg a).team? 1).isSome = true ∧ ((smg a).warp? xw).any (fun x => decide (75 ≤ x.v.length)) = true) ∧
    Ty.width 0 = 8 := by decide +kernel

/-- A window on device 5. -/
def wr : Window := Window.toDevice 5 0x1000

/-- The access warp with window 1 on device 5, which the domain reaches over port 3. -/
def srem : State :=
  let s := sa.modWarp aw fun x => { x with tw := vset x.tw 1 wr }
  { s with links := { s.links with
    domEn := true, domCache := [{ dev := 5, ip := 0, valid := true, ports := 8 }], ports := vset s.links.ports 3 { up := true, llr := true, credit := true } } }

/-- A plain 8-byte access at window `tw`, addresses in a1. -/
def fmem (d : Nat) (tw : Nat) : MemF :=
  { ty := 7, d := fv d, scope := 0, order := 0, off := 1, b := 0, la := 0, sh := false, op := 0, tw := BitVec.ofNat 3 tw, g := g0 }

/-- The same in shared memory, addresses in a2. -/
def fsh (d : Nat) : MemF := { fmem d 0 with ty := 4, off := 2, sh := true }

theorem witness_WindowsAndRemoteStores :
    (∃ c, srem.ctx? = some c ∧ (c.x.holdLd = [] ∧ Fld.isK (fk 3) = true ∧ fieldOf (vget c.x.k 3 0) 52 12 = 0 ∧ fieldOf (vget c.x.k 3 0) 62 2 = 0 ∧
      fieldOf (vget c.x.k 3 0) 52 10 = srem.links.self.toNat ∧ srem.links.domEn = true)) ∧
    (∃ c, (srem.modWarp aw fun x => x.withK 3 (2 ^ 52)).ctx? = some c ∧ (fieldOf (vget c.x.k 3 0) 52 12 ≠ 0 ∧ fieldOf (vget c.x.k 3 0) 62 2 = 0 ∧
      fieldOf (vget c.x.k 3 0) 52 10 ≠ srem.links.self.toNat)) ∧
    (∃ c, (srem.modWarp aw fun x => x.withK 3 (2 ^ 62)).ctx? = some c ∧ fieldOf (vget c.x.k 3 0) 62 2 ≠ 0) ∧
    (∃ c, srem.ctx? = some c ∧ ((storeOf (.sta (fmem 2 1))).isSome = true ∧ c.x.begun = none ∧ c.x.failed = [] ∧ (srem.core c.t.core).warpFault c.w = none ∧
      (storeData c 7 true false 2).toOption.isSome = true ∧ (srem.effWin (c.x.win 1)).remote = some 5)) :=
  ⟨ctx_with (by decide +kernel), ctx_with (by decide +kernel), ctx_with (by decide +kernel), ctx_with (by decide +kernel)⟩

/-- A load of the access warp into a3 whose bytes have arrived. -/
def pl : PendLoad := { tok := 9, w := aw, dst := .reg 3, ty := some 7, accs := [], need := [], data := 5, bad := [], faulted := [], gather := none }
/-- The access warp at a load word that has begun. -/
def sload : State := (sa.modWarp aw fun x => { x with begun := some (.load 9) }).modCore 0 fun c => { c with loads := [pl] }

theorem witness_LoadIntoRegister :
    (∃ c, sload.ctx? = some c ∧ ((loadOf (.lda (fmem 3 0))).any (·.1.regs) = true ∧ c.x.holdLd = [] ∧ c.x.begun = some (.load 9) ∧ c.t.core < 64 ∧
      (sload.core c.t.core).load? 9 = some pl ∧ pl.performed = true ∧ pl.bad = [])) ∧
    (∃ c, sa.ctx? = some c ∧ (c.x.holdLd = [] ∧ c.x.begun = none ∧ c.x.failed = [] ∧ (sa.core c.t.core).warpFault c.w = none ∧ (sa.core c.t.core).loads = [] ∧
      (sa.blockOf c).shm ≤ 1920 ∧ (∀ t < 32, mbit (c.x.active g0) t = true → sharedGood (sa.blockOf c) 1 (laneOff c 2 0 t) = true) ∧ Ty.mem 4 = true)) :=
  ⟨ctx_with (by decide +kernel), ctx_with (by decide +kernel)⟩

theorem witness_LoadIntoQueue :
    (∃ c, sa.ctx? = some c ∧ (c.x.holdLd = [] ∧ c.x.begun = none ∧ c.x.failed = [] ∧ (sa.core c.t.core).warpFault c.w = none ∧ (c.x.win 0).remote = none ∧
      (c.t.queues[0]?).any (fun q => q.isForward && !c.t.noConsumer q && decide (q.entries.length < q.depth)) = true ∧
      sa.memLanes c (fmem 1536 0) false .load false true ≠ [] ∧ chkFail (sa.memLanes c (fmem 1536 0) false .load false true) = none ∧
      chkFaults (sa.memLanes c (fmem 1536 0) false .load false true) = [] ∧
      sa.memLanes c { fmem 1536 0 with g := g1 } false .load false true = [] ∧
      (chkFail (sa.memLanes c { fmem 1536 0 with off := 2 } false .load false true)).isSome = true)) ∧
    (∃ c, (sa.modTeam 1 fun t => { t with queues := t.queues.map fun q => { q with depth := q.entries.length } }).ctx? = some c ∧
      (c.t.queues[0]?).any (fun q => decide (q.depth ≤ q.entries.length)) = true) ∧
    (∃ c, (sa.modWarp xw fun x => { x with ended := true }).ctx? = some c ∧ (c.t.queues[0]?).any (fun q => c.t.noConsumer q) = true) :=
  ⟨ctx_with (by decide +kernel), ctx_with (by decide +kernel), ctx_with (by decide +kernel)⟩

theorem witness_StoreWords :
    (∃ c, sa.ctx? = some c ∧ (c.x.holdLd = [] ∧ c.x.begun = none ∧ c.x.failed = [] ∧ (sa.core c.t.core).warpFault c.w = none ∧
      (storeData c 7 true false 2).toOption.isSome = true ∧ (sa.effWin (c.x.win 0)).remote = none ∧ chkFail (sa.memLanes c (fmem 2 0) false .store false true) = none ∧
      chkFaults (sa.memLanes c (fmem 2 0) false .store false true) = [] ∧ (storeBytesOf { img := 0, psec := 0, t := c.t } (sa.memLanes c (fmem 2 0) false .store false true)) ≠ [])) ∧
    (∃ c, sa.ctx? = some c ∧ (chkFail (sa.memLanes c (fsh 2) true .store false true) = none ∧ (sa.block? c.t.block).any (fun b => decide (b.shm ≤ 1920) &&
      b.shared.length == b.cores.length && (b.region 0).wf) = true)) ∧
    (∃ c, (sa.modTeam 1 fun t => { t with queues := t.queues.modify 1 fun q => { q with entries := [Entry.ready 3] } }).ctx? = some c ∧
      (storeData c 7 false true (fq 1)).toOption.isSome = true) ∧
    (∃ c, sa.ctx? = some c ∧ (match sa.releaseGate c 0 false with | .ok (.go _) => true | _ => false) = true) :=
  ⟨ctx_with (by decide +kernel), ctx_with (by decide +kernel), ctx_with (by decide +kernel), ctx_with (by decide +kernel)⟩

theorem witness_AccessTraps :
    (∃ c, sa.ctx? = some c ∧ ((storeData c 7 true false 2).toOption.isSome = true ∧ (chkFail (sa.memLanes c { fmem 2 0 with off := 2 } false .store false true)).isSome = true ∧
      (chkFail (sa.memLanes c { fmem 3 0 with off := 2 } false .load false true)).isSome = true)) ∧
    (∃ c, sa.ctx? = some c ∧ (sa.memLanes c { fmem 3 0 with off := 2 } false .load false true).head?.any (fun r => match r.res with | .error (.cause _ _) => true | _ => false) = true) :=
  ⟨ctx_with (by decide +kernel), ctx_with (by decide +kernel)⟩
/-- An atomic add at chip scope through window `tw`, its operand in a2. -/
def fat (d tw : Nat) : MemF := { fmem d tw with ty := 6, b := 2, scope := 2 }

theorem witness_AtomicWords :
    (∃ c, (sa.modWarp aw fun x => { x with begun := some (.atomic 9 0 5 [] none) }).ctx? = some c ∧ (c.x.holdLd = [] ∧ c.x.begun = some (.atomic 9 0 5 [] none) ∧
      (atomSource (fat 3 0)).toOption = some () ∧ ordAcq (fat 3 0).order = false ∧ (c.t.queues[0]?).any (fun q => q.isForward && !c.t.noConsumer q) = true)) ∧
    (∃ c, sa.ctx? = some c ∧ (c.x.holdLd = [] ∧ c.x.begun = none ∧ c.x.failed = [] ∧ (sa.core c.t.core).warpFault c.w = none ∧ c.t.core < 64 ∧
      (sa.effWin (c.x.win 0)).remote = none ∧ (c.x.win 0).remote = none ∧ ordRel (fat 3 0).order = false ∧
      chkFail (sa.memLanes c (fat 3 0) false .atomic true false) = none ∧ chkFaults (sa.memLanes c (fat 3 0) false .atomic true false) = [] ∧
      (chkPas (sa.memLanes c (fat 3 0) false .atomic true false)).length = 32 ∧ chkPas (sa.memLanes c { fat 3 0 with g := g1 } false .atomic true false) = [])) ∧
    (∃ c, sa.ctx? = some c ∧ ((c.t.queues[0]?).any (fun q => q.isForward && !c.t.noConsumer q && decide (q.entries.length < q.depth)) = true ∧ Fld.isK (fk 3) = true ∧
      c.x.active g1 = 0 ∧ lowestLane (c.x.active g0) = some 0 ∧
      (sa.checkWin (sa.spaceOf c.w.team) (c.x.win 0) .load (laneOff c 1 0 0 / 128 * 128) 128).toOption.any (fun p => isHbm (p.headD 0)) = true ∧
      vget c.x.k 4 0 &&& sa.coresOf c.t.task ≠ 0 ∧ vget c.x.k 9 0 &&& sa.coresOf c.t.task = 0)) ∧
    (∃ c, sa.ctx? = some c ∧ (fieldOf (lane (vget c.x.a 1 0) 0) 62 2 = 0 ∧ sa.links.domEn = false ∧ (c.t.queues[0]?).any Queue.takesRld = true)) ∧
    (∃ c, (srem.modWarp aw fun x => { x with a := vset x.a 1 (ofLanes fun _ => 5 * 2 ^ 52 + 64) }).ctx? = some c ∧ (fieldOf (lane (vget c.x.a 1 0) 0) 52 10 = 5 ∧
      srem.links.domEn = true ∧ srem.links.self.toNat ≠ 5 ∧ (srem.domResolve 5).1 = none)) :=
  ⟨ctx_with (by decide +kernel), ctx_with (by decide +kernel), ctx_with (by decide +kernel), ctx_with (by decide +kernel), ctx_with (by decide +kernel)⟩

theorem witness_CacheAndCodeWords :
    (∃ c, sal.ctx? = some c ∧ (c.x.holdLd = [] ∧ (c.x.win 0).remote = none ∧ c.x.begun = none ∧ sal.touchedLines c { fmem 0 0 with g := g1 } true = [] ∧
      (sal.core c.t.core).unacked = [] ∧ c.x.count ≤ c.x.slot + 1 ∧ c.x.cond g0 = true ∧ c.x.cond g1 = false ∧
      (match sal.releaseGate c 2 false with | .ok (.go _) => true | _ => false) = true ∧ Fld.isK (fk 2) = true ∧ Fld.isPred (fp 3) = true ∧
      (sal.block? c.t.block).any (fun b => b.inShared (vget c.x.k 3 0).toNat (vget c.x.k 2 0).toNat && b.inShared (vget c.x.k 1 0).toNat (vget c.x.k 2 0).toNat &&
        sal.sharedFits b (vget c.x.k 1 0).toNat && decide (b.shm ≤ 1920) && b.shared.length == b.cores.length && (b.region 0).wf) = true ∧
      (sal.task? c.t.task).any (fun k => decide (k.area < 16)) = true ∧ (vget c.x.k 3 0).toNat + (vget c.x.k 2 0).toNat ≤ 2 ^ 52)) ∧
    (∃ c, (sa.modWarp aw fun x => { x with begun := some .released }).ctx? = some c ∧ (c.x.begun = some .released ∧ c.x.holdSt = [])) ∧
    (∃ c, (sa.modWarp aw fun x => x.withK 5 (2 ^ 40)).ctx? = some c ∧ (2 ^ 21 < (vget c.x.k 5 0).toNat ∧ (vget c.x.k 2 0).toNat ≠ 0 ∧ (vget c.x.k 2 0).toNat ≤ 2 ^ 21 ∧
      (sa.blockOf c).inShared (vget c.x.k 5 0).toNat (vget c.x.k 2 0).toNat = false ∧ (sa.blockOf c).inShared (vget c.x.k 3 0).toNat (vget c.x.k 2 0).toNat = true ∧
      sa.sharedFits (sa.blockOf c) (vget c.x.k 5 0).toNat = false)) ∧
    (∃ c, (sa.modWarp aw fun x => (x.withK 5 0x30008).withK 6 (2 ^ 52 - 1)).ctx? = some c ∧ (c.x.holdLd = [] ∧ sa.gathering c.t.core c.w c.x = false ∧ c.x.cond g0 = true ∧
      (vget c.x.k 5 0).toNat = 0x30008 ∧ 0 < (vget c.x.k 2 0).toNat ∧ (vget c.x.k 5 0).toNat + (vget c.x.k 2 0).toNat ≤ 2 ^ 52 ∧
      (match sa.xlat (sa.spaceOf c.w.team).core (sa.spaceOf c.w.team).asid 0x30008 with | .leaf _ _ _ _ => true | _ => false) = true ∧
      2 ^ 52 < (vget c.x.k 6 0).toNat + (vget c.x.k 2 0).toNat)) :=
  ⟨ctx_with (by decide +kernel), ctx_with (by decide +kernel), ctx_with (by decide +kernel), ctx_with (by decide +kernel)⟩

theorem witness_QueueWords :
    (∃ c, sa.ctx? = some c ∧ ((c.t.queues[0]?).any (fun q => q.isForward && !c.t.noConsumer q && decide (q.entries.length < q.depth) && decide (q.depth < 2 ^ 9)) = true ∧
      (c.t.queues[1]?).any (fun q => q.isReturn && q.entries.isEmpty && !c.t.execEnded q.owner && decide (q.dir ≠ .forward)) = true ∧ c.t.queues[63]? = none ∧
      c.x.cond g0 = true ∧ c.x.cond g1 = false ∧ (c.t.queues[0]?).any (fun q => q.entries.all fun e => e.st != .issued && e.st != .pending) = true)) ∧
    (∃ c, (sa.modTeam 1 fun t => { t with queues := t.queues.modify 1 fun q => { q with entries := [Entry.ready 3] } }).ctx? = some c ∧
      (c.t.queues[1]?).any (fun q => q.isReturn && (q.entries.head?).any fun e => e.st == .ready && e.psec == 0) = true) ∧
    (∃ c, (sa.modTeam 1 fun t => { t with queues := t.queues.modify 1 fun q => { q with entries := [{ st := .poisoned .range, data := 0, psec := 0 }] } }).ctx? = some c ∧
      (c.t.queues[1]?).any (fun q => q.isReturn && (q.entries.head?).any fun e => e.st == .poisoned .range) = true) ∧
    (∃ c, (sa.modWarp xw fun x => { x with ended := true }).ctx? = some c ∧ (c.t.queues[1]?).any (fun q => q.isReturn && q.entries.isEmpty && c.t.execEnded q.owner) = true) :=
  ⟨ctx_with (by decide +kernel), ctx_with (by decide +kernel), ctx_with (by decide +kernel), ctx_with (by decide +kernel)⟩

/-- Group 3, with every team a member, whose instance 0 has completed with an error when `d`. -/
def grp (d : Bool) : Group := { gnum := 3, xmask := 0, amask := 1, emask := 0, results := if d then [true] else [], arrived := [], held := [] }

/-- The access warp in a block with that group. -/
def sbar (d : Bool) : State := { sa with hm := { sa.hm with blocks := sa.hm.blocks.map fun b => { b with groups := [grp d] } } }

theorem witness_BarrierWords :
    (∃ c, (sbar false).ctx? = some c ∧ (((sbar false).block? c.t.block).any (fun b => b.groups.find? (·.gnum == 3) == some (grp false) && (b.groups.find? (·.gnum == 4)).isNone) = true ∧
      (grp false).hasTeam (c.t.warps.length - 1) c.t.index = true ∧ c.x.cond g0 = true ∧ c.x.cond g1 = false ∧ (grp false).arrived.any (fun a => a.1 == .team c.t.index) = false ∧
      (match (sbar false).releaseGate c 0 false with | .ok (.go _) => true | _ => false) = true ∧ c.x.lastAt 3 = none)) ∧
    (∃ c, ((sbar true).modWarp aw fun x => { x with lastBar := [(3, 0)], begun := some .arrived }).ctx? = some c ∧ (c.x.lastAt 3 = some 0 ∧ (grp true).results[0]? = some true ∧
      c.x.begun = some .arrived)) ∧
    (∃ c, ((sbar true).modWarp aw fun x => { x with lastBar := [(3, 1)] }).ctx? = some c ∧ (c.x.lastAt 3 = some 1 ∧ (grp true).results[1]? = none)) :=
  ⟨ctx_with (by decide +kernel), ctx_with (by decide +kernel), ctx_with (by decide +kernel)⟩

theorem witness_SystemWords :
    (∃ c, sal.ctx? = some c ∧ (Fld.isK (fk 5) = true ∧ sysListed 0 = true ∧ sysListed 0x2f = true ∧ sysListed 15 = false ∧ (c.t.warps[0]?).isSome = true ∧ (c.t.warps[1]?).isSome = true ∧
      sal.quiet { team := c.w.team, idx := 1 } = true ∧ sal.quiet c.w = true ∧ c.x.cond g0 = true ∧ c.x.cond g1 = false ∧ c.x.count ≤ c.x.slot + 1 ∧
      vget c.x.k 9 0 = 0 ∧ vget c.t.eseq 0 0 = 0 ∧ vget c.t.edone 0 0 = 0)) ∧
    (∃ c, (sa.modTeam 1 fun t => { t with eseq := vset t.eseq 0 1 }).ctx? = some c ∧ (((vget c.x.k 4 0).truncate 32 - vget c.t.eseq 0 0).toNat = 0 ∧
      2 ^ 31 ≤ (vget c.t.edone 0 0 - (vget c.x.k 4 0).truncate 32).toNat)) ∧
    (∃ c, sa.ctx? = some c ∧ (1 ≤ ((vget c.x.k 4 0).truncate 32 - vget c.t.eseq 0 0).toNat ∧ ((vget c.x.k 4 0).truncate 32 - vget c.t.eseq 0 0).toNat < 2 ^ 31)) :=
  ⟨ctx_with (by decide +kernel), ctx_with (by decide +kernel), ctx_with (by decide +kernel)⟩

theorem witness_RegisterManagement :
    (∃ c, sx.ctx? = some c ∧ (1 < c.x.v.length ∧ Fld.isPred (fp 3) = true ∧ c.x.cond g0 = true ∧ c.x.cond g1 = false ∧ sx.quiet c.w = true ∧ c.w.idx ≠ 0 ∧
      sx.fieldsReady c 3 0 g0 [⟨2, false⟩] = true ∧ sx.srcsReady c (c.x.active g0) [⟨1, false⟩, ⟨2, false⟩] = true ∧
      (∀ t < 32, mbit (c.x.active g0) t = true → (lane (srcVal c 7 2 0) t).toNat = 3 ∧ (c.x.v[3]?).any (fun r => !r.released) = true ∧ sx.vBusy c 3 = false))) ∧
    (∃ c, (sx.modWarp xw fun x => x.withV 2 40).ctx? = some c ∧ (mbit (c.x.active g0) 0 = true ∧ c.x.v[(lane (srcVal c 7 2 0) 0).toNat]? = none)) ∧
    (∃ c, (sx.modWarp xw fun x => { x with v := x.v.modify 3 fun r => { r with released := true } }).ctx? = some c ∧
      (mbit (c.x.active g0) 0 = true ∧ (c.x.v[(lane (srcVal c 7 2 0) 0).toNat]?).any (·.released) = true)) :=
  ⟨ctx_with (by decide +kernel), ctx_with (by decide +kernel), ctx_with (by decide +kernel)⟩

/-- The execute warp in its handler, about to return to slot 0 of the clause at 0x80. -/
def seret (nxt rep : Nat) : State := (sl.modWarp xw fun x => { x with
  tinfo := vset (vset x.tinfo 0 (word (2 ^ 24 + nxt * 2 ^ 23 + rep * 2 ^ 25))) 1 0x80
  frame := some { m := 0xff, rpc := none, pstack := [], cstack := [], wrote := [] }
  code := some { va := 0x30080, pa := 0x30080, bytes := 0xf020000000000000, poison := 0, fail := false } })

theorem witness_HintAndTrapWords :
    (∃ c, sl.ctx? = some c ∧ (c.x.count ≤ c.x.slot + 1 ∧ c.x.cond g0 = true ∧ c.x.cond g1 = false ∧ c.x.inHandler = false)) ∧
    (∃ c, (sx.modWarp xw fun x => { x with code := some { va := 0x30080, pa := 0x30080, bytes := BitVec.ofNat 1024 (afterRep.toNat * 2 ^ 128), poison := 0, fail := false } }).ctx? = some c ∧
      (c.x.slot + 1 < c.x.count ∧ (sx.fetch c (c.x.hdr + 8 * (c.x.slot + 2))).2.toOption = some afterRep ∧ noRepOp (Dec.opcode afterRep) = false ∧
        stepsOk { n := 3, sd := 1, sa := 1, sb := 0, sc := 0 } afterRep = true)) ∧
    (∀ p ∈ [(0, 0), (1, 3), (1, 0)], ∃ c, (seret p.1 p.2).ctx? = some c ∧ (c.x.count ≤ c.x.slot + 1 ∧ c.x.inHandler = true ∧ c.x.frame.isSome = true ∧
      ((seret p.1 p.2).fetch c (fieldOf (vget c.x.tinfo 1 0) 0 32 : Nat)).2.toOption = some 0xf020000000000000 ∧
      fieldOf (0xf020000000000000 : Word) 60 4 = 15 ∧ fieldOf (vget c.x.tinfo 0 0) 32 4 < fieldOf (0xf020000000000000 : Word) 53 4 + 1)) := by
  refine ⟨ctx_with (by decide +kernel), ctx_with (by decide +kernel), fun p hp => ctx_with ?_⟩
  simp only [List.mem_cons, List.not_mem_nil, or_false] at hp
  rcases hp with h | h | h <;> subst h <;> decide +kernel
/-- The management controller of `base` changed. -/
def mg (f : Mgmt → Mgmt) : State := { base with mgmt := f base.mgmt }
/-- One island of `base` changed. -/
def isl (n : Nat) (f : Island → Island) : State := { base with islands := vset base.islands n (f (base.island n)) }

theorem witness_PowerEvents :
    (base.mgmt.capW.toNat < 2000 ∧ isOctet 1 = true ∧ isOctet 0 = false ∧ (base.island 1).st = .s0 ∧ 1 ∉ base.mgmt.capHeld ∧ base.busy 1 = true ∧ 600 ≤ base.mgmt.capW.toNat) ∧
    (let s := { isl 1 (fun i => { i with st := .s1 }) with mgmt := { base.mgmt with capHeld := [1] } }
     0 * 100 ≤ s.mgmt.capW.toNat * 95 ∧ s.mgmt.capHeld = 1 :: [] ∧ s.mgmt.thermHold = false ∧ (s.island 1).st = .s1) ∧
    (let s := { isl 7 (fun i => { i with st := .s0, idle := 10 ^ 12 }) with mgmt := { base.mgmt with eff := 0xffffffff } }
     s.busy 7 = false ∧ (s.island 7).wake = none ∧ (s.island 7).st.depth < (deepestWithin s.mgmt.eff.toNat).depth ∧
       4 * (deepestWithin s.mgmt.eff.toNat).latency ≤ (s.island 7).idle ∧ deepestWithin s.mgmt.eff.toNat = .s3 ∧ isMemIsland 5 = true) ∧
    ((base.island 7).wake = none ∧ base.mgmt.stage = .running ∧ (if base.held 7 then 1 else 0) < (base.island 7).st.depth ∧ (base.island 7).idle < 4 * (deepestWithin 0xffffffff).latency) ∧
    (((isl 7 fun i => { i with wake := some .s0 }).island 7).wake = some .s0 ∧ ((isl 7 fun i => { i with wake := some .s0 }).island 7).count.toNat < 2 ^ 64 - 1) ∧
    ((∃ c < 8, base.classPresent c = true) ∧ (mg fun m => { m with eff := 5 }).mgmt.eff.toNat < (base.island 7).st.latency ∧ base.held 7 = false) := by
  decide +kernel

/-- A slot that holds a valid image of 4,608 zero bytes. -/
def fslot (st : SlotState) (n : Nat) : FlashSlot := { st := st, bytes := [], written := [(0, n)] }

theorem witness_ResetEvents :
    (State.reset.mgmt.supplyOk = true ∧ (mg fun m => { m with supplyOk := false }).mgmt.supplyOk = false ∧ base.mgmt.stage ≠ .stopped ∧
      (mg fun m => { m with stage := .stopped }).mgmt.stage = .stopped ∧ base.mgmt.step = none ∧ ∀ n ∈ [1, 2, 3, 4, 5, 6, 7, 8], (mg fun m => { m with step := some n }).mgmt.step = some n) ∧
    ((base.hm.tasks.map (·.id)).Nodup ∧ (base.hm.teams.map (·.num)).Nodup) := by decide +kernel

/-- An image in hand. -/
def img : RunningImage := { slot := 0, svn := 3, fwmeas := [], aliasSeed := [], aliasCert := [1] }

theorem witness_MailboxEvents :
    (base.mgmt.mbRun = none ∧ (∀ n ∈ [1, 2, 3, 4, 5], fieldOf (word n) 8 8 = 0 ∧ mbArg0 (word n) = 0 ∧ mbArg1 (word n) = 0 ∧ mbCode (word n) = n) ∧ inStages [.running] base = true ∧
      inStages [.firmware, .running, .recovery] base = true ∧ inStages [.running, .recovery] base = true ∧ (mg fun m => { m with image := some img }).mgmt.image = some img) ∧
    (let w := word (0x10 + 1 * 2 ^ 16 + 4352 * 2 ^ 32)
     fieldOf w 8 8 = 0 ∧ mbCode w = 0x10 ∧ mbArg0 w = 1 ∧ mbArg1 w = 4352 ∧ (mg fun m => { m with image := some img }).mgmt.image.map (·.slot) ≠ some 1) ∧
    (let s := mg fun m => { m with slots := vset m.slots 1 (fslot (.loading 4352) 0) }
     let w := word (0x11 + 1023 * 2 ^ 16 + 64 * 2 ^ 32)
     mbCode w = 0x11 ∧ mbArg0 w < 1024 ∧ s.loadingSlot = some 1 ∧ (s.flash 1).st = .loading 4352 ∧ mbArg1 w + (mbArg0 w + 1) ≤ 4352 ∧ (s.flash 1).bytes.Pairwise (fun a b => a.1 < b.1)) ∧
    (let s := mg fun m => { m with slots := vset m.slots 1 (fslot (.loading 4352) 4352) }
     let w := word (0x12 + 1 * 2 ^ 16)
     mbCode w = 0x12 ∧ mbArg0 w = 1 ∧ mbArg1 w = 0 ∧ (s.flash 1).st = .loading 4352 ∧ (s.flash 1).written = [(0, 4352)]) ∧
    (mbCode 0x77 ∉ mbCodes ∧ (mg fun m => { m with mbRun := some { error := 0, out := [1] } }).mgmt.mbRun ≠ none ∧ (mg fun m => { m with stage := .recovery }).mgmt.stage = .recovery ∧
      base.mgmt.stage = .running ∧ mbCode (word (3 + 2 ^ 16)) = 3 ∧ mbArg0 (word (3 + 2 ^ 16)) ≠ 0) := by decide +kernel

/-- The links of `base` changed. -/
def lk (f : Links → Links) : State := { base with links := f base.links }
/-- Core 0 of `base` changed. -/
def c0 (f : Core → Core) : State := base.modCore 0 f

/-- An aperture read for load 9 of core 0, and one for a buffer. -/
def apr (d : ApDst) : ApRead := { tag := 4, pa := 0x6000000100, ba := 0x100100, len := 2, dst := d, sent := 0 }
/-- A load of two host bytes. -/
def hl : PendLoad := { pl with need := [{ pos := 0, pa := 0x6000000100 }, { pos := 1, pa := 0x6000000101 }], data := 0 }
/-- A remote access with tag 7. -/
def rem (op : RemoteOp) (tries : Nat) : Remote := { tag := 7, core := 0, w := aw, dev := 5, va := 0x1000, op := op, stok := some 3, sent := true, port := 3, tries := tries, last := 0 - 20000 }
/-- A lease that admits device requests to 0x40000. -/
def lea : Lease := { area := 0, id := 1, st := .active, ranges := [(0x40000, 0x10000)], rread := true, rwrite := true, ratomic := true, hold := false, relPend := false, pinned := 1, told := [], asid := 0 }

/-- Area 79's completion waits for a translation of its entry's page, which is host page 0x100. -/
def scpl : State :=
  let l : Links := { base.links with apEn := true, ats := true, atsAsked := [0x100] }
  { base.storeHome (cellsAt 0x28008 (leBytes 8 0xf000000007)) with links := l, areas := vset base.areas 79 { base.area 79 with kept := [{ bytes := cplEntry 0 0 0 0 0 0 0, now := false }], cplVa := 0x300, cplSize := 1 } }

theorem witness_LinkEvents :
    (64 + 8 ≤ 2 ^ base.links.bar2 ∧ 64 + 8 ≤ 0x6000000000 ∧ 0x6000000000 - 4 + 8 ≤ 2 ^ (lk fun l => { l with bar2 := 39 }).links.bar2 ∧ 0x6000000000 < 0x6000000000 - 4 + 8 ∧ base.mem.ram.wf = true ∧
      base.mem.ram.poisonedAt 64 = false ∧ ({ base.mem.ram with poison := [4] } : Ram).poisonedAt 64 = true ∧ 64 % 8 = 0 ∧ 3 % 8 ≠ 0) ∧
    (let s := (lk fun l => { l with apReads := [apr (.load 0 9)] }).modCore 0 fun c => { c with loads := [hl] }
     s.links.apReads.find? (·.tag == 4) = some (apr (.load 0 9)) ∧ (∀ l ∈ (s.core 0).loads, l.tok = 9 → l.gather = none) ∧
      (hl.tok = 9 ∧ hl.need = (List.range 2).map (fun i => { pos := i, pa := 0x6000000100 + i }) ∧ hl.data = 0) ∧
      50000000 ≤ (({ s.mgmt with count := 50000000 } : Mgmt).count - 0).toNat ∧ (s.mgmt.count - 0).toNat < 50000000) ∧
    ((lk fun l => { l with apReads := [apr (.buf .cont)] }).links.apReads.find? (·.tag == 4) = some (apr (.buf .cont))) ∧
    (let s := lk fun l => { l with apReads := [apr (.code aw 0x30080)] }
     s.links.apReads.find? (·.tag == 4) = some (apr (.code aw 0x30080)) ∧ (s.warp? aw).isSome = true) ∧
    (let s := lk fun l => { l with atsAsked := [0x100], apQueue := [apr (.buf .cont)], apWrites := [{ own := .unit, ba := 0x100100, bytes := [(0x6000000100, 1)] }] }
     0x100 ∈ s.links.atsAsked ∧ (∀ a < 80, s.cplPage a ≠ some 0x100) ∧ (∀ r ∈ s.links.apQueue, r.ba / 4096 = 0x100) ∧ ∀ w ∈ s.links.apWrites, w.ba / 4096 = 0x100) ∧
    (lk fun l => { l with apReads := [apr (.buf .cont)] }).links.apReads.any (fun r => r.ba / 4096 = 0x100) = true ∧
    (scpl.cplPage 79 = some 0x100 ∧ 0x100 ∈ scpl.links.atsAsked) ∧
    (let s := lk fun l => { l with remotes := [rem (.read 9 2) 0] }
     s.links.remote? 7 = some (rem (.read 9 2) 0) ∧ 20000 ≤ (s.mgmt.count - (rem (.read 9 2) 0).last).toNat ∧ (s.mgmt.count - s.mgmt.count).toNat < 20000) ∧
    (let s := lk fun l => { l with remotes := [rem (.read 9 2) 0], ports := vset l.ports 4 { up := true, llr := false, credit := false }, domCache := [{ dev := 5, ip := 0, ports := 0xffff, valid := true }] }
     (rem (.read 9 2) 0).sent = true ∧ (rem (.read 9 2) 0).port = 3 ∧ (s.domEntry 5).1.ports.getLsbD 4 = true ∧ (vget s.links.ports 4 EthPort.down).up = true ∧ s.upPorts (s.domEntry 5).1 = [4]) ∧
    ((lk fun l => { l with remotes := [rem (.write [1, 2] true) 7] }).links.remote? 7 = some (rem (.write [1, 2] true) 7) ∧ (rem (.write [1, 2] true) 7).stok = some 3) ∧
    (let s := (lk fun l => { l with remotes := [rem (.atomic 9 31 0 1 0) 6] }).modWarp aw fun x => { x with begun := some (.atomic 9 0x80000000 0 [] none) }
     s.links.remote? 7 = some (rem (.atomic 9 31 0 1 0) 6) ∧ (s.warp? aw).map (·.begun) = some (some (.atomic 9 0x80000000 0 [] none))) ∧
    (base.links.domEn = false ∧ FrameKind.other ≠ .uet) ∧
    (let s := { lk (fun l => { l with domEn := true }) with hm := { base.hm with leases := [lea] }, mem := { base.mem with domAsid := 0 } }
     ∀ op ∈ [DomOp.read 8, .write [1, 2, 3, 4, 5, 6, 7, 8] true, .swap 5],
       (s.domAccept { domid := 0, src := 5, tag := 1, va := 0x40000, op := op }).any (fun pas => pas.length == 8 && !s.mem.ram.poisonedAt (pas.headD 0) && decide pas.Nodup) = true) := by
  decide +kernel

/-- The memory registers of `base` changed. -/
def mm (f : MemSys → MemSys) : State := { base with mem := f base.mem }

/-- Slice 2 of `base` with a queue and a window. -/
def slc (q : List SliceReq) (w : List OpenWindow) : State := base.modSlice 2 fun x => { x with queue := q, windows := w }

/-- An atomic's lane: adds 1 to the u32 at 0x5000. -/
def el : AtomElem := { lane := 3, pa := 0x5000, ty := 6, op := 0, x := 1, e := 0 }

/-- A gather of its first lane by a load of core 0. -/
def gat : GatherReq := { core := 0, tok := 9, idx := (List.range 128).map (0x5000 + ·), esz := 4, len := 16, lanes := 1, win := { va := 0, pa := 0, limit := 0x200000, write := true, replica := false, remote := none, dom := false } }
/-- The load of that gather. -/
def gl : PendLoad := { pl with dst := .entry 0 0 0, gather := some gat, atSlice := true }
/-- Slice 2 with that gather, of a table of `n` elements. -/
def sgat (n : Nat) : State := (slc [.gather { gat with len := word n }] []).modCore 0 fun c => { c with loads := [gl] }

/-- The gather with a table at an address that nothing maps. -/
def gatX : GatherReq := { gat with win := { gat.win with va := 0x400000, limit := 0 } }
/-- Slice 2 with it, a fault ring, and no fault slot free on core 0. -/
def sgatX : State :=
  let f : FaultSlot := { page := { va := 0x800000, big := false }, asid := 0, kind := 0, team := 1, joined := [], recorded := true }
  let s := (slc [.gather gatX] []).modCore 0 fun c => { c with loads := [gl], faults := Vector.replicate 32 (some f) }
  let ks : List Task := s.hm.tasks.map fun k => { k with launch := { k.launch with demand := [(0x400000, 0x10000)] } }
  { s with hm := { s.hm with tasks := ks }, mem := { s.mem with fltBase := 0x110, fltSize := 1 } }

/-- A window of line 0x1000, filling or ready. -/
def win1 (f : Bool) : OpenWindow := { line := 0x1000, mask := 3, sectors := 5, tag := 2, toks := [9], filling := f }

/-- Slice 2 of `base` with one line, in a class that is dead in every phase. -/
def sdead : State := (mm fun m => { m with tide := some { map := [], ranks := [0] }, tideLevel := true }).modSlice 2 fun x => { x with lines := [{ pa := 0x1000, way := 0, cls := 0, valid := 0xff, dirty := 0 }] }

theorem witness_SliceEvents :
    (((slc [.load 1 0x1000 3 9] []).slice 2).queue = .load 1 0x1000 3 9 :: [] ∧ ((slc [.load 1 0x1000 3 9] []).slice 2).window? 0x1000 = none ∧
      ((slc [.load 1 0x1000 3 9] [win1 true]).slice 2).window? 0x1000 ≠ none ∧
      ((slc [.store 0 4 [[(0x1000, 1)], [(0x1001, 2)]] 0 0] []).slice 2).queue = .store 0 4 [[(0x1000, 1)], [(0x1001, 2)]] 0 0 :: [] ∧
      ((slc [.store 0 4 [[(0x1000, 1), (0x1001, 2)]] 1 1] []).slice 2).queue = .store 0 4 [[(0x1000, 1), (0x1001, 2)]] 1 1 :: [] ∧ base.mem.ram.wf = true ∧
      ([(0x1000, 1), (0x1001, 2)].map Prod.fst : List Nat).Nodup ∧ ((slc [.clean 63 4 0x1000] []).slice 2).queue = .clean 63 4 0x1000 :: []) ∧
    (((slc [.atomic 0 (.warp aw 9) [el]] []).modWarp aw fun x => { x with begun := some (.atomic 9 8 0 [] none) }).warp? aw).any (fun y => y.begun == some (.atomic 9 8 0 [] none)) = true ∧
    (((slc [.atomic 0 (.reg aw 9) [el]] []).modWarp aw fun x => { x with begun := some (.atomic 9 8 0 [] none) }).warp? aw).any (fun y => y.begun == some (.atomic 9 8 0 [] none)) = true ∧
    (slc [.atomic 0 (.reg aw 9) [el]] []).slices.all (fun x => atomFirst 9 x.queue) = true ∧
    (slc [.atomic 0 (.reg aw 9) [el], .store 0 4 [[(0x5000, 1)]] 0 0, .atomic 0 (.reg aw 9) [el]] []).slices.all (fun x => atomFirst 9 x.queue) = false ∧
    (slc [.atomic 0 (.reg aw 9) [el]] []).slices.toList.flatMap (fun x => atomElems 9 x.queue) = [el] ∧
    ({ base.mem.ram with poison := [0x500] } : Ram).poisonedAt el.pa = true ∧
    (((slc [.atomic 0 (.reg aw 9) [el]] []).modWarp aw fun x => { x with begun := some (.atomic 9 8 0 [(1, .uncorrectable)] none) }).warp? aw).any
      (fun y => y.begun == some (.atomic 9 8 0 [(1, .uncorrectable)] none)) = true ∧
    (base.mem.ram.rmw el).isSome = true ∧ (base.mem.ram.rmw { el with pa := 0x5008 }).isSome = true ∧
    (({ base.mem.ram with poison := [0x500] } : Ram).rmw el).isNone = true ∧
    ((slc [.reduce 63 4 [el]] []).slice 2).queue = .reduce 63 4 [el] :: [] ∧
    (((sgat 0).slice 2).queue = .gather { gat with len := 0 } :: [] ∧ ((sgat 0).core 0).load? 9 = some gl ∧
      gat.idx.any base.mem.ram.poisonedAt = false ∧ gl.atSlice = true ∧ gat.esz ≤ 8 ∧
      ((sgat 16).core 0).load? 9 = some gl ∧ (sgat 16).gatherFits gat gl (fun i => leNat (((gat.idx.drop (4 * i)).take 4).map (readCell (sgat 16).mem.ram.cells))) = true ∧
      ((sgat 16).checkWin ((sgat 16).spaceOf gl.w.team) gat.win .load 0 4).toOption.any (fun pas => isHbm (pas.headD 0)) = true) ∧
    gat.idx.any ({ base.mem.ram with poison := [0x500] } : Ram).poisonedAt = true ∧
    ((sgatX.core 0).load? 9 = some gl ∧ sgatX.gatherFits gatX gl (fun _ => 0) = false) ∧
    ((slc [.elem 0 9 [{ pos := 0, pa := 0x5000 }]] []).slice 2).queue = .elem 0 9 [{ pos := 0, pa := 0x5000 }] :: [] ∧
    (((slc [] [win1 true]).slice 2).window? 0x1000).any (·.filling) = true ∧ (((slc [] [win1 false]).slice 2).window? 0x1000).any (fun w => !w.filling) = true ∧
    ((sdead.slice 2).lines.find? (fun l => sdead.mem.rankOf (sdead.slice 2).phase l.cls == 0 && ((sdead.slice 2).window? l.pa).isNone)).isSome = true ∧
    (let r : Reply := { mask := 1, line := 0x1000, codes := 0, tag := 0, poison := 0, literals := [], toks := [9] }
     let a : Arrival := { r := r, stored := [], skip := 0 }
     ((c0 fun c => { c with arriving := [a] }).core 0).arriving[0]? = some a) ∧
    (let x : L1Line := { pa := 0x1000, way := 0, valid := 0xff, dirty := 3, poison := 0, data := 0, dirtyAt := 0 }
     x ∈ ((c0 fun c => { c with l1 := [x] }).core 0).l1 ∧ x.dirty ≠ 0) ∧ (base.core 0).l1 = [] ∧
    (let u : StoreTok := { tok := 4, w := some aw, done := true, remote := false }
     ((c0 fun c => { c with unacked := [u] }).core 0).unacked.find? (·.done) = some u) ∧
    isHbm 0 = true ∧ isHbm 0x5fffffff80 = true ∧ ((base.slice (sliceOf 0)).line? 0).isNone = true := by
  decide +kernel

/-- The image of a tide table of no class, one phase, at 0x100000. -/
def tideCells : List Host.Cell := cellsAt 0x100000 (leBytes 3 0x010001)

/-- A fault of the access warp at `va`, in slot 31 of core 0. -/
def flt (va : Nat) : FaultSlot := { page := { va := va, big := false }, asid := 0, kind := 0, team := 1, joined := [.warp aw .load], recorded := false }
/-- `base` with that fault and a fault ring at 0x110000. -/
def sflt (va : Nat) : State := (mm fun m => { m with fltBase := 0x110, fltSize := 1 }).modCore 0 fun c => { c with faults := vset c.faults 31 (some (flt va)) }

theorem witness_MemoryRegisterEvents :
    (let m (s : State) : MemSys := { s.mem with tideLoading := true, tideFrom := 0x100 }
     (m base).tideLoading = true ∧ ((m (base.storeHome tideCells)).ram.tideImage ((m base).tideFrom.toNat * 4096)).isSome = true ∧ ((m base).ram.tideImage ((m base).tideFrom.toNat * 4096)).isNone = true) ∧
    (match base.walk (BitVec.ofNat 12 0) 0x40000 with | .leaf _ _ _ _ => true | _ => false) = true ∧ base.walk (BitVec.ofNat 12 0) (2 ^ 52 - 1) = .absent ∧
    (match (base.coreWalk 0 (BitVec.ofNat 12 0) 0x40000).res with | .leaf _ _ _ _ => true | _ => false) = true ∧ (base.coreWalk 63 (BitVec.ofNat 12 0) (2 ^ 52 - 1)).res = .absent ∧
    ((mm fun m => { m with tlbReqs := [{ v := 0xc000, tok := 5 }] }).settledBefore 5 = true ∧ fieldOf 0xc000 14 2 = 3) ∧
    (c0 fun c => { c with unacked := [{ tok := 4, w := some aw, done := false, remote := false }] }).settledBefore 5 = false ∧
    ((∀ va ∈ [0x40000, 0x400000], (sflt va).faultAt (fieldOf 31 0 16 / 32) (fieldOf 31 0 16 % 32) = some (flt va)) ∧ ((sflt 0x40000).warp? aw).isSome = true ∧
      fieldOf 31 16 2 = 0 ∧ fieldOf (word (31 + 2 ^ 16)) 16 2 = 1 ∧ fieldOf (word (31 + 2 ^ 16)) 0 16 = 31 ∧
      (sflt 0x40000).stillFaults 0 (flt 0x40000) 1 .load = none ∧ (sflt 0x400000).stillFaults 0 (flt 0x400000) 1 .load = some 0) ∧
    (let s := (sflt 0x40000).modCore 0 fun c => { c with loads := [{ pl with faulted := [{ pos := 0, va := 0x40000, size := 4, dom := false }] }], faults := vset c.faults 31 (some { flt 0x40000 with joined := [.load 9] }) }
     (s.faultAt 0 31).map (·.joined) = some [.load 9] ∧ (s.core 0).loads.any (fun l => l.tok == 9 && l.faulted.any fun a => a.touches { va := 0x40000, big := false }) = true) ∧
    base.faultAt 0 0 = none ∧ base.faultAt 63 31 = none ∧
    ((sflt 0x40000).unrecorded = some (0, 31, flt 0x40000) ∧ (sflt 0x40000).noRing = false ∧ (sflt 0x40000).mem.ram.wf = true ∧
      ((sflt 0x40000).mem.fltTail - (sflt 0x40000).mem.fltHead).toNat < ringSize (sflt 0x40000).mem.fltSize.toNat) ∧
    base.unrecorded = none := by
  decide +kernel

/-- A code object at 0x30000 whose first clause is at 0x80, and a launch record of one block of it at 0x100000. -/
def codeCells : List Host.Cell :=
  cellsAt 0x30000 (leBytes 4 0x4b424d4f ++ leBytes 4 1 ++ leBytes 8 0x100) ++ cellsAt 0x30080 (leBytes 8 0xf000000000000000)
/-- That record's words. -/
def rec1 : Vector Word 8 := #v[0x0100000000030000, 0x0000008000000080, 0, 0, 0x0000000001000001, 0, 0, 0]
/-- The record of a word 0. -/
def recCells (w : Nat) : List Host.Cell := cellsAt 0x100000 (leBytes 8 w ++ leBytes 8 0x0000008000000080 ++ leBytes 16 0 ++ leBytes 8 0x01000001 ++ leBytes 24 0)
/-- `base` whose area 79 has one record, of that word 0, at page `p`. -/
def srec (p : Nat) (w : Nat) : State :=
  ((base.storeHome codeCells).storeHome (recCells w)).modArea 79 fun x => { x with en := true, subVa := BitVec.ofNat 40 p, subTail := 1 }

/-- Area 79 of `base` changed. -/
def ar (f : Area → Area) : State := base.modArea 79 f
/-- The lease 1 of area 0 of `base`, of two pages. -/
def sle (st : LeaseState) (va : Nat) : State :=
  { base with hm := { base.hm with
    leases := [{ lea with st := st, ranges := [(va, 0x20000)] }], tasks := base.hm.tasks.map fun k => { k with record := vset k.record 6 1 } } }

theorem witness_RecordEvents :
    ((srec 0x100 0).mgmt.stage = .running ∧ ((srec 0x100 0).area 79).en = true ∧ ((srec 0x100 0).area 79).halted = false ∧
      ((srec 0x100 0).area 79).subHead ≠ ((srec 0x100 0).area 79).subTail ∧ ((srec 0x100 0).area 79).kept.length < 64) ∧
    (srec 0x10000 0).hmGet (.area 79) ((srec 0x10000 0).area 79).asid ((srec 0x10000 0).area 79).recordVa 64 = .fail ∧
    (match (srec 0x100 0).hmGet (.area 79) ((srec 0x100 0).area 79).asid ((srec 0x100 0).area 79).recordVa 64 with
      | .bytes b => decide (recFld (recOf b) 0 56 8 = 0) | _ => false) = true ∧
    (match (srec 0x100 (2 ^ 57)).hmGet (.area 79) ((srec 0x100 (2 ^ 57)).area 79).asid ((srec 0x100 (2 ^ 57)).area 79).recordVa 64 with
      | .bytes b => decide (1 < recFld (recOf b) 0 56 8) | _ => false) = true ∧
    (match (srec 0x100 0x0100000000030000).hmGet (.area 79) ((srec 0x100 0x0100000000030000).area 79).asid ((srec 0x100 0x0100000000030000).area 79).recordVa 64 with
      | .bytes b => decide (recOf b = rec1) && fieldOf (vget (recOf b) 6 0) 0 12 == 0 | _ => false) = true ∧
    (match (srec 0x100 0x0100000000030000).checkRecord (.area 79) 79 ((srec 0x100 0x0100000000030000).area 79).asid rec1 with | .ok _ => true | _ => false) = true ∧
    base.recRoom false = true ∧
    (base.area 79).en = false ∧ (ar fun x => { x with halted := true }).area 79 ≠ base.area 79 ∧ (base.area 79).subHead = (base.area 79).subTail := by
  decide +kernel

/-- With as many tasks of records as the slots that spawned records leave, no slot is free. -/
theorem witness_RecordFull : ({ base with hm := { base.hm with tasks := List.replicate 4096 (fetchTask base) } } : State).recRoom false = false := by
  simp only [State.recRoom]
  have h : ((List.replicate 4096 (fetchTask base)).filter fun t => t.spawned == false).length = 4096 := by
    rw [List.filter_eq_self.mpr (by intro a ha; rw [List.eq_of_mem_replicate ha]; rfl), List.length_replicate]
  show decide (((List.replicate 4096 (fetchTask base)).filter fun t => t.spawned == false).length < _) = false
  rw [h]; decide +kernel

theorem witness_HostRegisterEvents :
    ((sle .walking 0x40000).lease? 0 1).any (fun l => l.st == .walking && leasePage l.ranges l.pinned == some 0x50000 && leasePage l.ranges (l.pinned + 1) == none) = true ∧
    (sle .walking 0x40000).hm.tasks.any (fun k => k.area == 0 && k.lease == 1) = true ∧
    (match (sle .walking 0x40000).walk 0 0x50000 with | .leaf f big _ _ => isHbm (leafPa f big 0x50000) | _ => false) = true ∧
    (((sle .walking 0x400000).lease? 0 1).any (fun l => leasePage l.ranges l.pinned == some 0x410000) = true ∧ (sle .walking 0x400000).walk 0 0x410000 = .absent) ∧
    (((sle .held 0x40000).lease? 0 1).any (·.st == .held) = true ∧ ((sle .active 0x40000).lease? 0 1).any (·.st == .active) = true ∧ fieldOf 1 12 4 = 0 ∧ fieldOf 1 0 12 = 1) ∧
    (ringSize (base.area 79).subSize.toNat < ((200 : BitVec 32) - (base.area 79).subHead).toNat ∧ ((64 : BitVec 32) - (base.area 79).subHead).toNat ≤ ringSize (base.area 79).subSize.toNat) ∧
    ((0 : Word).getLsbD 0 = false ∧ ((ar fun x => { x with en := true }).area 79).en = true ∧ areaFn 79 = .vf 16 ∧ areaFn 15 ≠ .vf 1) ∧
    (base.area 79).kept = [] ∧ (((ar fun x => { x with msgDue := true }).area 79).msgDue = true ∧ base.mayMessage (base.area 79).msgAt = true) ∧
    ((mm fun m => { m with fltMsg := true }).mem.fltMsg = true ∧ base.mayMessage base.mem.fltMsgAt = true) ∧
    (let s := { base with hm := { base.hm with parkMsg := true } }
     s.hm.parkMsg = true ∧ s.mayMessage s.hm.parkMsgAt = true) ∧
    mbCode 3 = 3 ∧ (1 ≤ fieldOf 6 0 8 ∧ fieldOf 6 0 8 ≤ 6) ∧ (base.area 15).en = false := by
  decide +kernel

/-- `base` with a request in task_ctl. -/
def sctl (v : Nat) : State := { base with hm := { base.hm with ctl := [{ fn := .pf, v := word v }], saveSize := 1 } }
/-- `base` whose task waits for its first block, or has none waiting. -/
def sque : State := { base with hm := { base.hm with tasks := base.hm.tasks.map fun k => { k with st := .queued, next := 0, record := vset k.record 4 0x01000001 } } }
/-- The team of `base` changed. -/
def tm (f : Team → Team) : State := base.modTeam 1 f
/-- A command of the team. -/
def cm (e : Nat) (st : CmdState) : Cmd :=
  { e := e, seq := 5, q := rec1, pre := [], badPre := false, after := [], ord := 1, st := st, suspended := false, failed := false, holding := false, heldAt := 0 }
/-- The team being restored from an image beyond the save store. -/
def srst : State := tm fun t => { t with st := .restoring, saveRun := some (2 ^ 60, 65536) }
/-- The team saved, in a block with no shared memory. -/
def ssav : State := { tm (fun t => { t with st := .saved }) with hm := { (tm fun t => { t with st := .saved }).hm with blocks := base.hm.blocks.map fun b => { b with shm := 0 } } }
/-- `sque` when its task has waited. -/
def sage : State := { sque with mgmt := { sque.mgmt with count := 10 ^ 12 } }
/-- The access warp waits on its fault. -/
def spark : State := (sflt 0x400000).modWarp aw fun x => { x with stall := some (.fault 0 31 0) }

/-- `base` whose record lets its one-team blocks be discarded. -/
def sdis : State := { base with hm := { base.hm with tasks := base.hm.tasks.map fun k => { k with record := vset k.record 6 (2 ^ 23) } } }
/-- `base` when the last warp of its team has ended. -/
def send : State := tm fun t => { t with warps := t.warps.map fun x => { x with ended := true } }
/-- `sque` whose record's place is beyond the record store. -/
def slost : State := { sque with hm := { sque.hm with tasks := sque.hm.tasks.map fun k => { k with slot := some (2 ^ 20) } } }

theorem witness_SchedulerRequests :
    (∀ op ∈ [1, 3, 4, 5], fieldOf (word op) 0 8 = op ∧ (sctl op).ctlTeam { fn := .pf, v := word op } = none) ∧
    fieldOf (word 2) 0 8 = 2 ∧
    (∀ op ∈ [1, 3, 4, 5, 6], fieldOf (word (op + 2 ^ 32)) 0 8 = op ∧ ((sctl (op + 2 ^ 32)).ctlTeam { fn := .pf, v := word (op + 2 ^ 32) }).any (fun k => k.preemptable && !k.ending && k.task == 0) = true) ∧
    (sdis.ctlTeam { fn := .pf, v := word (5 + 3 * 2 ^ 11 + 2 ^ 32) }).any (fun k => k.preemptable && (sdis.block? k.block).isSome) = true ∧ fieldOf (word (5 + 3 * 2 ^ 11 + 2 ^ 32)) 11 2 = 3 ∧
      fieldOf (word (5 + 3 * 2 ^ 11 + 2 ^ 32)) 0 8 = 5 ∧ (sdis.task? 0).any (fun x => (vget x.record 6 0).getLsbD 23 && x.tpb == 1) = true ∧
    (send.ctlTeam { fn := .pf, v := word (4 + 2 ^ 32) }).any (fun k => k.ending) = true ∧ fieldOf (word (4 + 2 ^ 32)) 0 8 = 4 ∧
    (base.task? 0).any (fun x => x.launch.liveCnt == 0) = true ∧
    (∀ op ∈ [5, 6], fieldOf (word (op + 2 ^ 11)) 11 2 = 1) ∧ fieldOf (word (5 + 2 ^ 12)) 11 2 = 2 ∧
    (((sctl 5).team? 1).any fun k => ((sctl 5).saveRun ((sctl 5).saveMax k)).isSome) = true ∧ (base.hm.teams.map (·.num)).Nodup := by
  decide +kernel

theorem witness_SchedulerEvents :
    (sque.mgmt.stage = .running ∧ sque.cands.head?.any (fun h => h.kind == .block 0 && (sque.task? h.task).isSome && (sque.fitOn h [] [] sque.coreAwake).isSome && (sque.task? h.task).any sque.recordKept) = true) ∧
    (slost.mgmt.stage = .running ∧ slost.cands.head?.any (fun h => h.kind == .block 0 && (slost.fitOn h [] [] slost.coreAwake).isSome && (slost.task? h.task).any fun k => !slost.recordKept k) = true) ∧
    (ssav.cands.head?.any (fun h => h.kind == .alone && h.teams == [1] && (ssav.fitOn h [] [] ssav.coreAwake).any (fun f => f.cores.length == 1)) = true) ∧
    base.cands = [] ∧ State.reset.mgmt.stage ≠ .running ∧
    (sage.task? 0).any (fun k => k.cand.isSome && decide (k.level < 16) && decide (sage.ageNs ≤ (sage.mgmt.count - k.since).toNat)) = true ∧
    ((tm fun t => { t with st := .saving, flushed := true }).team? 1).any (fun k => k.st == .saving && (tm fun t => { t with st := .saving, flushed := true }).saveReady k && k.flushed &&
      k.warps.head?.any (fun x => x.holdSt.isEmpty)) = true ∧ base.links.apWrites = [] ∧
    ((tm fun t => { t with st := .saving, cmds := [cm 0 (.running (.copy 0))] }).team? 1).any (fun k => !(tm fun t => { t with st := .saving, cmds := [cm 0 (.running (.copy 0))] }).saveReady k &&
      (k.cmds.find? fun c => c.e == 0 && !c.suspended && (match c.st with | .running p => c.suspends p | _ => false)) == some (cm 0 (.running (.copy 0)))) = true ∧
    ((tm fun t => { t with st := .saving, cmds := [cm 0 (.running (.copy 300))] }).team? 1).any (fun k => k.cmds.all fun c => match c.st with | .running p => !c.suspends p | _ => true) = true ∧
    (srst.team? 1).any (fun k => k.st == .restoring && k.loads.isEmpty && k.faults.isEmpty && !srst.imageKept k && (srst.task? k.task).isSome) = true ∧
    ((tm fun t => { t with saveRun := some (0, 65536) }).team? 1).any (fun k => k.saveRun == some (0, 65536)) = true ∧
    ((tm fun t => { t with st := .restoring }).team? 1).any (fun k => k.st == .restoring && k.loads.isEmpty && k.faults.isEmpty && k.parks.isEmpty && (tm fun t => { t with st := .restoring }).imageKept k) = true ∧
    (spark.team? 1).any (fun k => k.st == .resident && ((k.warps.zipIdx.filterMap fun x => spark.parkCond k x.2 x.1).find? (fun p => !k.parks.contains p)).isSome) = true := by
  decide +kernel

/-- The team parked for a second by reason 3, with a park handler at `h`. -/
def sto (h : Nat) : State :=
  let s := tm fun t => { t with st := .parked, parks := [{ reason := 3, fid := 0, code := 0 }], parkNs := 10 ^ 9 }
  { s with hm := { s.hm with parkTo := 1, tasks := s.hm.tasks.map fun k => { k with launch := { k.launch with parkh := h } } } }

/-- The team whose spawn command waits, with the record's code object in memory. -/
def sspn : State := (base.storeHome codeCells).modTeam 1 fun t => { t with cmds := [cm 4 .queued] }

theorem witness_SchedulerEnds :
    (∀ h ∈ [0, 0x80], ((sto h).team? 1).any (fun k => k.st == .parked && decide ((sto h).hm.parkTo.toNat * 1000000 ≤ (sto h).parkedNs k) && !k.parks.isEmpty &&
      k.parks.all (fun p => p.reason == 3) && ((sto h).task? k.task).any (fun x => x.launch.parkh == h) && k.warps.head?.isSome) = true ∧ (sto h).hm.parkTo ≠ 0) ∧
    ((tm fun t => { t with flushed := true, warps := t.warps.map fun x => { x with ended := true } }).team? 1).any (fun k => k.st == .resident && k.warps.all (·.ended) &&
      k.cmds.all (fun c => c.e == 4) && k.flushed && k.warps.head?.any (fun x => x.holdSt.isEmpty)) = true ∧
    (sspn.team? 1).any (fun k => k.head 4 == some (cm 4 .queued) && sspn.afterDone k (cm 4 .queued)) = true ∧ (sspn.task? 0).isSome = true ∧
    (match sspn.checkRecord (.spawn 1 5) 0 0 rec1 with | .ok _ => true | _ => false) = true ∧ sspn.recRoom true = true ∧ fieldOf (vget rec1 6 0) 0 12 = 0 ∧
    (match sspn.checkRecord .cont 0 (BitVec.ofNat 12 0) rec1 with | .ok _ => true | _ => false) = true := by
  decide +kernel

/-- `base` whose team runs one command of engine `e`, its words `q`, at progress `p`; the engines of core 0 hold it. -/
def run (e : Nat) (q : Vector Word 8) (p : Progress) : State :=
  (base.modTeam 1 fun t => { t with cmds := [{ cm e (.running p) with q := q }] }).modCore 0 fun k => { k with copyCmd := [(1, 5)], lightCmd := some (1, 5) }

/-- A Lighter program of four words that has begun: s1 a mapped address, s2 an unmapped one. -/
def m0 : Lighter :=
  { prog := [0, 0, 0, 0], s := vset (vset (Vector.replicate 16 0) 1 0x40000) 2 0x8000000000000, tile := [0, 0], tpois := [none, none], mask := 0, tileNo := 0, recov := 3, pc := 0
    run := 0, errors := 0, err := none }
/-- A Lighter command of queue 2 with an error area for one record at `area`. -/
def lq (area : Nat) : Vector Word 8 := #v[1, 0, 0x40000, word (2 + 2 ^ 48), 0, 0, 0, word area]
/-- The Lighter of core 0 at that program. -/
def slt (area : Nat) : State := { run 1 (lq area) (.lighter m0) with cur := some (.lighter 0) }
/-- Its command. -/
def lc (area : Nat) : Cmd := { cm 1 (.running (.lighter m0)) with q := lq area }

/-- What an engine read gave. -/
def gaveBytes (bad : Bool) (n : Nat) : EngGot → Bool
  | .bytes bs => bs.length == n && bs.any (·.2) == bad
  | _ => false
/-- An engine read that failed. -/
def gaveFail : EngGot → Bool
  | .fail _ => true
  | _ => false
/-- An engine read that met a page not present. -/
def gaveFault : EngGot → Bool
  | .fault _ _ => true
  | _ => false

theorem witness_LighterWords :
    ((slt 0).lighter?.any (fun y => y.2.1 == lc 0 && y.2.2 == m0) = true ∧ m0.err = none ∧ fieldOf (vget (lc 0).q 3 0) 16 32 = 0 ∧ m0.run < 2 ^ 32) ∧
    (0 ≤ m0.pc ∧ m0.pc < m0.prog.length) ∧
    (vget m0.s 0 0 = vget m0.s 3 0 ∧ vget m0.s 0 0 ≠ vget m0.s 1 0 ∧ (vget m0.s 0 0).toNat < (vget m0.s 1 0).toNat ∧ (vget m0.s 0 0).toNat ≤ (vget m0.s 0 0).toNat) ∧
    (gaveBytes false 8 ((slt 0).engRead (.cmd 1 1 5) ((slt 0).spaceOf 1) 0x40000 8) = true ∧
      gaveBytes true 8 ((({ slt 0 with mem := { (slt 0).mem with ram := { (slt 0).mem.ram with poison := [0x4000] } } }) : State).engRead (.cmd 1 1 5) ((slt 0).spaceOf 1) 0x40000 8) = true ∧
      gaveFail ((slt 0).engRead (.cmd 1 1 5) ((slt 0).spaceOf 1) 0x8000000000000 8) = true) ∧
    (32 ≤ (vget m0.s 1 0).toNat ∧ (vget m0.s 0 0).toNat < 32 ∧ (vget m0.s 0 0).toNat + 8 ≤ 8 * m0.tile.length ∧ m0.tpois.length = m0.tile.length) ∧
    (16 * fieldOf (vget (lc 0).q 7 0) 4 48 = 0 ∧ 16 * fieldOf (vget (lc 0x50000).q 7 0) 4 48 ≠ 0 ∧ m0.errors < fieldOf (vget (lc 0).q 3 0) 48 16 ∧
      ((slt 0x50000).checkTlb ((slt 0x50000).spaceOf 1) .store 0x50000 16).toOption.isSome = true) ∧
    (((slt 0).team? 1).any (fun t => ((slt 0).engPush t 2 [Entry.ready 1, Entry.ready 2, Entry.ready 3]).isSome) = true ∧
      (((slt 0).modTeam 1 fun t => { t with queues := t.queues.map fun q => { q with depth := 1 } }).team? 1).any (fun t =>
        (((slt 0).modTeam 1 fun t => { t with queues := t.queues.map fun q => { q with depth := 1 } }).engPush t 2 [Entry.ready 1, Entry.ready 2, Entry.ready 3]).isNone) = true) := by
  decide +kernel

/-- A walk of key 0 that has begun: w1 a node's address, w2 one that is not aligned, w3 one in no range. -/
def wk (buf : Option (List Byte)) (count : Nat) : Walk :=
  { key := 0, w := #v[0, 0x40000, 0x40008, 0x8000000000000, 0, 0, 0, 0], started := true, steps := 0, node := 0x40000, buf := buf, pc := 0, count := count, out := none, failed := false }
/-- A Pilot program of four words with that walk. -/
def pr (w : Walk) : PilotRun := { prog := [0, 0, 0, 0], next := 1, walks := [w], done := 0, limits := 0, faults := 0 }
/-- A Pilot command of queue 3 with nodes of 16 bytes and eight steps, waiting on faults when `f`. -/
def pq (f : Nat) : Vector Word 8 := #v[1, 0, 0x40000, 0x40000, word (3 + 8 * 2 ^ 16 + f * 2 ^ 34), 0, 0, 0]
/-- That walk current. -/
def spl (f : Nat) (w : Walk) : State := { run 2 (pq f) (.pilot (pr w)) with cur := some (.pilot 1 5 0) }
/-- With no page mapped and a fault ring. -/
def spa (f : Nat) : State := { (spl f (wk (some (List.replicate 16 0)) 0)).storeHome (cellsAt 0x28000 (leBytes 8 0)) with mem := { ((spl f (wk (some (List.replicate 16 0)) 0)).storeHome (cellsAt 0x28000 (leBytes 8 0))).mem with fltBase := 0x110, fltSize := 1 } }

theorem witness_PilotWords :
    ((spl 0 (wk none 0)).pilot?.any (fun y => y.2.2.2 == wk none 0 && y.2.1.q == pq 0) = true ∧ (spl 0 (wk none 256)).pilot?.any (fun y => decide (256 ≤ y.2.2.2.count)) = true ∧
      ((spa 1).pilot?.isSome = true)) ∧
    (16 * 2 ^ fieldOf (vget (pq 0) 4 0) 32 2 = 16 ∧ fieldOf (vget (pq 0) 4 0) 16 16 = 8 ∧ fieldOf (vget (pq 0) 4 0) 34 1 = 0 ∧ fieldOf (vget (pq 1) 4 0) 34 1 = 1) ∧
    ((255 : BitVec 8).toNat + 2 ^ (0 : BitVec 2).toNat > 16 ∧ (15 : BitVec 8).toNat + 2 ^ (0 : BitVec 2).toNat ≤ 16) ∧
    (vget (wk none 0).w 0 0 = 0 ∧ (vget (wk none 0).w 1 0).toNat % 16 = 0 ∧ (vget (wk none 0).w 2 0).toNat % 16 ≠ 0 ∧ (wk none 0).steps ≠ 8 ∧ ({ wk none 0 with steps := 8 } : Walk).steps = 8) ∧
    (gaveBytes false 16 ((spl 0 (wk none 0)).engRead (.walk 1 5 0) ((spl 0 (wk none 0)).spaceOf 1) 0x40000 16) = true ∧
      gaveFail ((spl 0 (wk none 0)).engRead (.walk 1 5 0) ((spl 0 (wk none 0)).spaceOf 1) 0x8000000000000 16) = true ∧
      gaveFault ((spa 0).engRead (.walk 1 5 0) ((spa 0).spaceOf 1) 0x40000 16) = true ∧ (spa 1).noRing = false ∧
      ((spa 1).raiseFault ((spa 1).spaceOf 1) 1 { va := 0x40000, big := false } 0 (.walk 1 5 0 .load)).isSome = true) ∧
    (((spl 0 (wk none 0)).checkTlb ((spl 0 (wk none 0)).spaceOf 1) .store 0x40000 8).toOption.isSome = true ∧
      (match (spl 0 (wk none 0)).checkTlb ((spl 0 (wk none 0)).spaceOf 1) .store 0x8000000000000 8 with | .error (.cause _ _) => true | _ => false) = true ∧
      (match (spa 0).checkTlb ((spa 0).spaceOf 1) .store 0x40000 8 with | .error (.fault _ _) => true | _ => false) = true) ∧
    (wk (some (List.replicate 16 0)) 0).buf = some (List.replicate 16 0) := by
  decide +kernel

/-- `base` with code in memory, every clause's header ready to be fetched. -/
def scode : State := base.storeHome codeCells
/-- Core 0's port 0 of the access warps held by the access warp, with a stall when `b`. -/
def sheld (b : Bool) : State := (base.modCore 0 fun c => { c with tender := vset c.tender 0 (some aw) }).modWarp aw fun x => { x with stall := if b then some (.pushQ 0) else none }
/-- Both warps blocked on queues, for 5,000 ns or not yet. -/
def sdl (ns : Nat) : State :=
  (base.modTeam 1 fun t => { t with queues := t.queues.map (fun q => { q with entries := [] }), deadAt := some (base.memCount 0 - BitVec.ofNat 64 ns) }).modWarp aw
    (fun x => { x with stall := some (.popQ 1) }) |>.modWarp xw fun x => { x with stall := some (.popQ 0) }
/-- A load for queue 0's head, whose bytes have arrived, with a bad lane when `b`. -/
def ql (b : Bool) : PendLoad := { pl with dst := .entry 0 0 0, bad := if b then [(0, .range)] else [] }
/-- Queue 0's head issued, and that load. -/
def sql (b : Bool) : State :=
  (base.modTeam 1 fun t => { t with queues := t.queues.modify 0 fun q => { q with entries := [{ st := .issued, data := 0, psec := 0 }] } }).modCore 0 fun c => { c with loads := [ql b] }

/-- `base` whose first header waits for queue `q`, with queue 0 full. -/
def shw (q : Nat) : State :=
  (base.storeHome (cellsAt 0x30000 (leBytes 4 0x4b424d4f ++ leBytes 4 1 ++ leBytes 8 0x100) ++ cellsAt 0x30080 (leBytes 8 (0xf000000000000000 + 2 * 2 ^ 57 + 2 ^ 46 + q * 2 ^ 40)))).modTeam 1 fun t =>
    { t with queues := t.queues.modify 0 fun y => { y with depth := 2 } }

theorem witness_CoreEvents :
    (scode.team? 1).any (fun t => t.warps.zipIdx.all fun y => scode.eligible t ⟨1, y.2⟩ y.1 && !y.1.resumed &&
      (match scode.peekHeader t ⟨1, y.2⟩ y.1 with | .word h => (hdrFault t ⟨1, y.2⟩ h).isNone | _ => false)) = true ∧
    (portValid (.part 32) = false ∧ portValid (.tender 2) = false ∧ ((sheld false).core 0).holder (.tender 0) = some aw ∧ base.stamp.portChoices 63 (.part 0) = [] ∧ portValid (.part 31) = true) ∧
    ((scode.core 0).holder (.tender 0) = none ∧ scode.stamp.portChoices 0 (.tender 0) = [(scode.tick, ((scode.warp? aw).map (·.wslot)).getD 0, aw)]) ∧
    (scode.stamp.team? 1).any (fun t => t.core == 0 && (scode.stamp.warp? aw).any fun x => x.clause.isNone && !x.resumed &&
      (match scode.stamp.fetch { w := aw, t := t, x := x } x.hdr with | (v, .ok h) => (v.warp? aw).any (fun y => !y.resumed && decide (y.slot < fieldOf h 53 4 + 1)) && !h.getLsbD 32 && (hdrFault t aw h).isNone && hdrMet t aw x h | _ => false)) = true ∧
    (∀ q ∈ [0, 1], ((shw q).team? 1).any (fun t => ((shw q).warp? aw).any fun x => x.clause.isNone && !x.resumed && x.awake &&
      (match (shw q).peekHeader t aw x with | .word h => (hdrFault t aw h).isNone && fieldOf h 40 6 == q && h.getLsbD 46 && !hdrMet t aw x h | _ => false)) = true) ∧
    (((shw 1).team? 1).any fun t => (t.queues[1]?).any fun y => Team.consumes aw y && !t.exhausted 1 y && !y.headHere) = true ∧
    (((shw 0).team? 1).any fun t => (t.queues[0]?).any fun y => !Team.consumes aw y && !y.hasRoom 1) = true ∧
    ((((scode.modWarp aw fun x => { x with resumed := true, clause := some { cls := 2, count := 3 } }).stamp.portChoices 0 (.tender 0)).length = 1) ∧
      ((scode.modWarp aw fun x => { x with resumed := true }).stamp.portChoices 0 (.tender 0)).length = 1) ∧
    ((base.core 0).holder (.tender 1) = none ∧ ((sheld true).warp? aw).any (·.stall.isSome) = true ∧ ((sheld false).warp? aw).any (·.stall.isNone) = true ∧
      ((sheld false).team? 1).any (fun t => t.st == .resident && t.core == 0) = true) ∧
    (∀ ns ∈ [4096, 4095], ((sdl ns).team? 1).any (fun t => t.deadlocked && (t.warps.head?.any fun x => (t.deadOn x).isSome) &&
      t.deadAt.any (fun a => ((sdl ns).memCount 0 - a).toNat == ns)) = true) ∧
    ((sbusy.warp? xw).any (fun x => x.window.head?.any fun l => !l.done && !l.grid) = true ∧
      ((sbusy.modWarp xw fun x => { x with window := x.window.map fun l => { l with grid := true } }).warp? xw).any (fun x => x.window.head?.any (·.grid)) = true) ∧
    (∀ b ∈ [true, false], (((sql b).core 0).loads.filter (sql b).entryDue)[0]? = some (ql b) ∧ ((sql b).team? 1).any (fun t => (t.queues[0]?).any fun y => y.find 0 0 == some 0 &&
      (y.entries[0]?).any fun d => d.st == .issued) = true) := by
  decide +kernel

/-- A push of k1 to k8 to engine `e`, the predicate 3 told. -/
def fpu (e : Nat) (g : Guard) : PushF := { d := fp 3, a := fk 1, la := 0, e := BitVec.ofNat 4 e, g := g }
/-- A team with sixteen commands outstanding on engine `e`. -/
def sfull (e : Nat) : State := sa.modTeam 1 fun t => { t with cmds := List.replicate 16 (cm e .queued) }
/-- A linear copy of 16 bytes from 0x40000 to 0x50000. -/
def kq : Vector Word 8 := #v[1, 0, 0x40000, 0x50000, 16, 0, 0, 0]
/-- The team with one command of engine `e`, its words `q`. -/
def one (e : Nat) (st : CmdState) (q : Vector Word 8) : State := base.modTeam 1 fun t => { t with cmds := [{ cm e st with q := q }] }
/-- A block of the team's with a group whose channel 0 is a member. -/
def sgrp (q : Vector Word 8) : State :=
  { one 0 (.finished 0 0 0) q with hm := { (one 0 (.finished 0 0 0) q).hm with blocks := base.hm.blocks.map fun b => { b with groups := [{ grp false with emask := 0xfff }] } } }

theorem witness_PushEvents :
    ∀ e ∈ [0, 4], (∃ c, sa.ctx? = some c ∧ (sa.gathering c.t.core c.w c.x = false ∧ c.x.holdLd = [] ∧ c.x.begun = none ∧ c.x.failed = [] ∧ (sa.core c.t.core).warpFault c.w = none ∧ (fpu e g0).d.toNat = 1728 + 3 ∧ 1664 ≤ (fpu e g0).a.toNat ∧ (fpu e g0).a.toNat ≤ 1720 ∧ c.x.cond g0 = true ∧ c.x.cond g1 = false ∧
        (c.t.cmds.filter fun x => x.e == e).length < 16)) ∧
      (∃ c, (sfull e).ctx? = some c ∧ 16 ≤ (c.t.cmds.filter fun x => x.e == e).length) := by
  intro e he
  simp only [List.mem_cons, List.not_mem_nil, or_false] at he
  rcases he with h | h <;> subst h
  all_goals refine ⟨ctx_with ?_, ctx_with ?_⟩
  all_goals decide +kernel

/-- The team with a copy that was suspended. -/
def ssus : State := base.modTeam 1 fun t => { t with cmds := [{ cm 0 (.running (.copy 0)) with q := kq, suspended := true }] }

theorem witness_CommandEvents :
    (((one 0 .queued kq).team? 1).any (fun t => t.runsEngines && t.front 0 == some { cm 0 .queued with q := kq } && (t.suspendedOn 0).isNone && !(one 0 .queued kq).cmdBad t { cm 0 .queued with q := kq } &&
      (one 0 .queued kq).cmdBad t { cm 0 .queued with q := vset kq 0 0 } && (one 0 .checked kq).afterDone t (cm 0 .checked) && (one 0 .checked kq).engineFree t { cm 0 .checked with q := kq }) = true) ∧
    ((one 0 .checked kq).team? 1).any (fun t => t.front 0 == some { cm 0 .checked with q := kq } && (t.suspendedOn 0).isNone && t.st != .saving) = true ∧
    ((ssus.team? 1).any fun t => (t.suspendedOn 0).any (fun c => c.st == .running (.copy 0) && ssus.engineFree t c) && t.runsEngines) = true ∧
    ((one 0 (.finished 0 0 0) kq).links.apWrites = [] ∧ ((one 0 (.finished 0 0 0) kq).team? 1).any (fun t => (t.head 0).any fun c => c.st == .finished 0 0 0 && !c.holding) = true ∧
      (let w : ApWrite := { own := .cmd 1 0 5, ba := 0, bytes := [] }
       (lk fun l => { l with apWrites := [w] }).links.apWrites.any (fun w => w.own == .cmd 1 0 5) = true)) ∧
    (fieldOf (vget (vset kq 0 0) 0 0) 0 8 = 0 ∧ (vget (vset kq 0 (2 ^ 31)) 0 0).getLsbD 31 = true) ∧
    ((base.team? 1).any fun t => decide (2 ^ 31 ≤ (vget t.edone 0 0 - 5).toNat)) = true ∧
    (({ cm 0 (.finished 0 0 0) with q := kq }).group = none ∧ ({ cm 0 (.finished 0 0 0) with q := kq }).crec = 0) ∧
    (({ cm 0 (.finished 0 0 0) with q := vset kq 1 0x60000 }).crec ≠ 0 ∧
      ((one 0 (.finished 0 0 0) kq).checkTlb ((one 0 (.finished 0 0 0) kq).spaceOf 1) .store 0x60000 16).toOption.isSome = true) ∧
    (let q := vset kq 0 (word (1 + 2 ^ 12 + 3 * 2 ^ 13))
     ({ cm 0 (.finished 0 0 0) with q := q }).group = some 3 ∧ ((sgrp q).team? 1).any (fun t => (sgrp q).groupHolds t { cm 0 (.finished 0 0 0) with q := q }) = true) := by
  decide +kernel

/-- A gather of two rows of 16 bytes by the indices at 0x60000 (of a table of `n` rows). -/
def gq (n : Nat) : Vector Word 8 := #v[2, 0, 0x40000, 0x50000, word (n + 16 * 2 ^ 32 + 2 * 2 ^ 48), 0x60000, 16, 0]
/-- A copy of 16 bytes into queue 4. -/
def dqq : Vector Word 8 := #v[1, 0, 0x40000, word (4 + 2 ^ 53), 16, 0, 0, 0]

theorem witness_CopyEvents :
    ((run 0 kq (.copy 0)).running? 1 0).isSome = true ∧ ((run 0 kq (.copy 16)).running? 1 0).isSome = true ∧ ((run 0 (gq 1) (.gather 0 0 0)).running? 1 0).isSome = true ∧
    ({ cm 0 (.running (.copy 0)) with q := kq }).kind = 1 ∧ ({ cm 0 (.running (.copy 0)) with q := gq 1 }).kind = 2 ∧
    (fieldOf (vget kq 4 0) 0 32 = 16 ∧ min 16 ((0 / 256 + 1) * 256) - 0 ≤ 16 ∧ (vget kq 3 0).getLsbD 53 = false ∧ (vget dqq 3 0).getLsbD 53 = true ∧ (vget dqq 2 0).getLsbD 52 = false) ∧
    ((run 0 kq (.copy 0)).team? 1).any (fun t => gaveBytes false 16 ((run 0 kq (.copy 0)).copyRead t { cm 0 (.running (.copy 0)) with q := kq } false 0x40000 16) &&
      gaveFail ((run 0 kq (.copy 0)).copyRead t { cm 0 (.running (.copy 0)) with q := kq } false 0x8000000000000 16) &&
      ((run 0 kq (.copy 0)).copyWrite t { cm 0 (.running (.copy 0)) with q := kq } false 0x50000 (List.replicate 16 (0, false))).toOption.isSome &&
      gaveBytes false 16 ((run 0 dqq (.copy 0)).engRead (.cmd 1 0 5) ((run 0 dqq (.copy 0)).spaceOf 1) 0x40000 16) && ((run 0 dqq (.copy 0)).engPush t 4 [Entry.ready 0]).isSome) = true ∧
    (fieldOf (vget (gq 1) 4 0) 48 13 * fieldOf (vget (gq 1) 4 0) 32 16 = 32 ∧ min 32 ((16 / 256 + 1) * 256) - 16 ≤ 16 ∧ 16 % fieldOf (vget (gq 1) 4 0) 32 16 = 0 ∧
      fieldOf (vget (gq 0) 4 0) 0 32 ≤ 0 ∧ 0 < fieldOf (vget (gq 1) 4 0) 0 32 ∧
      gaveBytes false 4 ((run 0 (gq 1) (.gather 16 0 0)).engRead (.cmd 1 0 5) ((run 0 (gq 1) (.gather 16 0 0)).spaceOf 1) (0x60000 + 4 * 1) 4) = true) := by
  decide +kernel

/-- Word 0 of a program at 0x40000. -/
def sprog (e : Nat) (q : Vector Word 8) (p : Progress) (w : Nat) : State := (run e q p).storeHome (cellsAt 0x40000 (leBytes 4 w))
/-- The words read of a program. -/
def progOf (ok : List (BitVec 32) → Bool) : WordsGot → Bool
  | .words ws => ok ws
  | _ => false
/-- A Pilot run that has not read its program, or whose walk has ended. -/
def pr0 (prog : List (BitVec 32)) (ws : List Walk) : PilotRun := { prog := prog, next := ws.length, walks := ws, done := 0, limits := 0, faults := 0 }

theorem witness_ProgramEvents :
    ((run 1 (lq 0) (.lighter { m0 with prog := [] })).running? 1 1).isSome = true ∧
    (let r (w : Nat) := (sprog 1 (lq 0) (.lighter { m0 with prog := [] }) w).engWords (.cmd 1 1 5) ((sprog 1 (lq 0) (.lighter { m0 with prog := [] }) w).spaceOf 1) 1 0x40000
     progOf lighterProgOk (r 0) = true ∧ progOf (fun ws => ws.any fun x => (decodeX x).isNone) (r 0xffffffff) = true) ∧
    (match (run 1 (lq 0) (.lighter { m0 with prog := [] })).engWords (.cmd 1 1 5) ((run 1 (lq 0) (.lighter { m0 with prog := [] })).spaceOf 1) 1 0x8000000000000 with | .fail _ => true | _ => false) = true ∧
    ((slt 0).lighterOn 0).any (fun y => y.2.2.err.isNone && decide (y.2.2.run < 2 ^ 32)) = true ∧
    ((run 1 (vset (lq 0) 3 (word (2 + 2 ^ 16))) (.lighter { m0 with run := 1 })).lighterOn 0).any (fun y => y.2.2.err.isNone && decide (fieldOf (vget y.2.1.q 3 0) 16 32 = 1 ∧ 1 ≤ y.2.2.run)) = true ∧
    ((run 2 (pq 0) (.pilot (pr0 [] []))).running? 1 2).isSome = true ∧
    (let r (w : Nat) := (sprog 2 (pq 0) (.pilot (pr0 [] [])) w).engWords (.cmd 1 2 5) ((sprog 2 (pq 0) (.pilot (pr0 [] [])) w).spaceOf 1) 1 0x40000
     progOf pilotProgOk (r 0) = true ∧ progOf (fun ws => ws.any fun x => (decodeP x).isNone) (r 0xffffffff) = true) ∧
    (let s := run 2 (pq 0) (.pilot (pr0 [0] []))
     (s.running? 1 2).isSome = true ∧ (pr0 [0] []).next < fieldOf (vget (pq 0) 4 0) 8 8 + 1 ∧ ((pr0 [0] []).walks.filter fun y => y.out.isNone).length < 32 ∧
       gaveBytes false 8 (s.engRead (.walk 1 5 0) (s.spaceOf 1) 0x40000 8) = true) ∧
    ((vget (vset (pq 0) 0 (word (2 ^ 9))) 0 0).getLsbD 9 = true ∧ (lk fun l => { l with apWrites := [{ own := .cmd 1 2 5, ba := 0, bytes := [] }] }).links.apWrites.any (fun w => w.own == .cmd 1 2 5) = true) ∧
    (let w := { wk none 3 with out := some (2, 0) }
     let s := run 2 (pq 0) (.pilot (pr0 [0] [w]))
     (s.running? 1 2).any (fun y => y.2.2 == .pilot (pr0 [0] [w])) = true ∧ (pr0 [0] [w]).walks = w :: [] ∧ w.node < 2 ^ 64 ∧ w.steps < 2 ^ 32 ∧
       (s.team? 1).any (fun t => (s.engPush t 3 [w.entry 2 0]).isSome) = true ∧
       ((s.modTeam 1 fun t => { t with queues := t.queues.map fun q => { q with depth := 0 } }).team? 1).any (fun t =>
         ((s.modTeam 1 fun t => { t with queues := t.queues.map fun q => { q with depth := 0 } }).engPush t 3 [w.entry 2 0]).isNone) = true) := by
  decide +kernel

/-- A collective of a kind over list 0: 8 elements of u32, from 0x40000 to 0x50000, root 1. -/
def collQ (kind count : Nat) : Vector Word 8 :=
  #v[word kind, 0, 0x40000, 0x50000, word (count + (if kind < 4 then 6 else 0) * 2 ^ 32 + (if kind = 3 ∨ kind = 5 then 1 else 0) * 2 ^ 46), 0, 0, 0]
/-- The team of device 1, with that collective running; list 0 holds devices 1 and 2. -/
def scol (kind count : Nat) : State :=
  { run 3 (collQ kind count) .coll with links := { base.links with self := 1, lists := [{ members := [1, 2], lost := false, ops := 0 }] } }
/-- The command. -/
def collC (kind count : Nat) : Cmd := { cm 3 (.running .coll) with q := collQ kind count }
/-- What device 2 contributes: `n` zero bytes. -/
def con (kind count n : Nat) : Contribution :=
  { kind := kind, count := count, ty := if kind < 4 then 6 else 0, oper := 0, root := if kind = 3 ∨ kind = 5 then 1 else 0, data := List.replicate n 0 }

/-- The data of a collective are read and the result of `n` bytes is written. -/
def collGo (kind count n : Nat) : Bool :=
  let s := scol kind count
  let len := (collC kind count).collBytes 1
  (match s.readRunOf (.cmd 1 3 5) (s.spaceOf 1) (len / 16 + 2) 0x40000 len with | .bytes b => b.length == len | _ => false) &&
    (s.writeRunOf .unit (s.spaceOf 1) (n / 16 + 2) 0x50000 (List.replicate n 0)).2 == none

theorem witness_Collectives :
    (∀ k ∈ [1, 2, 3, 4, 5, 6], ((scol k 8).running? 1 3).any (fun y => y.2.1 == collC k 8 && y.2.2 == .coll) = true ∧ (collC k 8).kind = k ∧ ((scol k 8).collList 0).lost = false ∧
      (collC k 8).failed = false) ∧
    ((collC 1 8).collFits ((scol 1 8).collList 0) 1 [some (con 1 8 32)] = true ∧ (collC 1 8).collSame (con 1 8 32) = true ∧ (collC 2 8).collFits ((scol 2 8).collList 0) 1 [some (con 2 8 32)] = true ∧
      (collC 2 8).collSame (con 2 8 32) = true ∧ (collC 3 8).collFits ((scol 3 8).collList 0) 1 [some (con 3 8 32)] = true ∧ (collC 3 8).collSame (con 3 8 32) = true ∧
      (collC 4 8).collFits ((scol 4 8).collList 0) 1 [some (con 4 8 8)] = true ∧ (collC 4 8).collSame (con 4 8 8) = true ∧ (collC 5 8).collFits ((scol 5 8).collList 0) 1 [some (con 5 8 0)] = true ∧
      (collC 5 8).collSame (con 5 8 0) = true ∧ (collC 6 0).collFits ((scol 6 0).collList 0) 1 [some (con 6 0 0)] = true ∧ (collC 6 0).collSame (con 6 0 0) = true) ∧
    (collGo 1 8 32 = true ∧ collGo 2 8 16 = true ∧ collGo 3 8 32 = true ∧ collGo 4 8 16 = true ∧ collGo 5 8 8 = true ∧ collGo 6 0 0 = true) ∧
    ((collC 1 8).collFits ((scol 1 8).collList 0) 1 [none] = true ∧ 0 < (scol 1 8).links.lists.length ∧ (collC 1 8).collFits ((scol 1 8).collList 0) 1 [some (con 1 9 32)] = true ∧
      (collC 1 8).collSame (con 1 9 32) = false) ∧
    (1024 * accSize 6 ≤ 4096 ∧ 4096 < 1026 * accSize 6 ∧ 1026 % 3 = 0) := by
  decide +kernel

/-- A decode command of `dk`'s destination, two frames, 4,096 bytes from 0x40000 to 0x60000; its stream of context 7 is free, or the team's, or another's. -/
def sav (dk : Nat) (owner : Option Nat) (parts : List Av1Part) (begun : Bool) (h : Nat) : State :=
  { run 8 #v[1, 0, 0x40000, word (h + 2 * 2 ^ 32 + 7 * 2 ^ 48 + dk * 2 ^ 55), 0x60000, 4160, 0, 0]
      (.av1 { begun := begun, frame := 0, tileNo := 0, bad := 0, whole := 0, waitFor := none, pos := 0 }) with
    links := { base.links with av1 := vset base.links.av1 0 (vset (vget base.links.av1 0 (Vector.replicate 8 Av1Ctx.free)) 7 { owner := owner, slots := 0, parts := parts, excluded := false, unread := false }) } }
/-- The part of that command. -/
def avPart : Av1Part := { annexb := false, op := 0, grain := false, frames := 0, bytes := [], mark := 0 }

/-- What a frame's bitstream holds is a free value (log entry 7): of its clauses one or the other applies, whichever it is. -/
theorem witness_Decode :
    ((sav 2 (some 9) [] false 4096).running? 1 8).any (fun y => match y.2.2 with | .av1 r => !r.begun | _ => false) = true ∧
    (((sav 2 (some 9) [] false 4096).av1Ctx 0 7).owner = some 9 ∧ ((sav 2 none [] false 4096).av1Ctx 0 7).owner = none ∧ ((sav 2 (some 1) [] false 4096).av1Ctx 0 7).owner = some 1) ∧
    ((sav 2 (some 1) [avPart] true 4096).running? 1 8).any (fun y => (match y.2.2 with | .av1 r => r.begun | _ => false) && y.2.1.group.isNone && !y.2.1.failed) = true ∧
    ((sav 2 (some 1) [avPart] true 4096).av1Ctx 0 7).parts = [] ++ [avPart] ∧
    gaveBytes false 16 ((sav 2 (some 1) [avPart] true 4096).engRead (.cmd 1 8 5) ((sav 2 (some 1) [avPart] true 4096).spaceOf 1) 0x40000 16) = true ∧
    gaveFail ((sav 2 (some 1) [avPart] true 4096).engRead (.cmd 1 8 5) ((sav 2 (some 1) [avPart] true 4096).spaceOf 1) 0x8000000000000 16) = true ∧
    (((sav 2 (some 1) [avPart] true 4096).team? 1).any fun t => ((sav 2 (some 1) [avPart] true 4096).copyWrite t { cm 8 (.running .coll) with q := kq } false 0x60000 (List.replicate 16 (0, false))).toOption.isSome) = true := by
  decide +kernel

/-- A stream that has no bytes left to read stands at its frame, whatever the frame holds. -/
theorem witness_DecodeFrame : (min (((sav 2 (some 1) [avPart] true 0).av1Ctx 0 7).factRead 0) 0 ≤ avPart.bytes.length) ∧
    (((sav 2 (some 1) [avPart] true 0).av1Ctx 0 7).missing 0 = true ∨ ((sav 2 (some 1) [avPart] true 0).av1Ctx 0 7).missing 0 = false) ∧
    (∀ q : Bool, (((sav 2 (some 1) [avPart] true 0).av1Ctx 0 7).pieceTile 0 q 0).isSome = true ∨ ((sav 2 (some 1) [avPart] true 0).av1Ctx 0 7).pieceTile 0 q 0 = none) := by
  refine ⟨by simp, ?_, fun q => ?_⟩
  · cases ((sav 2 (some 1) [avPart] true 0).av1Ctx 0 7).missing 0 <;> simp
  · cases ((sav 2 (some 1) [avPart] true 0).av1Ctx 0 7).pieceTile 0 q 0 <;> simp

/-- `srem` reached by a store of its lanes. -/
def ssto : StoreKind := { regs := true, queues := false, sh := false, rel := none }
/-- The access warp with one lane in predicate 2. -/
def slane : State := sa.modWarp aw fun x => { x with p := vset x.p 2 1, a := vset x.a 2 (ofLanes fun t => 4 * t) }
/-- `sx` whose queue 0 has a poisoned entry at its head. -/
def spois : State := sx.modTeam 1 fun t => { t with queues := t.queues.modify 0 fun q => { q with entries := [{ st := .poisoned .range, data := 0, psec := 0 }] } }

theorem witness_MemoryWords :
    (∃ c, sa.ctx? = some c ∧ (sa.gathering c.t.core c.w c.x = false ∧ (sa.core c.t.core).loads = [] ∧ (sa.core c.t.core).unacked = [] ∧
      (chkFail (chkMisaligned (sa.memLanes c { fmem 1536 0 with off := 2 } false .load true true))).isSome = true ∧
      chkMisaligned (sa.memLanes c (fmem 1536 0) false .load true true) = [])) ∧
    (∃ c, sload.ctx? = some c ∧ sload.gathering c.t.core c.w c.x = false) ∧
    (∃ c, srem.ctx? = some c ∧ (srem.gathering c.t.core c.w c.x = false ∧ (srem.domResolve 5).1 = none ∧ chkFail (srem.remoteLanes c (fmem 2 1) 5 false true).1 = none ∧
      chkFaults (srem.remoteLanes c (fmem 2 1) 5 false true).1 = [] ∧ (srem.remoteLanes c (fmem 2 1) 5 false true).1 ≠ [] ∧
      (match (srem.domResolve 5).2.storeGate c ssto with | .ok (.go _) => true | _ => false) = true)) ∧
    (∃ c, slane.ctx? = some c ∧ (lanesOf (c.x.active g2) = [0] ∧ (atomSource { fat 3 0 with sh := true, off := 2, g := g2 }).toOption = some () ∧
      laneOff c 2 0 0 % accSize 6 = 0 ∧ (slane.blockOf c).inShared (laneOff c 2 0 0) (accSize 6) = true ∧
      ((slane.blockOf c).region (sharedIdx (laneOff c 2 0 0))).poisonedAt (sharedOff (laneOff c 2 0 0)) = false ∧
      (((slane.blockOf c).region (sharedIdx (laneOff c 2 0 0))).rmw { atomElem c { fat 3 0 with sh := true, off := 2, g := g2 } (laneOff c 2 0 0) 0 with pa := sharedOff (laneOff c 2 0 0) }).isSome = true)) ∧
    (∃ c, sa.ctx? = some c ∧ ((queueFault c.t (fq 63) Queue.isForward).isSome = true ∧ (queueFault c.t (fq 1) Queue.isForward).isSome = true ∧
      (queueFault c.t (fq 0) Queue.isReturn).isSome = true ∧ (queueFault c.t 3 fun _ => true).isSome = true ∧ c.t.warps[2]? = none ∧ sysListed 0 = true)) :=
  ⟨ctx_with (by decide +kernel), ctx_with (by decide +kernel), ctx_with (by decide +kernel), ctx_with (by decide +kernel), ctx_with (by decide +kernel)⟩

theorem witness_WordTraps :
    (∃ c, sx.ctx? = some c ∧ (sx.fieldBusy c 3 = false ∧ sx.fieldBusy c 1 = false ∧ sx.fieldBusy c fz = false ∧ srcsThere c [⟨1, false⟩] = true ∧ srcsThere c [⟨fq 0, false⟩, ⟨40, false⟩] = true)) ∧
    (∃ c, spois.ctx? = some c ∧ (srcsThere c [⟨fq 0, false⟩] = true ∧ (srcFault c (c.x.active g0) ⟨fq 0, false⟩ 0).any (fun r => r.cause == .poisonedEntry) = true)) ∧
    (∃ c, (sbar false).ctx? = some c ∧ (c.x.begun ≠ some .arrived ∧ ({ grp false with amask := 0 } : Group).hasTeam (c.t.warps.length - 1) c.t.index = false)) :=
  ⟨ctx_with (by decide +kernel), ctx_with (by decide +kernel), ctx_with (by decide +kernel)⟩

theorem witness_RoundingRule :
    (fmtOf 8).finite ((fmtOf 8).round 0 false true 3 (-1) false).1 = true ∧ (fmtOf 9).finite ((fmtOf 9).round 0 false false 1 200 false).1 = false ∧
    (fmtOf 10).finite ((fmtOf 10).round 2 false false 1 200 false).1 = true ∧ Nat.testBit ((fmtOf 8).round 1 false false 3 (-25) false).2 3 = true := by
  decide +kernel
/-! ### Further witnesses: every clause's own hypotheses -/

/-- The access warp at a slot of a clause whose line of code holds the given words from its header on, with repetitions left. -/
def sCode (w : WarpId) (cls : Nat) (ws : List Word) (slot rep : Nat) : State :=
  { (base.on w cls (ws.length - 1)).modWarp w (fun x => { x with
      slot := slot, repLeft := rep
      code := some { va := 0x30080, pa := 0x30080, bytes := BitVec.ofNat 1024 (ws.foldr (fun a n => a.toNat + 2 ^ 64 * n) 0), poison := 0, fail := false } }) with
    cur := none, turns := [.run (.warp w)] }

/-- The state in which the turn's word is fetched. -/
def sTurn (s : State) (w : WarpId) : State := { s with turns := [], cur := some (.warp w) }

/-- The premises of a turn at which the warp fetches a word, and what its check says. -/
def turnSays (s : State) (w : WarpId) (ok : Word → Except Stop Instr → Bool) : Bool :=
  s.turns == [.run (.warp w)] && ((sTurn s w).ctx?).any fun c =>
    c.t.st == .resident && c.x.awake && c.x.clause.isSome && !c.x.resumed && !(sTurn s w).asleep (islandsOf c) && !c.x.lookaheadOut &&
    (match (sTurn s w).nextWord c with
      | (s2, .ok v) => (s2.ctx?).any fun d => ok v (wordCheck d.w.access ((d.x.clause.map (·.cls)).getD 7) v)
      | _ => false)

/-- A check that fails with a trap of a cause. -/
def failsAs (k : Cause) (_ : Word) : Except Stop Instr → Bool
  | .error (.trap q) => q.cause == k
  | _ => false

theorem witness_StepRunsDecodedWord_traps :
    let hd : Word := 0xf400000000000000
    turnSays (sCode aw 2 [hd, 0xf000000000000000] 0 0) aw (failsAs .illegalClause) = true ∧
    turnSays (sCode aw 2 [hd, 0x0780000000000000] 0 0) aw (failsAs .reservedOpcode) = true ∧
    turnSays (sCode aw 2 [hd, (encode (.vadd f2)).getD 0] 0 0) aw (failsAs .illegalClause) = true ∧
    turnSays (sCode aw 2 [hd, (encode (.nop g0)).getD 0 + 2 ^ 40] 0 0) aw (failsAs .reservedOpcode) = true ∧
    turnSays (sCode xw 0 [hd, (encode (.kadd { u2 with d := 5 })).getD 0 + 0x20] 0 0) xw (failsAs .illegalOperand) = true ∧
    ((sTurn ((sCode aw 2 [hd, 0] 0 0).modWarp aw fun x => { x with window := [{ tok := 9, done := false, left := some 0, load := false, grid := false }] }) aw).ctx?).any
      (·.x.lookaheadOut) = true := by decide +kernel

theorem witness_StepRunsDecodedWord_rep :
    let f : RepF := { n := 3, sd := 1, sa := 1, sb := 0, sc := 0 }
    let p : Word := (encode (.rep f)).getD 0
    let s := sCode xw 0 [0xf020000000000000, p, afterRep] 1 2
    turnSays s xw (fun v r => v == stepWord afterRep f 2 && r.toOption.isSome) = true ∧ (decodeWord p).toOption = some (.rep f) ∧ longForm (Dec.opcode afterRep) = false ∧
    longForm 0x142 = true ∧ ((sTurn s xw).ctx?).any (fun c => (sTurn s xw).asleep ((sTurn s xw).wordIslands c (.vmov { ty := 7, d := 0, a := 0, cc := 0, g := g0, uni := false })) == false) = true ∧
    turnSays (sCode aw 2 [0xf420000000000000, p + 1, 0] 0 0) aw (fun v r => Dec.opcode v == 0x00b && failsAs .reservedOpcode v r) = true ∧
    ((sTurn (sCode aw 2 [0xf420000000000000, p + 1, 0] 0 0) aw).ctx?).any (fun c => decide (c.x.slot + 1 < c.x.count) &&
      ((sTurn (sCode aw 2 [0xf420000000000000, p + 1, 0] 0 0) aw).fetch c (c.x.hdr + 8 * (c.x.slot + 2))).2.toOption.isSome) = true ∧
    ((sTurn (sCode aw 2 [0xf400000000000000, p + 1] 0 0) aw).ctx?).any (fun c => decide (c.x.count ≤ c.x.slot + 1)) = true := by decide +kernel

/-- Two teams' block on cores 0 and 1, core 1's memory island asleep: a shared word that reaches it. -/
def sFar : State :=
  let s : State := { sa with hm := { sa.hm with blocks := sa.hm.blocks.map fun b => { b with cores := [0, 1] } } }
  let s := s.modWarp aw fun x => { x with a := vset x.a 2 (ofLanes fun t => 2 ^ 21 + t) }
  { s with islands := vset s.islands 11 { s.island 11 with st := .s1 } }

theorem witness_StepRunsDecodedWord_asleep : (sFar.ctx?).any (fun c => sFar.asleep (sFar.wordIslands c (.lds (fsh 3)))) = true ∧
    ({ State.reset with turns := [.bar2 29] } : State).turns = .bar2 29 :: [] := by decide +kernel

theorem witness_OperandTraps_words :
    (∀ i ∈ [Instr.vadd { f2 with a := 40 }, .vmov { ty := 7, d := 0, a := 40, cc := 0, g := g0, uni := false }, .vcmp fc, .vcvt fcv, .vfrcp fl1, .vperm f3,
      .vred { ty := 10, d := fk 5, a := 1, ex := false, op := 2, gs := 6, cc := 0, g := g0 }], (opFields i).any (fun x => !x.1.uni) = true) ∧
    (∃ c, sx.ctx? = some c ∧ (ccOk c.w.access 1 (fk 3) = false ∧ ccOk c.w.access 0 3 = true ∧ srcsThere c [⟨40, false⟩, ⟨2, false⟩] = true ∧
      dstTrap c false false true 3 = none ∧ (dstTrap c false false true (fk 3)).isSome = true ∧ (dstTrap c false false true 40).isSome = true ∧
      (srcFault c (c.x.active g0) ⟨40, false⟩ (takenBefore [] ⟨40, false⟩)).isSome = true)) ∧
    (∃ e v, cmpResult (.vcmp { fc with uni := true, any := false, d := 3 }) [] = some (e, v) ∧ e.uni = true ∧ e.cc = 0) ∧
    (elem1 { u1 with a := 3 } false).uni = true :=
  ⟨by decide, ctx_with (by decide +kernel), ⟨_, _, rfl, by decide⟩, by decide⟩

/-- Finite values of f32: 1.5, 2 and 0.25. -/
theorem witness_RoundingRule_values :
    let f := fmtOf 10
    f.val 0x3fc00000 = .fin false 0xc00000 (-23) ∧ f.val 0x40000000 = .fin false 0x800000 (-22) ∧ f.val 0x3e800000 = .fin false 0x800000 (-25) ∧
    (2 ^ (f.fb + 2) ≤ 2 ^ 26) ∧ 0 < 0xc00000 := by decide +kernel

theorem witness_LongFloatResults_queue : ∃ c, sx.ctx? = some c ∧ (sx.fieldsReady c (fq 1) 0 g0 [⟨1, true⟩] = true ∧ sx.fieldsReady c 1736 0 g0 [⟨1, true⟩] = true) :=
  ctx_with (by decide +kernel)

theorem witness_CountedReadsAndPops_kept : { VReg.fresh with released := true, uninit := 1 }.released = true ∧ mbit { VReg.fresh with released := true, uninit := 1 }.uninit 0 = true := by
  decide +kernel
/-- `smg` with the return queue of the execute warp holding eight entries that the step fills. -/
def smq : State := (smg (.cvt (.queue 1 ((List.range 8).map fun i => (i, 0))) 0 0 false 0xffffffff)).modTeam 1 fun t =>
  { t with queues := t.queues.modify 1 fun q => { q with entries := List.replicate 8 { st := .issued, data := 0, psec := 0 } } }

theorem witness_GridSteps_queue :
    (((smq.core 0).part 0).ops.map (·.act)) = [.cvt (.queue 1 ((List.range 8).map fun i => (i, 0))) 0 0 false 0xffffffff] ∧ Ty.width 0 = 8 ∧
    (smq.team? 1).any (fun t => (t.queues[1]?).any fun z => decide (((List.range 8).map fun i => z.find i 0).Nodup)) = true ∧
    (((smg (.cvt .none 0 0 false 1)).core 0).part 0).ops.map (·.act) = [.cvt .none 0 0 false 1] := by decide +kernel

/-- A line of core 0's L1 at 0x40000, every sector valid. -/
def ln0 : L1Line := { pa := 0x40000, way := 0, valid := 0xff, dirty := 0, poison := 0, data := 7, dirtyAt := 0 }
/-- The access warp with that line, and an earlier load of its own that waits for a byte of it. -/
def swait : State := sa.modCore 0 fun c => { c with l1 := [ln0], loads := [{ pl with dst := .entry 0 0 0, need := [{ pos := 0, pa := 0x40000 }] }] }
/-- The access warp whose first lane's page nobody maps, though it is declared; with a fault ring when `ring`, and no fault slot free when `full`. -/
def spage (ring full : Bool) : State :=
  let f : FaultSlot := { page := { va := 0x800000, big := false }, asid := 0, kind := 0, team := 1, joined := [], recorded := true }
  let s := (sa.modWarp aw fun x => { x with a := vset x.a 1 (ofLanes fun t => if t = 0 then 0x400000 else 0x40000 + 8 * t) }).modCore 0 fun c =>
    if full then { c with faults := Vector.replicate 32 (some f) } else c
  let ks : List Task := s.hm.tasks.map fun k => { k with launch := { k.launch with demand := (0x400000, 0x10000) :: k.launch.demand } }
  { s with hm := { s.hm with tasks := ks }, mem := { s.mem with fltBase := 0x110, fltSize := if ring then 1 else 0 } }

/-- What a load word's begin asks of a state. -/
def begins (s : State) (k : LoadKind) (f : MemF) (p : Ctx → List LaneChk → State → Bool) : Bool :=
  (s.ctx?).any fun c => !s.gathering c.t.core c.w c.x && c.x.holdLd.isEmpty && c.x.begun.isNone && c.x.failed.isEmpty && (s.core c.t.core).warpFault c.w == none &&
    decide (c.t.core < 64) && Ty.mem f.ty && (k.sh || (c.x.win f.tw).remote.isNone) && (s.core c.t.core).loads.all (fun l => decide (l.tok < s.mem.nextTok)) &&
    (let s1 := s.acquireAt c k.acq
     let rs := s1.memLanes c f k.sh .load k.acq.isSome true
     p c rs (s1.loadHome c k rs))

/-- The kinds of `lda` and of an `ldacq` at chip scope. -/
def kLda : LoadKind := { regs := true, queues := false, sh := false, acq := none }
/-- `ldacq`. -/
def kAcq : LoadKind := { regs := true, queues := true, sh := false, acq := some 2 }

theorem witness_LoadIntoRegister_begin :
    begins { sa with mem := { sa.mem with nextTok := 20 } } kLda (fmem 3 0) (fun c rs s2 => (chkFail rs).isNone && (chkFaults rs).isEmpty && (s2.awaited c ((needOf rs).map (·.pa))).isEmpty && !(needOf rs).isEmpty) = true ∧
    begins { swait with mem := { sa.mem with nextTok := 20 } } kLda (fmem 3 0) (fun c rs s2 => (chkFail rs).isNone && (chkFaults rs).isEmpty && !(s2.awaited c ((needOf rs).map (·.pa))).isEmpty) = true ∧
    begins { sa with mem := { sa.mem with nextTok := 20 } } kAcq { fmem 3 0 with scope := 2 } (fun c rs s2 => (chkFail rs).isNone && (chkFaults rs).isEmpty && (s2.awaited c ((needOf rs).map (·.pa))).isEmpty && sa.wide c 2) = true ∧
    begins { sa with mem := { sa.mem with nextTok := 20 } } { kLda with sh := true, queues := true } (fsh 3) (fun _ rs _ => (chkFail rs).isNone && (chkFaults rs).isEmpty) = true := by decide +kernel

theorem witness_LoadIntoQueue_faults :
    (∀ p ∈ [(false, false, true), (true, false, true), (true, true, false)], ((spage p.1 p.2.1).ctx?).any (fun c =>
      let s := spage p.1 p.2.1
      let rs := s.seePoison c.t.core (s.memLanes c (fmem 1536 0) false .load false true)
      (chkFail rs).isNone && !(chkFaults rs).isEmpty && (chkMisaligned rs).isEmpty && s.noRing == !p.1 &&
        (c.t.queues[0]?).any (fun q => !c.t.noConsumer q && decide (q.entries.length < q.depth)) &&
        ((s.tokTaken.raiseFaults (s.winSpace c 0) c.w.team (.load s.mem.nextTok) (chkFaults rs)).2.1 == p.2.2)) = true) ∧
    (swait.ctx?).any (fun c => !(swait.awaited c ((needOf (swait.memLanes c (fmem 1536 0) false .load false true)).map (·.pa))).isEmpty) = true ∧
    (sa.ctx?).any (fun c => (chkFail (chkMisaligned (sa.memLanes c { fmem 1536 0 with off := 2 } false .load true true))).isSome) = true := by decide +kernel

/-- The access warp with window 1 on the host aperture. -/
def shost (en ats : Bool) : State :=
  let s := sa.modWarp aw fun x => { x with tw := vset x.tw 1 { va := 0x40000, pa := 0xf000000000, limit := 0x10000, write := true, replica := false, remote := none, dom := false } }
  { s with links := { s.links with apEn := en, ats := ats } }

theorem witness_StoreWords_host :
    (∀ p ∈ [(true, false), (true, true), (false, false)], ((shost p.1 p.2).ctx?).any (fun c =>
      let rs := (shost p.1 p.2).memLanes c { fmem 2 1 with off := 2, ty := 4 } false .store false true
      (chkFail rs).isNone && (chkFaults rs).isEmpty && (storeBytesOf { img := 0, psec := 0, t := c.t } rs).any fun b => isAperture b.pa) = true) ∧
    (let s := sa.modCore 0 fun c => { c with unacked := [{ tok := 5, w := some xw, done := false, remote := false }] }
     (s.ctx?).any (fun c => match s.releaseGate c 2 false with | .ok (.stay _) => true | _ => false)) = true ∧
    (swait.ctx?).any (fun c => match swait.releaseGate c 2 false with | .error (.stall _) => true | _ => false) = true ∧
    ((sa.modWarp aw fun x => { x with begun := some .released }).ctx?).any (fun c => c.x.begun == some .released) = true := by decide +kernel

theorem witness_AccessTraps_cas :
    (sa.ctx?).any (fun c => !sa.gathering c.t.core c.w c.x && c.x.holdLd.isEmpty && (c.t.queues[0]?).any Queue.isForward) = true ∧ ({ fat 3 0 with op := 7, b := 63 } : MemF).op = 7 ∧
    63 ≤ ({ fat 3 0 with op := 7, b := 63 } : MemF).b.toNat ∧ (atomSource (fat 3 0)).isOk = true ∧
    (sa.ctx?).any (fun c => (chkFail (sa.seePoison c.t.core (sa.memLanes c { fat 3 0 with off := 3 } false .atomic true false))).isSome) = true := by decide +kernel
/-- An atomic that releases and acquires, at chip scope. -/
def fatr (d : Nat) : MemF := { fat d 0 with order := 3 }
/-- The access warp with a store of the other warp not yet acknowledged. -/
def sunack : State := sa.modCore 0 fun c => { c with unacked := [{ tok := 5, w := some xw, done := false, remote := false }] }
/-- What a release finds: it may go on, waits, or stalls. -/
def gateIs (s : State) (n : Nat) : Bool :=
  (s.ctx?).any fun c => match s.releaseGate c 2 false with | .ok (.go _) => n == 0 | .ok (.stay _) => n == 1 | .error (.stall _) => n == 2 | _ => false
/-- The access warp's block with its shared array poisoned at 0 when `bad`. -/
def sshr (bad : Bool) : State :=
  { sa with hm := { sa.hm with blocks := sa.hm.blocks.map fun b => { b with shared := b.shared.map fun r => if bad then { r with poison := [0] } else r } } }
/-- An atomic on shared memory, one element for each lane. -/
def fats (d : Nat) : MemF := { fat d 0 with sh := true, off := 3 }

theorem witness_AtomicWords_orders :
    ordRel (fatr 3).order = true ∧ ordAcq (fatr 3).order = true ∧ gateIs sa 0 = true ∧ gateIs sunack 1 = true ∧ gateIs swait 2 = true ∧
    (sa.ctx?).any (fun c => sa.wide c 2 && decide ((chkPas (sa.memLanes c (fatr 3) false .atomic true false)).length = 32)) = true ∧
    (∀ bad ∈ [false, true], ((sshr bad).ctx?).any (fun c =>
      let rs := (sshr bad).memLanes c (fats 3) true .atomic true false
      (chkFail rs).isNone && (chkFaults rs).isEmpty && decide ((chkPas rs).length = 32) && ((sshr bad).block? c.t.block).any fun b =>
        (chkPas rs).any (fun x => (b.region (sharedIdx (x.2.headD 0))).poisonedAt (sharedOff (x.2.headD 0))) == bad) = true) := by decide +kernel

/-- The access warp at a `gatl2` whose index line lies at the address of its first lane. -/
def sidx (va : Nat) (ring full : Bool) : State :=
  let s := (spage ring full).modWarp aw fun x => { x with a := vset x.a 1 (ofLanes fun _ => va) }
  s

theorem witness_AtomicWords_gather :
    (∀ p ∈ [(0x400000, true, false), (0x400000, true, true), (0x400000, false, false), (2 ^ 51, true, false), (0x40000, true, false)],
      ((sidx p.1 p.2.1 p.2.2).ctx?).any (fun c =>
        let s := sidx p.1 p.2.1 p.2.2
        let s1 := s.writeBackAll c.t.core
        lowestLane (c.x.active g0) == some 0 && (c.t.queues[0]?).any (fun q => !c.t.noConsumer q && decide (q.entries.length < q.depth)) &&
        (match s.checkWin (s.spaceOf c.w.team) (c.x.win 0) .load (laneOff c 1 0 0 / 128 * 128) 128 with
          | .error (.fault q k) => p.1 == 0x400000 && s.noRing == !p.2.1 && (s1.raiseFault (s.winSpace c 0) c.w.team q k (.load s1.mem.nextTok)).isNone == p.2.2
          | .error (.cause _ _) => p.1 == 2 ^ 51
          | .ok pas => p.1 == 0x40000 && pas.all fun pa => isHbm pa && sliceOf pa == sliceOf (pas.headD 0))) = true) ∧
    (sa.ctx?).any (fun c => !(sa.tokTaken.touchedLines c (fmem 0 0) false).isEmpty) = true := by decide +kernel

/-- The access warp in the domain, its first lane's domain address on device `dev` at `va`. -/
def srld (dev va : Nat) (ring full : Bool) : State :=
  let s := (spage ring full).modWarp aw fun x => { x with a := vset x.a 1 (ofLanes fun _ => dev * 2 ^ 52 + va) }
  { s with links := { srem.links with domEn := true } }

theorem witness_AtomicWords_rld :
    ((srld 1024 0 true false).ctx?).any (fun c => fieldOf (lane (vget c.x.a 1 0) 0) 62 2 != 0) = true ∧
    ((srld 6 0 true false).ctx?).any (fun c => fieldOf (lane (vget c.x.a 1 0) 0) 52 10 == 6 && ((srld 6 0 true false).domResolve 6).1.isSome) = true ∧
    (∀ p ∈ [(0x400000, true, false), (0x400000, true, true), (0x400000, false, false), (2 ^ 51, true, false), (0x40000, true, false)],
      ((srld 0 p.1 p.2.1 p.2.2).ctx?).any (fun c =>
        let s := srld 0 p.1 p.2.1 p.2.2
        let sp := s.domSpace (s.spaceOf c.w.team)
        fieldOf (lane (vget c.x.a 1 0) 0) 52 10 == s.links.self.toNat && s.links.domEn &&
        (match s.checkTlb sp .load p.1 8 with
          | .error (.fault q k) => p.1 == 0x400000 && s.noRing == !p.2.1 && (s.raiseFault sp c.w.team q k (.load s.mem.nextTok)).isNone == p.2.2
          | .error (.cause _ _) => p.1 == 2 ^ 51
          | .ok pas => p.1 == 0x40000 && (s.awaited c pas).isEmpty)) = true) ∧
    (swait.ctx?).any (fun c => !(swait.awaited c [0x40000]).isEmpty) = true ∧
    ((sa.modWarp xw fun x => { x with ended := true }).ctx?).any (fun c => (c.t.queues[0]?).any fun q => c.t.noConsumer q) = true := by decide +kernel

/-- The access warp held by an acquire on load 9, which is in progress when `out`. -/
def sacq (out : Bool) : State :=
  (sa.modWarp aw fun x => { x with holdLd := [9] }).modCore 0 fun c => if out then { c with loads := [pl] } else c

theorem witness_CacheAndCodeWords_holds :
    (∀ out ∈ [true, false], ((sacq out).ctx?).any (fun c => !(sacq out).gathering c.t.core c.w c.x && c.x.holdLd == [9] && !c.x.unordered 9 &&
      ((sacq out).core c.t.core).load? 9 == (if out then some pl else none)) = true) ∧
    gateIs sa 0 = true ∧ ordRel 2 = true ∧ Fld.isK 3 = false ∧ Fld.isK (fk 3) = true ∧ (3 : Fld).toNat < 1664 ∧ 1720 < (fk 57).toNat := by decide +kernel

/-- A state whose PF reset finds a written byte in core 0's L1. -/
def sdirty : State := base.modCore 0 fun c => { c with l1 := [{ ln0 with dirty := 1 }] }

theorem witness_ResetEvents_dirty :
    let s1 := ((sdirty.discardTasks fun _ => true).resetAreas fun _ => true).dropReader fun _ => true
    s1.mem.ram.wf = true ∧ ((s1.core 0).line 0x40000).dirty.getLsbD 0 = true ∧ (s1.slices.all fun x => x.queue.isEmpty) = true ∧
    (s1.cores.toList.drop 1).all (fun c => c.l1.isEmpty) = true := by decide +kernel

theorem witness_PowerEvents_more :
    0 < base.mgmt.capW.toNat ∧ base.mgmt.capW.toNat * 95 < 3000 * 100 ∧ (mg fun m => { m with stage := .recovery }).mgmt.stage ≠ .running ∧
    (let s := { isl 11 (fun i => { i with st := .s0, idle := 10 ^ 12 }) with mgmt := { base.mgmt with eff := 0xffffffff } }
     s.mgmt.stage = .running ∧ s.busy 11 = false ∧ (s.island 11).wake = none ∧ (s.island 11).st.depth < (deepestWithin s.mgmt.eff.toNat).depth ∧ isMemIsland 11 = true) ∧
    (let s := { isl 6 (fun i => { i with st := .s0, idle := 10 ^ 12 }) with mgmt := { base.mgmt with eff := 0xffffffff } }
     s.busy 6 = false ∧ (s.island 6).wake = none ∧ (s.island 6).st.depth < (deepestWithin s.mgmt.eff.toNat).depth) := by decide +kernel

theorem witness_MailboxEvents_rows :
    (∀ p ∈ [(0x01, Stage.running), (0x04, .running), (0x12, .recovery)], (mg fun m => { m with stage := p.2 }).mgmt.stage = p.2 ∧ mbCode (word p.1) = p.1 ∧ fieldOf (word p.1) 8 8 = 0) ∧
    mbRow (word 3) (.attest (word 3)) 0x03 [.firmware, .running] (fieldOf (word 3) 16 48 != 0) ∧
    fieldOf (word (3 + 2 ^ 8)) 8 8 ≠ 0 ∧ (fieldOf (word (3 + 2 ^ 63)) 16 48 != 0) = true ∧ base.mgmt.mbRun = none ∧
    (mg fun m => { m with image := some img }).mgmt.image.map (·.slot) = some (mbArg0 (word 0x10)) ∧ mbArg1 (word 0x10) < 4352 ∧ base.loadingSlot = none ∧
    (match (base.flash 0).st with | .loading _ => false | _ => true) = true := by
  refine ⟨by decide +kernel, ?_, by decide +kernel⟩
  unfold mbRow; decide

theorem witness_LinkEvents_stage : base.mgmt.stage = .running ∧ (mg fun m => { m with stage := .firmware }).mgmt.stage ≠ .running := by decide +kernel
/-- Two lanes' additions to two elements. -/
def el2 : AtomElem := { lane := 4, pa := 0x5004, ty := 6, op := 0, x := 2, e := 0 }

theorem witness_SliceEvents_several :
    (((slc [.atomic 0 (.warp aw 9) [el, el2]] []).modWarp aw fun x => { x with begun := some (.atomic 9 24 0 [] none) }).warp? aw).any (fun y => y.begun == some (.atomic 9 24 0 [] none)) = true ∧
    ([el, el2].map (·.lane)).Nodup ∧ (∀ e ∈ [el, el2], e.lane < 32) ∧
    (((slc [.atomic 0 (.discard aw 9) [el, el2]] []).modWarp aw fun x => { x with begun := some (.atomic 9 24 0 [] none) }).slice 2).queue = .atomic 0 (.discard aw 9) [el, el2] :: [] ∧
    (slc [.atomic 0 (.reg aw 9) [el, el2]] []).slices.toList.flatMap (fun x => atomElems 9 x.queue) = [el, el2] ∧
    (∀ e ∈ [el, el2], base.mem.ram.poisonedAt e.pa = false) ∧ ((slc [.reduce 63 4 [el, el2]] []).slice 2).queue = .reduce 63 4 [el, el2] :: [] ∧
    (((base.modSlice 32 fun x => { x with windows := [win1 true] }).slice (sliceOf 0x1000)).window? 0x1000).isSome = true ∧ ((base.slice (sliceOf 0x1000)).window? 0x1000).isNone = true := by decide +kernel

/-- A fault that a warp, a fetch, a load, a command and a walk have joined. -/
def sjoin (va : Nat) : State :=
  let f : FaultSlot := { flt va with joined := [.warp aw .load, .fetch xw, .load 9, .cmd 1 0 5 .load, .walk 1 5 0 .load] }
  ((sflt va).modTeam 1 fun t => { t with cmds := [{ cm 0 (.running (.copy 0)) with holding := true }, cm 2 (.running (.pilot (pr0 [] [wk none 0])))] }).modCore 0 fun c =>
    { c with faults := vset c.faults 31 (some f), loads := [{ pl with faulted := [{ pos := 0, va := va, size := 4, dom := false }] }] }
/-- The same without the load. -/
def sjoin' (va : Nat) : State := (sjoin va).modCore 0 fun c => { c with loads := [], faults := vset c.faults 31 ((vget c.faults 31 none).map fun f => { f with joined := f.joined.filter (· != .load 9) }) }
/-- A fault that one load alone has joined. -/
def sloadf (va : Nat) : State := (sjoin va).modCore 0 fun c => { c with faults := vset c.faults 31 (some { flt va with joined := [.load 9] }) }

/-- The same with the page's addresses declared to be paged on demand. -/
def sdem (va : Nat) : State :=
  { sloadf va with hm := { (sloadf va).hm with tasks := base.hm.tasks.map fun k => { k with launch := { k.launch with demand := (0x400000, 0x10000) :: k.launch.demand } } } }

theorem witness_MemoryRegisterEvents_joined :
    (∀ va ∈ [0x40000, 0x400000], ((sjoin va).faultAt 0 31).any (fun f => f.joined.length == 5) = true ∧ ((sjoin va).warp? aw).isSome = true ∧ ((sjoin va).warp? xw).isSome = true ∧
      ((sjoin va).team? 1).any (fun k => k.cmds.any (fun x => x.e == 0 && x.seq == 5) && k.cmds.any fun x => x.e == 2 && x.seq == 5) = true ∧
      (∃ l ∈ ((sjoin va).core 0).loads, l.tok = 9 ∧ ∃ a ∈ l.faulted, a.touches (flt va).page = true) ∧
      ((sjoin' va).faultAt 0 31).any (fun f => !f.joined.contains (.load 9) && (f.joined.filterMap ((sjoin' va).meetsStill 0 f)).isEmpty == (va == 0x40000)) = true) ∧
    (∀ va ∈ [0x40000, 0x400000, 2 ^ 51], ((sdem va).faultAt 0 31).map (·.joined) = some [.load 9] ∧ (((sdem va).core 0).load? 9).any (fun l => l.gather.isNone && l.bad.isEmpty && l.later.isEmpty &&
      l.faulted.all fun a => match (sdem va).checkTlb ((sdem va).accSpace l a) .load a.va a.size with
        | .ok _ => va == 0x40000 | .error (.cause _ _) => va == 2 ^ 51 | .error (.fault p _) => va == 0x400000 && p == (flt va).page) = true) := by decide +kernel

theorem witness_HostRegisterEvents_fields :
    (base.hm.parkWait = [] ∧ (0x100 : Word).getLsbD 8 = true ∧ (0x8000 : Word).getLsbD 15 = true ∧ (0x8000 : Word).getLsbD 8 = false ∧ (0x100 : Word).getLsbD 15 = false ∧
      base.mgmt.mbRun = none ∧ (mg fun m => { m with mbRun := some { error := 0, out := [] } }).mgmt.mbRun ≠ none ∧ mbCode 0x77 ∉ mbCodes ∧ areaFn 79 = .vf 16 ∧
      ((ar fun x => { x with en := true }).area 79).en = true ∧ (base.area 79).en = false ∧ 1 ≤ fieldOf 1 0 8) := by decide +kernel

/-- The team of `base` ending, with a request to kill its task. -/
def skill : State := { send with hm := { send.hm with ctl := [{ fn := .pf, v := word 1 }] } }

theorem witness_SchedulerEvents_more :
    (skill.task? 0).all (fun y => y.st == .placed) = true ∧ skill.hm.teams.all (fun x => x.task != 0 || x.ending) = true ∧ fieldOf (word 1) 0 8 = 1 ∧
    (∃ l : PendLoad, l.bad ≠ [] ∧ l.gather = none) := ⟨by decide +kernel, by decide +kernel, by decide, { pl with bad := [(0, .range)] }, by decide, rfl⟩

/-- `base` whose first header is the word `h`. -/
def shdr (h : Nat) : State := base.storeHome (cellsAt 0x30000 (leBytes 4 0x4b424d4f ++ leBytes 4 1 ++ leBytes 8 0x100) ++ cellsAt 0x30080 (leBytes 8 h))
/-- What the fetch of the access warp's next header gives in `s`. -/
def headerGot (s : State) (ok : Team → Warp → Except Stop Word → Bool) : Bool :=
  (s.stamp.portChoices 0 (.tender 0)).length == 1 && (s.stamp.team? 1).any fun t => (s.stamp.warp? aw).any fun x => x.clause.isNone && ok t x (s.stamp.fetch { w := aw, t := t, x := x } x.hdr).2

theorem witness_CoreEvents_headers :
    headerGot (shdr 0xf200000000000000) (fun t _ r => match r with | .ok h => hdrFault t aw h == some 0 | _ => false) = true ∧
    headerGot (shdr (0xf400000000000000 + 2 ^ 46 + 9 * 2 ^ 40)) (fun t _ r => match r with | .ok h => hdrFault t aw h == some 9 | _ => false) = true ∧
    headerGot (shdr (0xf400000000000000 + 7 * 2 ^ 33)) (fun t _ r => match r with | .ok h => hdrFault t aw h == some 7 | _ => false) = true ∧
    headerGot (scode.modWarp aw fun x => { x with resumed := true, slot := 15 }) (fun _ x r => match r with | .ok h => x.resumed && decide (fieldOf h 53 4 + 1 ≤ x.slot) | _ => false) = true ∧
    headerGot (scode.modWarp aw fun x => { x with hdr := 2 ^ 20 }) (fun _ _ r => match r with | .error (.trap _) => true | _ => false) = true ∧
    (let s := { (spage true false) with cur := none }
     let s := s.modWarp aw fun x => { x with clause := none }
     headerGot { s with hm := { s.hm with tasks := s.hm.tasks.map fun k => { k with record := vset k.record 0 0x0100000000400000 } } } (fun _ _ r => match r with | .error (.stall _) => true | _ => false)) = true ∧
    (let s := base.modWarp aw fun x => { x with resumed := true, stall := some (.room 0 2) }
     (s.team? 1).any fun t => (t.warps.head?).any fun x => s.eligible t aw x) = true ∧
    (let s := (base.modWarp xw fun x => { x with resumed := true, stall := some (.popAt 0 1) })
     (s.team? 1).any fun t => (t.warps[1]?).any fun x => s.eligible t xw x) = true := by decide +kernel

/-- The decode command whose stream another team has taken since it was checked. -/
def slostav : State :=
  let s := sav 2 (some 9) [] false 4096
  s.modTeam 1 fun t => { t with cmds := t.cmds.map fun c => { c with st := .checked } }
/-- A second team on core 0 whose Lighter command came first. -/
def sfirst (e : Nat) (st : CmdState) : State :=
  let s := one e .checked kq
  { s with hm := { s.hm with teams := (s.hm.teams.map fun t => { t with cmds := t.cmds.map fun c => { c with ord := 7 } }) ++ (s.hm.teams.map fun t => { t with num := 2, cmds := [{ cm e st with q := kq, ord := 3 }] }) } }

theorem witness_CommandEvents_order :
    (slostav.team? 1).any (fun t => (t.front 8).any fun c => c.st == .checked && slostav.streamLost t c && slostav.engineFree t c && slostav.afterDone t c && c.preDone t) = true ∧
    ((sfirst 1 .queued).team? 1).any (fun t => (t.front 1).any fun c => c.st == .checked && (sfirst 1 .queued).hm.teams.any fun u => u.core == t.core && u.num != t.num && u.st == .resident &&
      (u.front 1).any fun d => decide (d.ord < c.ord) && d.preDone u && (sfirst 1 .queued).afterDone u d) = true ∧
    ((sfirst 3 .queued).team? 1).any (fun t => (t.front 3).any fun c => c.st == .checked && (sfirst 3 .queued).hm.teams.any fun u => u.cmds.any fun d => d.e == 3 && decide (d.ord < c.ord)) = true ∧
    ((sfirst 8 (.running (.coll))).team? 1).any (fun t => (t.front 8).any fun c => c.st == .checked && (sfirst 8 (.running .coll)).hm.teams.any fun u => u.cmds.any fun d =>
      d.e == 8 && d.ord != c.ord && !d.suspended && d.st == .running .coll) = true := by decide +kernel

/-- A sector of a copy or gather done as the copy engine does it, when nothing fails. -/
def sectorNext (s : State) (t : Team) (c : Cmd) (stop : Nat) (p : CopyPos) : Option (State × CopyPos × List (Byte × Bool)) :=
  match s.copyIndex t c p with
  | (.bytes _, p') =>
    let n := min 16 (stop - p.off)
    match s.copySource t c p' n with
    | .bytes bs =>
      if c.fld 3 53 1 = 1 then some (s.copyServed t c p' n, { p' with off := p.off + n }, bs)
      else match s.copyWrite t c (c.fld 3 52 1 == 1) (copyDest c p.off) bs with
        | .ok w => some ((w.copyServed t c p' n).doneReading (.cmd t.num c.e c.seq), { p' with off := p.off + n }, bs)
        | .error _ => none
    | _ => none
  | _ => none

/-- The states, places and bytes of `n` sectors. -/
def sectors (s : State) (t : Team) (c : Cmd) (stop : Nat) (p : CopyPos) : Nat → Option (State × CopyPos)
  | 0 => some (s, p)
  | n + 1 => (sectors s t c stop p n).bind fun x => (sectorNext x.1 t c stop x.2).map fun y => (y.1, y.2.1)

/-- A field of one bit is that bit. -/
theorem fieldOf_one (x : Word) (n : Nat) : (fieldOf x n 1 == 1) = x.getLsbD n := by
  simp only [fieldOf, bitsOf, BitVec.getLsbD, Nat.testBit, Nat.shiftRight_eq_div_pow, Nat.pow_one]
  rw [Nat.and_comm, Nat.and_one_is_mod]
  cases Nat.mod_two_eq_zero_or_one (x.toNat / 2 ^ n) with
  | inl h => simp [h]
  | inr h => simp [h]

theorem copiesSector_of_next {s : State} {t : Team} {c : Cmd} {stop : Nat} {p p' : CopyPos} {v : State} {bs : List (Byte × Bool)}
    (h : sectorNext s t c stop p = some (v, p', bs)) : s.copiesSector t c stop p p' bs v := by
  unfold sectorNext at h
  generalize hx : s.copyIndex t c p = x at h
  obtain ⟨g, q⟩ := x
  cases g with
  | bytes ib =>
    simp only at h
    generalize hy : s.copySource t c q (min 16 (stop - p.off)) = y at h
    cases y with
    | bytes b =>
      simp only at h
      have hq : q.off = p.off ∧ (c.kind = 1 ∨ p.off % fieldOf (vget c.q 4 0) 32 16 ≠ 0 → q.idx = p.idx ∧ q.misses = p.misses) ∧
          (c.kind ≠ 1 → p.off % fieldOf (vget c.q 4 0) 32 16 = 0 → ∃ ib, (∀ x ∈ ib, x.2 = false) ∧ q.idx = leNat (ib.map (·.1)) ∧
            s.engRead (.cmd t.num c.e c.seq) (s.spaceOf t.num) (fieldOf (vget c.q 5 0) 0 52 + 4 * (p.off / fieldOf (vget c.q 4 0) 32 16)) 4 = .bytes ib ∧
            q.misses = p.misses + if fieldOf (vget c.q 4 0) 0 32 ≤ q.idx then 1 else 0) := by
        simp only [State.copyIndex] at hx
        by_cases hc : c.kind = 1 ∨ p.off % c.fld 4 32 16 ≠ 0
        · rw [if_pos hc] at hx
          cases hx
          exact ⟨rfl, fun _ => ⟨rfl, rfl⟩, fun h1 h2 => by rcases hc with h | h <;> contradiction⟩
        · rw [if_neg hc] at hx
          have hn : c.kind ≠ 1 ∧ p.off % c.fld 4 32 16 = 0 :=
            ⟨fun h => hc (Or.inl h), Classical.byContradiction fun h => hc (Or.inr h)⟩
          generalize hb : s.engRead _ _ _ _ = r at hx
          cases r with
          | bytes b' =>
            simp only at hx
            by_cases hp : (b'.any (·.2)) = true
            · rw [if_pos hp] at hx; cases hx
            · rw [if_neg hp] at hx
              cases hx
              refine ⟨rfl, fun h => ?_, fun _ _ => ⟨b', fun x hx' => ?_, rfl, hb, ?_⟩⟩
              · rcases h with h | h
                · exact absurd h hn.1
                · exact absurd hn.2 h
              · cases hv : x.2 with
                | false => rfl
                | true => exact absurd (List.any_eq_true.mpr ⟨x, hx', hv⟩) hp
              · simp only [b2n, decide_eq_true_eq]; rfl
          | _ => simp at hx
      have hr : if c.kind ≠ 1 ∧ fieldOf (vget c.q 4 0) 0 32 ≤ q.idx then b = List.replicate (min 16 (stop - p.off)) (0, false)
          else s.copyRead t c ((vget c.q 2 0).getLsbD 52) (if c.kind = 1 then fieldOf (vget c.q 2 0) 0 52 + p.off
            else fieldOf (vget c.q 2 0) 0 52 + q.idx * fieldOf (vget c.q 4 0) 32 16 + p.off % fieldOf (vget c.q 4 0) 32 16) (min 16 (stop - p.off)) = .bytes b := by
        have h52 : (c.fld 2 52 1 == 1) = (vget c.q 2 0).getLsbD 52 := fieldOf_one _ _
        simp only [State.copySource, hq.1, h52] at hy
        by_cases hk : c.kind = 1
        · rw [if_pos hk] at hy
          rw [if_neg (fun h => h.1 hk), if_pos hk]; exact hy
        · rw [if_neg hk] at hy
          by_cases hi : c.fld 4 0 32 ≤ q.idx
          · rw [if_pos hi] at hy
            rw [if_pos ⟨hk, hi⟩]; cases hy; rfl
          · rw [if_neg hi] at hy
            rw [if_neg (fun h => hi h.2), if_neg hk]; exact hy
      have hd : ∀ w : State, w.copyServed t c q (min 16 (stop - p.off)) = w.copyServed t c { q with off := p.off } (min 16 (stop - p.off)) := by
        intro w; rw [← hq.1]
      have hdq : (c.fld 3 53 1 = 1) ↔ (vget c.q 3 0).getLsbD 53 = true := by rw [← fieldOf_one, beq_iff_eq]; rfl
      by_cases hdd : c.fld 3 53 1 = 1
      · rw [if_pos hdd] at h
        simp only [Option.some.injEq, Prod.mk.injEq] at h
        obtain ⟨h1, h2, h3⟩ := h
        subst h1; subst h2; subst h3
        exact ⟨rfl, ⟨hq.2.1, hq.2.2⟩, hr, by simp only [if_pos (hdq.mp hdd)]; exact hd s⟩
      · rw [if_neg hdd] at h
        generalize hw : s.copyWrite t c (c.fld 3 52 1 == 1) (copyDest c p.off) b = r at h
        cases r with
        | error _ => simp at h
        | ok w =>
          simp only [Option.some.injEq, Prod.mk.injEq] at h
          obtain ⟨h1, h2, h3⟩ := h
          subst h1; subst h2; subst h3
          refine ⟨rfl, ⟨hq.2.1, hq.2.2⟩, hr, ?_⟩
          simp only [if_neg (fun e => hdd (hdq.mpr e))]
          refine ⟨w, ?_, by rw [hd w]⟩
          rw [← hw]
          have h52 : (c.fld 3 52 1 == 1) = (vget c.q 3 0).getLsbD 52 := fieldOf_one _ _
          rw [h52]; rfl
    | _ => simp at h
  | _ => simp at h

/-- The states, the places and the bytes of the sectors of a unit, as functions of their number. -/
def secAt (s : State) (t : Team) (c : Cmd) (stop : Nat) (p : CopyPos) (k : Nat) : State × CopyPos := (sectors s t c stop p k).getD (s, p)
/-- The bytes of sector `k`. -/
def secBytes (s : State) (t : Team) (c : Cmd) (stop : Nat) (p : CopyPos) (k : Nat) : List (Byte × Bool) :=
  ((sectorNext (secAt s t c stop p k).1 t c stop (secAt s t c stop p k).2).map (·.2.2)).getD []

theorem sectors_good {s : State} {t : Team} {c : Cmd} {stop n : Nat} {p : CopyPos} (h : (sectors s t c stop p n).isSome = true) :
    ∀ k < n, (secAt s t c stop p k).1.copiesSector t c stop (secAt s t c stop p k).2 (secAt s t c stop p (k + 1)).2 (secBytes s t c stop p k) (secAt s t c stop p (k + 1)).1 := by
  induction n with
  | zero => intro k hk; omega
  | succ n ih =>
    have hs : sectors s t c stop p (n + 1) = (sectors s t c stop p n).bind fun x => (sectorNext x.1 t c stop x.2).map fun y => (y.1, y.2.1) := rfl
    cases hn : sectors s t c stop p n with
    | none => rw [hs, hn] at h; simp at h
    | some x =>
      cases hy : sectorNext x.1 t c stop x.2 with
      | none => simp [hs, hn, hy] at h
      | some y =>
        intro k hk
        rcases Nat.lt_succ_iff_lt_or_eq.mp hk with h' | h'
        · exact ih (by rw [hn]; rfl) k h'
        · subst h'
          have e1 : secAt s t c stop p k = x := by rw [secAt, hn]; rfl
          have e2 : secAt s t c stop p (k + 1) = (y.1, y.2.1) := by simp [secAt, hs, hn, hy]
          have e3 : secBytes s t c stop p k = y.2.2 := by rw [secBytes, e1, hy]; rfl
          rw [e1, e2, e3]
          exact copiesSector_of_next hy

/-- A copy of 32 bytes, and a gather of two rows of 32 bytes of a table of one row, at the middle of its first. -/
def kq32 : Vector Word 8 := vset kq 4 32
/-- The gather. -/
def gq32 : Vector Word 8 := vset (vset (gq 1) 4 (word (1 + 32 * 2 ^ 32 + 2 * 2 ^ 48))) 6 32

theorem witness_CopyUnits :
    ((run 0 kq32 (.copy 0)).team? 1).any (fun t => ((run 0 kq32 (.copy 0)).running? 1 0).isSome &&
      (sectors (run 0 kq32 (.copy 0)) t { cm 0 (.running (.copy 0)) with q := kq32 } 32 { off := 0, misses := 0, idx := 0 } ((32 - 0 + 15) / 16)).isSome) = true ∧
    ((run 0 gq32 (.gather 16 0 0)).team? 1).any (fun t => ((run 0 gq32 (.gather 16 0 0)).running? 1 0).isSome &&
      (sectors (run 0 gq32 (.gather 16 0 0)) t { cm 0 (.running (.gather 16 0 0)) with q := gq32 } 64 { off := 16, misses := 0, idx := 0 } ((64 - 16 + 15) / 16)).isSome) = true ∧
    ((run 0 dqq (.copy 0)).team? 1).any (fun t =>
      (sectors (run 0 dqq (.copy 0)) t { cm 0 (.running (.copy 0)) with q := dqq } 16 { off := 0, misses := 0, idx := 0 } 1).isSome) = true ∧
    ((run 0 kq32 (.copy 0)).team? 1).any (fun t => match (run 0 kq32 (.copy 0)).copySource t { cm 0 (.running (.copy 0)) with q := vset kq32 2 (2 ^ 51) } { off := 0, misses := 0, idx := 0 } 16 with
      | .fail _ => true | _ => false) = true ∧
    ((run 0 gq32 (.gather 0 0 0)).team? 1).any (fun t => match (run 0 gq32 (.gather 0 0 0)).copyIndex t { cm 0 (.running (.copy 0)) with q := vset gq32 5 (2 ^ 51) } { off := 0, misses := 0, idx := 0 } with
      | (.fail _, _) => true | _ => false) = true := by decide +kernel

/-- A lost list, a member lost beside one whose contribution does not match. -/
def scolLost : State := { scol 1 8 with links := { (scol 1 8).links with lists := [{ members := [1, 2], lost := true, ops := 0 }] } }
/-- List 0 of three members. -/
def scol3 : State := { scol 1 8 with links := { (scol 1 8).links with lists := [{ members := [1, 2, 3], lost := false, ops := 0 }] } }

theorem witness_Collectives_lost :
    (scolLost.running? 1 3).any (fun y => y.2.1 == collC 1 8 && y.2.2 == .coll) = true ∧ (scolLost.collList 0).lost = true ∧
    (collC 1 8).collFits (scol3.collList 0) 1 [some (con 1 9 32), none] = true ∧ (collC 1 8).collSame (con 1 9 32) = false := by
  decide +kernel

/-- A decode command with its stream's last part, whose run has ended or not; `g`: in a group, with a tile write to the aperture held. -/
def savEnd (ended g : Bool) (h : Nat) (parts : List Av1Part) : State :=
  let s := sav 2 (some 1) parts true h
  let s := s.modTeam 1 fun t => { t with cmds := t.cmds.map fun c =>
    { c with q := vset c.q 0 (if g then 0x1001 else 1), st := match c.st with | .running (.av1 r) => .running (.av1 { r with ended := ended }) | x => x } }
  if g then { s with links := { s.links with apWrites := [{ own := .cmd 1 8 5, ba := 0x100100, bytes := [(0x6000000100, 1)] }] } } else s

theorem witness_DecodeEnded :
    ((savEnd true true 4096 [avPart]).running? 1 8).any (fun y => (match y.2.2 with | .av1 r => r.begun && r.ended | _ => false) && y.2.1.group.isSome && !y.2.1.failed &&
      (savEnd true true 4096 [avPart]).links.apWrites.any (fun w => w.own == .cmd y.1.num y.2.1.e y.2.1.seq)) = true ∧
    ((savEnd false true 0 [avPart]).running? 1 8).any (fun y => (match y.2.2 with | .av1 r => r.begun && !r.ended | _ => false) && y.2.1.fld 3 0 32 == 0) = true ∧
    ((savEnd true false 4096 [avPart]).running? 1 8).any (fun y => (match y.2.2 with | .av1 r => r.begun && r.ended | _ => false) && y.2.1.group.isNone) = true := by
  decide +kernel

/-- A stream whose one byte has been read stands at its frame, whatever the frame holds. -/
theorem witness_DecodeFrame_read : let x := (savEnd false false 1 [{ avPart with bytes := [none] }]).av1Ctx 0 7
    min (x.factRead 0) 1 ≤ 1 ∧ (x.missing 0 = true ∨ x.missing 0 = false) ∧
    ((savEnd false false 1 [{ avPart with bytes := [none] }]).running? 1 8).any (fun y => (match y.2.2 with | .av1 r => r.begun && !r.ended | _ => false) && y.2.1.fld 3 0 32 != 0 && y.2.1.group.isNone) = true ∧
    x.parts = [] ++ [{ avPart with bytes := [none] }] ∧
    ((savEnd false true 1 [{ avPart with bytes := [none] }]).running? 1 8).any (fun y => y.2.1.group.isSome && y.2.1.fld 3 0 32 == 1) = true := by
  refine ⟨Nat.min_le_right _ _, ?_, by decide +kernel, rfl, by decide +kernel⟩
  cases Av1Ctx.missing _ 0 <;> simp

/-- A load of lanes that all lie on a line which the L1 holds. -/
theorem witness_LoadIntoRegister_hits :
    begins { (swait.modCore 0 fun c => { c with loads := [] }) with mem := { sa.mem with nextTok := 20 } } kLda (fmem 3 0) (fun c rs s2 =>
      (chkFail rs).isNone && (chkFaults rs).isEmpty && (s2.awaited c ((needOf rs).map (·.pa))).isEmpty &&
      (needOf rs).any (fun n => isHbm n.pa && (s2.core c.t.core).l1Hit n.pa && (needOf rs).any fun m => m.pos / 8 != n.pos / 8 && isHbm m.pa && (s2.core c.t.core).l1Hit m.pa)) = true := by
  decide +kernel

/-! ## One step on a small state; the expected values are the spec's -/

/-- The state after an instruction. -/
def nxt (o : Host.Outcome State Fault Refusal) : State :=
  match o with
  | .next s => s
  | _ => State.reset

/-- Lane `t` of a warp's vector register after an instruction. -/
def vAt (s : State) (w : WarpId) (n t : Nat) : Nat := (((s.warp? w).bind fun x => x.v[n]?).map fun r => (lane r.data t).toNat).getD 0
/-- Lane `t` of a warp's a register. -/
def aAt (s : State) (w : WarpId) (n t : Nat) : Nat := ((s.warp? w).map fun x => (lane (vget x.a n 0) t).toNat).getD 0
/-- A warp's k register. -/
def kAt (s : State) (w : WarpId) (n : Nat) : Nat := ((s.warp? w).map fun x => (vget x.k n 0).toNat).getD 0
/-- A warp's predicate. -/
def pAt (s : State) (w : WarpId) (n : Nat) : Nat := ((s.warp? w).map fun x => (vget x.p n 0).toNat).getD 0
/-- A warp's flags. -/
def flagsAt (s : State) (w : WarpId) : Nat := ((s.warp? w).map fun x => x.fflags.toNat).getD 0
/-- The cause in a warp's tinfo0 (Table 7.9). -/
def causeAt (s : State) (w : WarpId) : Nat := ((s.warp? w).map fun x => fieldOf (vget x.tinfo 0 0) 40 8).getD 0

/-- The execute warp current, k1 and k2 as given. -/
def xk (a b : Nat) : State := sx.modWarp xw fun x => (x.withK 1 a).withK 2 b
/-- k3 := op(k1, k2). -/
def kop (ty : BitVec 4) : Alu2 := { ty := ty, d := fk 3, a := fk 1, b := fk 2, cc := 0, g := g0, uni := true }
/-- v3 := op(v1, v2), v1 and v2 taken from k1 and k2. -/
def vop (ty : BitVec 4) : Alu2 := { ty := ty, d := fv 3, a := fk 1, b := fk 2, cc := 0, g := g0, uni := false }
/-- v3 := op(k1). -/
def vop1 (ty : BitVec 4) : Alu1 := { ty := ty, d := fv 3, a := fk 1, cc := 0, g := g0, uni := false }

/-- The first nine rows of Example 10.2. -/
theorem test_example_10_2 :
    vAt (nxt (exec (.vadd (vop 0)) (xk 100 100))) xw 3 0 = 0xc8 ∧ vAt (nxt (exec (.vadds (vop 0)) (xk 100 100))) xw 3 31 = 127 ∧
    vAt (nxt (exec (.vsubs (vop 4)) (xk 3 5))) xw 3 0 = 0 ∧ vAt (nxt (exec (.vmulh (vop 1)) (xk 0x8000 0x8000))) xw 3 0 = 0x4000 ∧
    vAt (nxt (exec (.vmulh (vop 5)) (xk 0xffff 0xffff))) xw 3 0 = 0xfffe ∧ vAt (nxt (exec (.vdiv (vop 2)) (xk (7 + 7 * 2 ^ 32) 0))) xw 3 0 = 0xffffffffffffffff ∧
    vAt (nxt (exec (.vdiv (vop 2)) (xk 0x80000000 0x1ffffffff))) xw 3 0 = 0x80000000 ∧ vAt (nxt (exec (.vshl (vop 2)) (xk 1 40))) xw 3 0 = 0 ∧
    vAt (nxt (exec (.vsar (vop 2)) (xk 0x80000000 40))) xw 3 0 = 0xffffffff := by decide +kernel

/-- Its last three rows. -/
theorem test_example_10_2_rest :
    vAt (nxt (exec (.vrot (vop 6)) (xk 0x80000001 33))) xw 3 0 = 3 ∧ vAt (nxt (exec (.vabs (vop1 0)) (xk 0x80 0))) xw 3 0 = 0x80 ∧
    vAt (nxt (exec (.vclz (vop1 5)) (xk 0 0))) xw 3 0 = 0x0010001000100010 := by decide +kernel

/-- A uniform add wraps in its type and the k register rule extends it by sign (R290); the other registers stay. -/
theorem test_kadd : kAt (nxt (exec (.kadd (kop 2)) (xk 0x7fffffff 1))) xw 3 = 0xffffffff80000000 ∧ kAt (nxt (exec (.kadd (kop 6)) (xk 0xffffffff 1))) xw 3 = 0 ∧
    kAt (nxt (exec (.kadd (kop 7)) (xk 1 1))) xw 1 = 1 := by decide +kernel

/-- Inactive lanes keep their values (R262). -/
theorem test_predicated_lanes : vAt (nxt (exec (.vadd { vop 7 with g := g2 }) (xk 100 100))) xw 3 15 = 200 ∧
    vAt (nxt (exec (.vadd { vop 7 with g := g2 }) (xk 100 100))) xw 3 16 = vAt sx xw 3 16 := by decide +kernel

/-- f32: 2^24 + 1 ties to even and sets inexact (R226, Example 11.3). -/
theorem test_vfadd_tie : vAt (nxt (exec (.vfadd (vop 10)) (xk 0x4b800000 0x3f800000))) xw 3 0 = 0x4b800000 ∧ flagsAt (nxt (exec (.vfadd (vop 10)) (xk 0x4b800000 0x3f800000))) xw ≠ 0 ∧
    vAt (nxt (exec (.vfadd (vop 10)) (xk 0x3f800000 0x3f800000))) xw 3 0 = 0x40000000 := by decide +kernel

/-- The two positions of Example 11.2: a tie of the conversion goes to the even value, in part 1, and inexact is set. -/
theorem test_example_11_2 :
    let s := nxt (exec (.vcvt { ty := 9, d := fv 3, a := fk 1, part := 1, la := 1, sf := false, rm := 0, st := 10, cc := 0, g := g0 }) (xk 0x3f8180003f808000 0))
    vAt s xw 3 0 = 0x3f823f8000000000 ∧ flagsAt s xw ≠ 0 := by decide +kernel

/-- Lanes 0 and 1 hold 2^24, 1, 1, 1 as in Example 11.3. -/
def s113 : State := sx.modWarp xw fun x => { x with v := x.v.modify 1 fun r => { r with data := ofLanes (fun t => if t = 0 then 0x3f8000004b800000 else 0x3f8000003f800000), uninit := 0 } }

/-- The tree and the fold of Example 11.3. -/
theorem test_example_11_3 :
    let f : RedF := { ty := 10, d := fv 3, a := fv 1, ex := false, op := 0, gs := 2, cc := 0, g := g0 }
    vAt (nxt (exec (.vred f) s113)) xw 3 0 = 0x4b8000014b800001 ∧ vAt (nxt (exec (.vred f) s113)) xw 3 1 = 0x4b8000014b800001 ∧
    vAt (nxt (exec (.vscan f) s113)) xw 3 0 = 0x4b8000004b800000 ∧ vAt (nxt (exec (.vscan f) s113)) xw 3 1 = 0x4b8000004b800000 := by decide +kernel

/-- The positions of Example 11.3's `vtopk`: 5, 7, 5, NaN, 7, -0, 5, +0. -/
def stop : State := sx.modWarp xw fun x => { x with v := x.v.modify 1 fun r => { r with
  data := ofLanes (fun t => [0x40e0000040a00000, 0x7fc0000040a00000, 0x8000000040e00000, 0x40a00000].getD t 0), uninit := 0 } }

/-- All lanes active, and `.lo`. -/
theorem test_example_11_3_topk :
    let f (lo : Bool) : TopkF := { ty := 10, d := fv 3, a := fv 1, k := 3, lo := lo, gs := 3, cc := 0, g := g0 }
    [0, 1, 2, 3].map (vAt (nxt (exec (.vtopk (f false)) stop)) xw 3) = [0xffffffffffffffff, 0, 0xffffffff, 0] ∧
    [0, 1, 2, 3].map (vAt (nxt (exec (.vtopk (f true)) stop)) xw 3) = [0xffffffff, 0, 0xffffffff00000000, 0xffffffff00000000] := by decide +kernel

/-- Example 11.1: scale 0.5, zero point 8. -/
theorem test_example_11_1 :
    let s := sx.modWarp xw fun x => { x.withK 9 0x83800 with v := x.v.modify 1 fun r => { r with data := ofLanes (fun t => if t = 0 then 0xc120000040300000 else 0x7fc000003e800000), uninit := 0 }, p := vset x.p 2 3 }
    let u := nxt (exec (.vqnt { ty := 11, d := fv 3, a := fv 1, b := fk 9, la := 0, part := 0, st := 10, cc := 0, g := g2 }) s)
    vAt u xw 3 0 % 256 = 0x0e ∧ vAt u xw 3 1 % 256 = 0x88 ∧ ((u.warp? xw).map fun x => x.amax.toNat % 2 ^ 32) = some 0x41200000 := by decide +kernel

/-- `bra` taken by every thread goes to the header plus 8 times its signed displacement (R281). -/
theorem test_bra : ((nxt (exec (.bra { all := false, disp := 6, g := g0 }) (base.on xw 2 1))).warp? xw).map (·.hdr) = ((base.on xw 2 1).warp? xw).map (fun x => x.hdr + 48) ∧
    ((nxt (exec (.bra { all := false, disp := BitVec.ofInt 33 (-2), g := g0 }) (base.on xw 2 1))).warp? xw).map (·.hdr) = ((base.on xw 2 1).warp? xw).map (fun x => x.hdr - 16) := by decide +kernel

/-- `trap` raises cause 0x06 and goes to the handler; where its predicate fails it does nothing (R286, Table 7.13). -/
theorem test_trap : causeAt (nxt (exec (.trap { n := 7, g := g0 }) sh)) xw = 6 ∧ ((nxt (exec (.trap { n := 7, g := g0 }) sh)).warp? xw).map (·.hdr) = some 0x40 ∧
    causeAt (nxt (exec (.trap { n := 7, g := g1 }) sh)) xw = 0 := by decide +kernel

/-- `qpush` gives the entry its source's lanes, 0 where a lane is inactive (Table 13.6). -/
theorem test_qpush :
    let s := nxt (exec (.qpush { d := fq 0, a := 1, g := g2 }) sa)
    ((s.team? 1).bind fun t => t.queues[0]?).map (fun q => q.entries.map fun e => ((lane e.data 15).toNat, (lane e.data 16).toNat)) = some [(0, 0), (0, 0), (0x40000 + 8 * 15, 0)] := by decide +kernel

/-- A store of the access warp: its bytes are the line's, little-endian; a load that follows reads them (R352). -/
theorem test_sta :
    let s := nxt (exec (.sta (fmem 2 0)) (sa.modWarp aw fun x => { x with a := vset x.a 2 (ofLanes fun t => 0x0102030405060708 + t) }))
    ((s.core 0).l1.filter (·.pa == 0x40000)).map (fun l => ((l.byte 0).toNat, (l.byte 7).toNat, (l.byte 8).toNat)) = [(0x08, 0x01, 0x09)] := by decide +kernel

/-- The words of Example 14.2: `xpopc` of a bitmap, and a count mismatch that writes cause 1 and the word's number. -/
theorem test_lighter :
    let s (i : Instr) : Option CmdState := ((nxt (exec i { run 1 (lq 0) (.lighter { m0 with s := vset (vset m0.s 3 7) 4 2 }) with cur := some (.lighter 0) })).team? 1).bind fun t => t.cmds.head?.map (·.st)
    (match s (.xpopc 5 3) with | some (.running (.lighter m)) => (vget m.s 5 0).toNat == 3 && m.pc == 1 | _ => false) = true ∧
    (match s (.xchk 5 4) with | some (.running (.lighter m)) => m.errors == 1 && m.pc == 3 && m.tileNo == 0 | _ => false) = true := by decide +kernel

/-- `pnext` of a null pointer ends the walk as not found; a node that is not aligned with outcome 3 (R401, R402). -/
theorem test_pilot :
    let s (a : BitVec 3) : Option CmdState := ((nxt (exec (.pnext a) (spl 0 (wk none 0)))).team? 1).bind fun t => t.cmds.head?.map (·.st)
    (match s 0 with | some (.running (.pilot r)) => r.walks.map (·.out) == [some (1, 0)] | _ => false) = true ∧
    (match s 2 with | some (.running (.pilot r)) => r.walks.map (·.out) == [some (3, 0x28)] | _ => false) = true := by decide +kernel

/-- After reset the controller runs its ROM and no team exists. -/
theorem test_reset : State.reset.mgmt.stage = .rom ∧ State.reset.hm.teams = [] ∧ (State.reset.island 0).st = .s3 := by decide +kernel

/-- A word of Example 9.2 and one of Example 14.2 as the table's words. -/
theorem test_decodeTableWord : decodeTableWord 64 0x4050280101900000 = some (.vfadd { ty := 10, d := 40, a := 8, b := 100, cc := 0, g := g0, uni := false }) ∧
    decodeTableWord 32 0x594efff9 = some (.xbr 2 9 13 (BitVec.ofInt 15 (-7))) := by decide +kernel
end Sys2Proof.Machine
end

section
/-! PROOF. Fields of registers, bytes of buffers and of flash slots: what the readers of Registers.lean and the writers of Security.lean give back. -/

namespace Sys2Proof.Machine

/-! ## Fields of a word -/

/-- A field as a quotient and a remainder. -/
theorem fieldOf_eq (x : Word) (lo w : Nat) : fieldOf x lo w = x.toNat / 2 ^ lo % 2 ^ w := by
  rw [fieldOf, bitsOf, Nat.shiftRight_eq_div_pow]

/-- A field is its low part and, above it, its high part. -/
theorem fieldOf_add (x : Word) (lo m n : Nat) : fieldOf x lo (m + n) = fieldOf x lo m + 2 ^ m * fieldOf x (lo + m) n := by
  simp only [fieldOf_eq, Nat.pow_add, Nat.mod_mul, Nat.div_div_eq_div_mul]

/-- A field without its low bits. -/
theorem fieldOf_div (x : Word) (lo m n : Nat) : fieldOf x lo (m + n) / 2 ^ m = fieldOf x (lo + m) n := by
  have hlow : fieldOf x lo m < 2 ^ m := Nat.mod_lt _ (Nat.two_pow_pos m)
  rw [fieldOf_add, Nat.add_mul_div_left _ _ (Nat.two_pow_pos m), Nat.div_eq_of_lt hlow, Nat.zero_add]

/-- One bit as a number is at most 1. -/
theorem b2n_le_one (b : Bool) : b2n b ≤ 1 := by cases b <;> decide

/-- Numbers of one width side by side, as a sum. -/
theorem sum_tab_eq_packNat (w : Nat) (f : Nat → Nat) (hf : ∀ i, f i < 2 ^ w) (n : Nat) :
    ((tab n fun j => (w * j, f j)).map fun x => x.2 * 2 ^ x.1).sum = packNat w f n := by
  induction n with
  | zero => rfl
  | succ n ih =>
    simp only [tab] at ih
    rw [tab, List.range_succ, List.map_append, List.map_append, List.sum_append, ih, packNat, Nat.mod_eq_of_lt (hf n), Nat.or_comm,
      ← Nat.shiftLeft_add_eq_or_of_lt (packNat_lt w f n), Nat.shiftLeft_eq, Nat.add_comm]
    simp

/-- A byte of a little-endian number. -/
theorem leNat_div_mod (l : List Byte) (i : Nat) : leNat l / 2 ^ (8 * i) % 2 ^ 8 = (l.getD i 0).toNat := by
  induction l generalizing i with
  | nil => simp [leNat]
  | cons b bs ih =>
    have hb : b.toNat < 256 := b.isLt
    cases i with
    | zero => simp only [leNat, List.getD_cons_zero]; omega
    | succ i =>
      have hdrop : (b.toNat + 256 * leNat bs) / 2 ^ 8 = leNat bs := by omega
      rw [leNat, Nat.mul_succ, Nat.add_comm (8 * i), Nat.pow_add, ← Nat.div_div_eq_div_mul, hdrop, ih, List.getD_cons_succ]

/-- The bound of a little-endian number. -/
theorem leNat_lt (l : List Byte) : leNat l < 2 ^ (8 * l.length) := by
  induction l with
  | nil => simp [leNat]
  | cons b bs ih =>
    have hb : b.toNat < 256 := b.isLt
    rw [List.length_cons, Nat.mul_succ, Nat.pow_add]
    simp only [leNat]
    omega

/-! ## Runs of bytes -/

/-- A byte of a buffer after numbered bytes have been put into it. -/
theorem vget_foldl_vset {n : Nat} (bs : List Byte) (off k i : Nat) (d : Byte) (hi : i < n) (buf : Vector Byte n) :
    vget ((bs.zipIdx k).foldl (fun b x => vset b (off + x.2) x.1) buf) i d =
      if off + k ≤ i then (bs[i - (off + k)]?).getD (vget buf i d) else vget buf i d := by
  induction bs generalizing k buf with
  | nil => simp
  | cons b bs ih =>
    rw [List.zipIdx_cons, List.foldl_cons, ih]
    rcases Nat.lt_trichotomy i (off + k) with hlt | rfl | hgt
    · rw [if_neg (by omega), if_neg (by omega), vget_vset_other _ _ _ _ _ (by omega)]
    · rw [if_neg (by omega), if_pos (Nat.le_refl _), vget_vset_same _ _ _ _ hi, Nat.sub_self, List.getElem?_cons_zero, Option.getD_some]
    · have hidx : i - (off + k) = i - (off + (k + 1)) + 1 := by omega
      rw [if_pos (by omega), if_pos (by omega), vget_vset_other _ _ _ _ _ (by omega), hidx, List.getElem?_cons_succ]

/-- A byte of the mailbox buffer after a string has been put into it. -/
theorem vget_putBuffer (buf : Vector Byte 1024) (off : Nat) (bs : List Byte) (i : Nat) (d : Byte) (hi : i < 1024) :
    vget (putBuffer buf off bs) i d = if off ≤ i then (bs[i - off]?).getD (vget buf i d) else vget buf i d := by
  simpa [putBuffer] using vget_foldl_vset bs off 0 i d hi buf

/-- Cells whose addresses rise stay so when one is written, whatever bytes are listed. -/
theorem writeCell_rising {c : List Host.Cell} (a : Nat) (v : Byte) (h : c.Pairwise fun x y => x.1 < y.1) :
    (writeCell c a v).Pairwise fun x y => x.1 < y.1 := by
  induction c with
  | nil => simp only [writeCell]; split <;> simp
  | cons x r ih =>
    obtain ⟨k, y⟩ := x
    obtain ⟨hk, hr⟩ := List.pairwise_cons.mp h
    simp only [writeCell]
    split
    · split
      · exact h
      · refine List.pairwise_cons.mpr ⟨fun z hz => ?_, h⟩
        rcases List.mem_cons.mp hz with rfl | hz
        · assumption
        · exact Nat.lt_trans ‹a < k› (hk z hz)
    · split
      · split
        · exact hr
        · exact List.pairwise_cons.mpr ⟨‹a = k› ▸ hk, hr⟩
      · exact List.pairwise_cons.mpr ⟨writeCell_above v hk (by omega), ih hr⟩

/-- The byte just written, in cells whose addresses rise. -/
theorem readCell_writeCell_rising {c : List Host.Cell} (a : Nat) (v : Byte) (h : c.Pairwise fun x y => x.1 < y.1) :
    readCell (writeCell c a v) a = v := by
  induction c with
  | nil => simp only [writeCell]; split <;> simp [readCell, *]
  | cons x r ih =>
    obtain ⟨k, y⟩ := x
    obtain ⟨hk, hr⟩ := List.pairwise_cons.mp h
    have habove : cellsAbove k r := hk
    simp only [writeCell]
    split
    · have hne : k ≠ a := by omega
      split
      · have hr0 : readCell r a = 0 := readCell_of_above fun z hz => Nat.lt_trans ‹a < k› (hk z hz)
        simp [readCell, hne, hr0, ‹v = 0›]
      · simp [readCell]
    · split
      · subst ‹a = k›
        split
        · rw [readCell_of_above habove, ‹v = 0›]
        · simp [readCell]
      · have hne : k ≠ a := by omega
        simp [readCell, hne, ih hr]

/-- A run of bytes reads back, and every other byte is as it was. -/
theorem readCell_writeRun (bs : List Byte) (a x : Nat) (c : List Host.Cell) (h : c.Pairwise fun x y => x.1 < y.1) :
    readCell (writeRun c a bs) x = if a ≤ x ∧ x < a + bs.length then bs.getD (x - a) 0 else readCell c x := by
  induction bs generalizing a c with
  | nil => simp [writeRun, show ¬ (a ≤ x ∧ x < a) by omega]
  | cons b bs ih =>
    rw [writeRun, ih (a + 1) _ (writeCell_rising a b h), List.length_cons]
    rcases Nat.lt_trichotomy x a with hlt | rfl | hgt
    · have hne : x ≠ a := by omega
      rw [if_neg (by omega), if_neg (by omega), readCell_writeCell_other c a x b hne]
    · rw [if_neg (by omega), if_pos (by omega), readCell_writeCell_rising x b h, Nat.sub_self, List.getD_cons_zero]
    · have hne : x ≠ a := by omega
      have hidx : x - a = x - (a + 1) + 1 := by omega
      have hiff : (a + 1 ≤ x ∧ x < a + 1 + bs.length) ↔ (a ≤ x ∧ x < a + (bs.length + 1)) := by omega
      simp only [hiff, hidx, List.getD_cons_succ, readCell_writeCell_other c a x b hne]

end Sys2Proof.Machine
end

section
/-! PROOF. The mailbox (R40 to R42): how a written command ends, and what each command that starts leaves behind. -/

namespace Sys2Proof.Machine

/-! ## Arguments of a command word -/

/-- An argument bit is set where a command uses none. -/
theorem mbArgs_ne_zero (w : Word) : (mbArg0 w != 0 || mbArg1 w != 0) = (fieldOf w 16 48 != 0) := by
  have h : fieldOf w 16 48 = mbArg0 w + 2 ^ 16 * mbArg1 w := fieldOf_add w 16 16 32
  rw [Bool.eq_iff_iff]
  simp only [Bool.or_eq_true, bne_iff_ne]
  omega

/-- A bit of the first argument is set above a slot number. -/
theorem mbArg0_div_two (w : Word) : mbArg0 w / 2 = fieldOf w 17 15 := fieldOf_div w 16 1 15

/-- A bit of the first argument is set above a length. -/
theorem mbArg0_div_1024 (w : Word) : mbArg0 w / 1024 = fieldOf w 26 6 := fieldOf_div w 16 10 6

/-- An argument bit is set beside a slot number. -/
theorem mbSlot_unused (w : Word) : (mbArg0 w / 2 != 0 || mbArg1 w != 0) = (fieldOf w 17 47 != 0) := by
  have h : fieldOf w 17 47 = mbArg0 w / 2 + 2 ^ 15 * mbArg1 w := (fieldOf_add w 17 15 32).trans (by rw [mbArg0_div_two]; rfl)
  rw [Bool.eq_iff_iff]
  simp only [Bool.or_eq_true, bne_iff_ne]
  omega

/-! ## The gate that every command passes -/

/-- The stages of a row run firmware: none of them is Rom or Stopped. -/
def mbServed (ss : List Stage) : Prop := ∀ x ∈ ss, x ≠ .rom ∧ x ≠ .stopped

/-- The device accepts the command of a code: none runs, the word's code is this one with bits [15:8] zero, and the row lists the stage. -/
structure MbAccepts (s : State) (w : Word) (code : Nat) (ss : List Stage) : Prop where
  idle  : s.mgmt.mbRun = none
  code  : mbCode w = code
  bits  : fieldOf w 8 8 = 0
  stage : s.mgmt.stage ∈ ss

theorem inStages_iff (ss : List Stage) (s : State) : inStages ss s = true ↔ s.mgmt.stage ∈ ss := by
  simp [inStages]

section gate
variable {s : State} {w : Word} {code : Nat} {ss : List Stage} {unused : Bool} {f : State → State}

/-- In stages Rom and Stopped a write is ignored. -/
theorem mailbox_ignored (h : s.mgmt.stage = .rom ∨ s.mgmt.stage = .stopped) : s.mailbox w code ss unused f = .next s := by
  rw [State.mailbox, if_pos (.inr h)]

/-- Written while another runs, a command is discarded with error 2. -/
theorem mailbox_busy (hcode : mbCode w = code) (hr : s.mgmt.stage ≠ .rom) (hs : s.mgmt.stage ≠ .stopped) (h : s.mgmt.mbRun ≠ none) :
    s.mailbox w code ss unused f = .next { s with mgmt := { s.mgmt with mbError := 2 } } := by
  rw [State.mailbox, if_neg (by simp [hcode, hr, hs]), if_pos (Option.isSome_iff_ne_none.mpr h)]

/-- In a stage that its row does not list a command ends with error 5. -/
theorem mailbox_badStage (hcode : mbCode w = code) (hr : s.mgmt.stage ≠ .rom) (hs : s.mgmt.stage ≠ .stopped) (hidle : s.mgmt.mbRun = none)
    (h : s.mgmt.stage ∉ ss) : s.mailbox w code ss unused f = .next (s.mbStart 5 []) := by
  rw [State.mailbox, if_neg (by simp [hcode, hr, hs]), if_neg (by simp [hidle]), if_pos (by simpa [inStages] using h)]

/-- With a bit set that its row does not use a command ends with error 4. -/
theorem mailbox_badBits (hss : mbServed ss) (hcode : mbCode w = code) (hidle : s.mgmt.mbRun = none) (hstage : s.mgmt.stage ∈ ss)
    (h : fieldOf w 8 8 ≠ 0 ∨ unused = true) : s.mailbox w code ss unused f = .next (s.mbStart 4 []) := by
  obtain ⟨hr, hs⟩ := hss _ hstage
  rw [State.mailbox, if_neg (by simp [hcode, hr, hs]), if_neg (by simp [hidle]), if_neg (by simpa [inStages] using hstage), if_pos h]

/-- Else it runs. -/
theorem mailbox_runs (hss : mbServed ss) (h : MbAccepts s w code ss) (hu : unused = false) : s.mailbox w code ss unused f = .next (f s) := by
  obtain ⟨hr, hs⟩ := hss _ h.stage
  rw [State.mailbox, if_neg (by simp [h.code, hr, hs]), if_neg (by simp [h.idle]), if_neg (by simpa [inStages] using h.stage),
    if_neg (by simp [h.bits, hu])]

end gate

section arms
variable (w : Word) (s : State)

theorem exec_readIdentityCertificate : exec (.readIdentityCertificate w) s = execReadIdentityCertificate w s := rfl
theorem exec_readAliasCertificate : exec (.readAliasCertificate w) s = execReadAliasCertificate w s := rfl
theorem exec_attest : exec (.attest w) s = execAttest w s := rfl
theorem exec_raiseFuseSvn : exec (.raiseFuseSvn w) s = execRaiseFuseSvn w s := rfl
theorem exec_readConfiguration : exec (.readConfiguration w) s = execReadConfiguration w s := rfl
theorem exec_imageBegin : exec (.imageBegin w) s = execImageBegin w s := rfl
theorem exec_imageChunk : exec (.imageChunk w) s = execImageChunk w s := rfl
theorem exec_imageCommit : exec (.imageCommit w) s = execImageCommit w s := rfl
theorem exec_mailboxBadCode : exec (.mailboxBadCode w) s = execMailboxBadCode w s := rfl
theorem exec_mailboxCommandDone : exec .mailboxCommandDone s = execMailboxCommandDone s := rfl

end arms

/-- A row of Table 1.16 is the gate with the row's code, stages and unused bits, and its stages run firmware. -/
theorem mbRow_exec {w : Word} {i : Instr} {code : Nat} {ss : List Stage} {unused : Bool} (s : State) (h : mbRow w i code ss unused) :
    mbServed ss ∧ ∃ f, exec i s = s.mailbox w code ss unused f := by
  simp only [mbRow, ← mbArgs_ne_zero, ← mbArg0_div_two, ← mbArg0_div_1024, ← mbSlot_unused] at h
  rcases h with ⟨rfl, rfl, rfl, rfl⟩ | ⟨rfl, rfl, rfl, rfl⟩ | ⟨rfl, rfl, rfl, rfl⟩ | ⟨rfl, rfl, rfl, rfl⟩ | ⟨rfl, rfl, rfl, rfl⟩ | ⟨rfl, rfl, rfl, rfl⟩ |
    ⟨rfl, rfl, rfl, rfl⟩ | ⟨rfl, rfl, rfl, rfl⟩
  · exact ⟨by simp [mbServed], _, exec_readIdentityCertificate w s⟩
  · exact ⟨by simp [mbServed], _, exec_readAliasCertificate w s⟩
  · exact ⟨by simp [mbServed], _, exec_attest w s⟩
  · exact ⟨by simp [mbServed], _, exec_raiseFuseSvn w s⟩
  · exact ⟨by simp [mbServed], _, exec_readConfiguration w s⟩
  · exact ⟨by simp [mbServed], _, exec_imageBegin w s⟩
  · exact ⟨by simp [mbServed], _, exec_imageChunk w s⟩
  · exact ⟨by simp [mbServed], _, exec_imageCommit w s⟩

/-! ## Commands without arguments -/

section plain
variable {s : State} {w : Word}

theorem readIdentityCertificate_runs (h : MbAccepts s w 0x01 [.firmware, .running, .recovery]) (h0 : mbArg0 w = 0) (h1 : mbArg1 w = 0) :
    exec (.readIdentityCertificate w) s = .next (s.mbStart 0 identityCert) := by
  rw [exec_readIdentityCertificate, execReadIdentityCertificate, mailbox_runs (by simp [mbServed]) h (by simp [h0, h1])]

theorem readAliasCertificate_runs {g : RunningImage} (h : MbAccepts s w 0x02 [.firmware, .running]) (h0 : mbArg0 w = 0) (h1 : mbArg1 w = 0)
    (hg : s.mgmt.image = some g) : exec (.readAliasCertificate w) s = .next (s.mbStart 0 g.aliasCert) := by
  rw [exec_readAliasCertificate, execReadAliasCertificate, mailbox_runs (by simp [mbServed]) h (by simp [h0, h1])]
  simp [hg]

theorem attest_runs {g : RunningImage} (h : MbAccepts s w 0x03 [.firmware, .running]) (h0 : mbArg0 w = 0) (h1 : mbArg1 w = 0)
    (hg : s.mgmt.image = some g) : exec (.attest w) s = .next (s.mbStart 0 (s.mgmt.report g (s.mgmt.mbBuf.toList.take 32))) := by
  rw [exec_attest, execAttest, mailbox_runs (by simp [mbServed]) h (by simp [h0, h1])]
  simp [hg]

theorem readConfiguration_runs (h : MbAccepts s w 0x05 [.firmware, .running, .recovery]) (h0 : mbArg0 w = 0) (h1 : mbArg1 w = 0) :
    exec (.readConfiguration w) s = .next (s.mbStart 0 (s.mgmt.fuseRecord ++ configTable)) := by
  rw [exec_readConfiguration, execReadConfiguration, mailbox_runs (by simp [mbServed]) h (by simp [h0, h1])]

/-- RAISE_FUSE_SVN leaves the greater of the minimum version and the running image's. -/
theorem raiseFuseSvn_runs {g : RunningImage} (h : MbAccepts s w 0x04 [.running]) (h0 : mbArg0 w = 0) (h1 : mbArg1 w = 0) (hg : s.mgmt.image = some g) :
    ∃ v : BitVec 32, v.toNat = max s.mgmt.minSvn.toNat g.svn.toNat ∧
      exec (.raiseFuseSvn w) s = .next ({ s with mgmt := { s.mgmt with minSvn := v } }.mbStart 0 []) := by
  refine ⟨if s.mgmt.minSvn < g.svn then g.svn else s.mgmt.minSvn, ?_, ?_⟩
  · split
    next hlt => exact (Nat.max_eq_right (Nat.le_of_lt hlt)).symm
    next hge => exact (Nat.max_eq_left (Nat.le_of_not_lt hge)).symm
  · rw [exec_raiseFuseSvn, execRaiseFuseSvn, mailbox_runs (by simp [mbServed]) h (by simp [h0, h1])]
    simp [hg]

/-- MAILBOX_BAD_CODE: an unlisted code ends with error 1. -/
theorem mailboxBadCode_idle (hcode : mbCode w ∉ mbCodes) (hr : s.mgmt.stage ≠ .rom) (hs : s.mgmt.stage ≠ .stopped) (h : s.mgmt.mbRun = none) :
    exec (.mailboxBadCode w) s = .next (s.mbStart 1 []) := by
  rw [exec_mailboxBadCode, execMailboxBadCode, if_neg (by simp [hcode, hr, hs]), if_neg (by simp [h])]

/-- MAILBOX_BAD_CODE: written while another runs it is discarded with error 2. -/
theorem mailboxBadCode_busy (hcode : mbCode w ∉ mbCodes) (hr : s.mgmt.stage ≠ .rom) (hs : s.mgmt.stage ≠ .stopped) (h : s.mgmt.mbRun ≠ none) :
    exec (.mailboxBadCode w) s = .next { s with mgmt := { s.mgmt with mbError := 2 } } := by
  rw [exec_mailboxBadCode, execMailboxBadCode, if_neg (by simp [hcode, hr, hs]), if_pos (Option.isSome_iff_ne_none.mpr h)]

end plain

/-! ## Flash slots -/

@[simp] theorem State.flash_mbStart (s : State) (e : Nat) (out : List Byte) (i : Nat) : (s.mbStart e out).flash i = s.flash i := rfl

@[simp] theorem State.flash_setFlash_same (s : State) (i : Nat) (f : FlashSlot) (h : i < 2) : (s.setFlash i f).flash i = f :=
  vget_vset_same _ _ _ _ h

@[simp] theorem State.flash_setFlash_other (s : State) (i j : Nat) (f : FlashSlot) (h : i ≠ j) : (s.setFlash i f).flash j = s.flash j :=
  vget_vset_other _ _ _ _ _ h

/-- The slot that is loading is one of the two, and it is loading. -/
theorem State.loadingSlot_spec {s : State} {i : Nat} (h : s.loadingSlot = some i) : i < 2 ∧ (s.flash i).loads = true := by
  have hmem : i = 0 ∨ i = 1 := by simpa using List.mem_of_find?_eq_some h
  exact ⟨by omega, List.find?_some (p := fun i => (s.flash i).loads) h⟩

theorem FlashSlot.loads_iff (f : FlashSlot) : f.loads = true ↔ ∃ n, f.st = .loading n := by
  cases h : f.st <;> simp [FlashSlot.loads, h]

theorem FlashSlot.total_of_loading {f : FlashSlot} {n : Nat} (h : f.st = .loading n) : f.total = n := by
  simp [FlashSlot.total, h]

/-! ## IMAGE_BEGIN -/

section imageBegin
variable {s : State} {w : Word}

/-- IMAGE_BEGIN of the running slot. -/
theorem imageBegin_runningSlot (h : MbAccepts s w 0x10 [.running, .recovery]) (hslot : mbArg0 w < 2)
    (hrun : s.mgmt.stage = .running ∧ s.mgmt.image.map (·.slot) = some (mbArg0 w)) : exec (.imageBegin w) s = .next (s.mbStart 5 []) := by
  rw [exec_imageBegin, execImageBegin, mailbox_runs (by simp [mbServed]) h (by simp [Nat.div_eq_of_lt hslot])]
  simp only [Nat.mod_eq_of_lt hslot, if_pos hrun]

/-- IMAGE_BEGIN of an image too small or too large. -/
theorem imageBegin_badSize (h : MbAccepts s w 0x10 [.running, .recovery]) (hslot : mbArg0 w < 2)
    (hrun : ¬ (s.mgmt.stage = .running ∧ s.mgmt.image.map (·.slot) = some (mbArg0 w))) (hsize : mbArg1 w < 4352 ∨ 50331904 < mbArg1 w) :
    exec (.imageBegin w) s = .next (s.mbStart 4 []) := by
  rw [exec_imageBegin, execImageBegin, mailbox_runs (by simp [mbServed]) h (by simp [Nat.div_eq_of_lt hslot])]
  simp only [Nat.mod_eq_of_lt hslot, if_neg hrun]
  rw [if_pos hsize]

/-- The state that IMAGE_BEGIN leaves: another slot that is loading is erased, and this one starts to load. -/
def State.beganImage (s : State) (slot n : Nat) : State :=
  ((if (s.flash (1 - slot)).loads then s.setFlash (1 - slot) FlashSlot.empty else s).setFlash slot { st := .loading n, bytes := [], written := [] }).mbStart 0 []

theorem imageBegin_erases (h : MbAccepts s w 0x10 [.running, .recovery]) (hslot : mbArg0 w < 2)
    (hrun : ¬ (s.mgmt.stage = .running ∧ s.mgmt.image.map (·.slot) = some (mbArg0 w))) (hlo : 4352 ≤ mbArg1 w) (hhi : mbArg1 w ≤ 50331904) :
    exec (.imageBegin w) s = .next (s.beganImage (mbArg0 w) (mbArg1 w)) := by
  rw [exec_imageBegin, execImageBegin, mailbox_runs (by simp [mbServed]) h (by simp [Nat.div_eq_of_lt hslot])]
  simp only [Nat.mod_eq_of_lt hslot, if_neg hrun]
  rw [if_neg (by omega)]
  rfl

theorem State.beganImage_flash (s : State) {slot : Nat} (n : Nat) (h : slot < 2) :
    (s.beganImage slot n).flash slot = { st := .loading n, bytes := [], written := [] } := by
  simp [State.beganImage, h]

theorem State.beganImage_flash_other (s : State) {slot : Nat} (n : Nat) (h : slot < 2) :
    (s.beganImage slot n).flash (1 - slot) = if (s.flash (1 - slot)).loads = true then FlashSlot.empty else s.flash (1 - slot) := by
  have hne : slot ≠ 1 - slot := by omega
  have hlt : 1 - slot < 2 := by omega
  rw [State.beganImage, State.flash_mbStart, State.flash_setFlash_other _ _ _ _ hne]
  split <;> simp [hlt]

theorem State.beganImage_frame (s : State) (slot n : Nat) :
    s.beganImage slot n = { s with mgmt := { s.mgmt with slots := (s.beganImage slot n).mgmt.slots, mbRun := (s.beganImage slot n).mgmt.mbRun } } := by
  by_cases h : (s.flash (1 - slot)).loads = true <;> simp [State.beganImage, h, State.setFlash, State.mbStart]

end imageBegin

/-! ## IMAGE_CHUNK -/

section imageChunk
variable {s : State} {w : Word}

/-- IMAGE_CHUNK with no slot loading. -/
theorem imageChunk_noSlot (h : MbAccepts s w 0x11 [.running, .recovery]) (hlen : mbArg0 w < 1024) (hnone : s.loadingSlot = none) :
    exec (.imageChunk w) s = .next (s.mbStart 4 []) := by
  rw [exec_imageChunk, execImageChunk, mailbox_runs (by simp [mbServed]) h (by simp [Nat.div_eq_of_lt hlen])]
  simp only [hnone]

/-- IMAGE_CHUNK past the image's end. -/
theorem imageChunk_pastEnd {i n : Nat} (h : MbAccepts s w 0x11 [.running, .recovery]) (hlen : mbArg0 w < 1024) (hi : s.loadingSlot = some i)
    (hn : (s.flash i).st = .loading n) (hend : n < mbArg1 w + (mbArg0 w + 1)) : exec (.imageChunk w) s = .next (s.mbStart 4 []) := by
  rw [exec_imageChunk, execImageChunk, mailbox_runs (by simp [mbServed]) h (by simp [Nat.div_eq_of_lt hlen])]
  simp only [hi, Nat.mod_eq_of_lt hlen, FlashSlot.total_of_loading hn]
  rw [if_pos hend]

/-- A slot with the first `len` bytes of a buffer written at an offset. -/
def FlashSlot.withChunk (f : FlashSlot) (off len : Nat) (buf : Vector Byte 1024) : FlashSlot :=
  { f with bytes := writeRun f.bytes off (buf.toList.take len), written := addRange off (off + len) f.written }

theorem imageChunk_writes {i n : Nat} (h : MbAccepts s w 0x11 [.running, .recovery]) (hlen : mbArg0 w < 1024) (hi : s.loadingSlot = some i)
    (hn : (s.flash i).st = .loading n) (hend : mbArg1 w + (mbArg0 w + 1) ≤ n) :
    exec (.imageChunk w) s = .next ((s.setFlash i ((s.flash i).withChunk (mbArg1 w) (mbArg0 w + 1) s.mgmt.mbBuf)).mbStart 0 []) := by
  rw [exec_imageChunk, execImageChunk, mailbox_runs (by simp [mbServed]) h (by simp [Nat.div_eq_of_lt hlen])]
  simp only [hi, Nat.mod_eq_of_lt hlen, FlashSlot.total_of_loading hn]
  rw [if_neg (by omega)]
  rfl

/-- The bytes of a slot after a chunk: the buffer's at the offset, the slot's own elsewhere. -/
theorem FlashSlot.readCell_withChunk (f : FlashSlot) (off : Nat) {len : Nat} (buf : Vector Byte 1024) (hlen : len ≤ 1024)
    (h : f.bytes.Pairwise fun a b => a.1 < b.1) (a : Nat) :
    readCell (f.withChunk off len buf).bytes a = if off ≤ a ∧ a < off + len then vget buf (a - off) 0 else readCell f.bytes a := by
  have htake : (buf.toList.take len).length = len := by simp [hlen]
  rw [FlashSlot.withChunk, readCell_writeRun _ _ _ _ h, htake]
  split
  next hin =>
    have hlt : a - off < len := by omega
    simp [vget, List.getD, hlt]
  next => rfl

end imageChunk

/-! ## IMAGE_COMMIT -/

section imageCommit
variable {s : State} {w : Word}

/-- IMAGE_COMMIT of an image that is not whole. -/
theorem imageCommit_notWhole (h : MbAccepts s w 0x12 [.running, .recovery]) (hslot : mbArg0 w < 2) (h1 : mbArg1 w = 0)
    (hpart : ∀ n, (s.flash (mbArg0 w)).st = .loading n → (s.flash (mbArg0 w)).written ≠ [(0, n)]) : exec (.imageCommit w) s = .next (s.mbStart 4 []) := by
  rw [exec_imageCommit, execImageCommit, mailbox_runs (by simp [mbServed]) h (by simp [Nat.div_eq_of_lt hslot, h1])]
  simp only [Nat.mod_eq_of_lt hslot]
  rw [if_pos]
  by_cases hl : (s.flash (mbArg0 w)).loads = true
  · obtain ⟨n, hn⟩ := (FlashSlot.loads_iff _).mp hl
    exact .inr (FlashSlot.total_of_loading hn ▸ hpart n hn)
  · exact .inl (by simpa using hl)

/-- The state that IMAGE_COMMIT of a whole image of `n` bytes leaves, by what its checks say (R33, R41). -/
def State.committedImage (s : State) (slot n : Nat) : Except Nat Measured → State
  | .ok _ => (s.setFlash slot { s.flash slot with st := .valid n }).mbStart 0 []
  | .error c => (s.setFlash slot FlashSlot.empty).mbStart 3 (leBytes 1 c)

section whole
variable {n : Nat} (h : MbAccepts s w 0x12 [.running, .recovery]) (hslot : mbArg0 w < 2) (h1 : mbArg1 w = 0)
  (hn : (s.flash (mbArg0 w)).st = .loading n) (hw : (s.flash (mbArg0 w)).written = [(0, n)])
include h hslot h1 hn hw

theorem imageCommit_whole : exec (.imageCommit w) s = .next (s.committedImage (mbArg0 w) n (s.mgmt.checkImage (s.flash (mbArg0 w)))) := by
  have hl : (s.flash (mbArg0 w)).loads = true := (FlashSlot.loads_iff _).mpr ⟨n, hn⟩
  rw [exec_imageCommit, execImageCommit, mailbox_runs (by simp [mbServed]) h (by simp [Nat.div_eq_of_lt hslot, h1])]
  simp only [Nat.mod_eq_of_lt hslot, FlashSlot.total_of_loading hn]
  rw [if_neg (by simp [hl, hw])]
  cases s.mgmt.checkImage (s.flash (mbArg0 w)) <;> rfl

theorem imageCommit_valid {m : Measured} (hm : s.mgmt.checkImage (s.flash (mbArg0 w)) = .ok m) :
    exec (.imageCommit w) s = .next ((s.setFlash (mbArg0 w) { s.flash (mbArg0 w) with st := .valid n }).mbStart 0 []) := by
  rw [imageCommit_whole h hslot h1 hn hw, hm, State.committedImage]

theorem imageCommit_erases {c : Nat} (hc : s.mgmt.checkImage (s.flash (mbArg0 w)) = .error c) :
    exec (.imageCommit w) s = .next ((s.setFlash (mbArg0 w) FlashSlot.empty).mbStart 3 (leBytes 1 c)) := by
  rw [imageCommit_whole h hslot h1 hn hw, hc, State.committedImage]

end whole
end imageCommit

/-! ## MAILBOX_COMMAND_DONE -/

/-- The state that a completed command leaves. -/
def State.mbPublished (s : State) (r : MailboxRun) : State :=
  { s with mgmt := { s.mgmt with
    mbRun := none, mbDone := s.mgmt.mbDone + 1, mbError := BitVec.ofNat 4 r.error, mbLen := BitVec.ofNat 16 r.out.length
    mbBuf := putBuffer s.mgmt.mbBuf 0 r.out } }

theorem mailboxCommandDone_publishes {s : State} {r : MailboxRun} (h : s.mgmt.mbRun = some r) : exec .mailboxCommandDone s = .next (s.mbPublished r) := by
  simp only [exec_mailboxCommandDone, execMailboxCommandDone, h, State.mbPublished]

theorem mailboxCommandDone_idle {s : State} (h : s.mgmt.mbRun = none) : exec .mailboxCommandDone s = .next s := by
  simp only [exec_mailboxCommandDone, execMailboxCommandDone, h]

theorem State.mbPublished_mbBuf (s : State) (r : MailboxRun) {i : Nat} (hi : i < 1024) :
    vget (s.mbPublished r).mgmt.mbBuf i 0 = (r.out[i]?).getD (vget s.mgmt.mbBuf i 0) := by
  simpa [State.mbPublished] using vget_putBuffer s.mgmt.mbBuf 0 r.out i 0 hi

end Sys2Proof.Machine
end

section
/-! PROOF. Reads of BAR0: which register an offset names, and the fields that its read returns. -/

namespace Sys2Proof.Machine

/-! ## Registers from their fields -/

/-- Fields from the topmost down, each below the one before it and all below bit `top`. -/
def fieldsFit : Nat → List (Nat × Nat) → Prop
  | _, [] => True
  | top, (lo, v) :: fs => lo ≤ top ∧ v < 2 ^ (top - lo) ∧ fieldsFit lo fs

/-- What such a register reads at bits `[p + w - 1 : p]`: the topmost field that begins at or below `p`. -/
def readField : List (Nat × Nat) → Nat → Nat → Nat
  | [], _, _ => 0
  | (lo, v) :: fs, p, w => if lo ≤ p then v / 2 ^ (p - lo) % 2 ^ w else readField fs p w

theorem sum_lt_of_fieldsFit {fs : List (Nat × Nat)} {top : Nat} (h : fieldsFit top fs) : (fs.map fun f => f.2 * 2 ^ f.1).sum < 2 ^ top := by
  induction fs generalizing top with
  | nil => exact Nat.two_pow_pos top
  | cons f fs ih =>
    obtain ⟨lo, v⟩ := f
    obtain ⟨hlo, hv, hfs⟩ := h
    have hpow : 2 ^ (top - lo) * 2 ^ lo = 2 ^ top := by rw [← Nat.pow_add, Nat.sub_add_cancel hlo]
    have hle : (v + 1) * 2 ^ lo ≤ 2 ^ top := hpow ▸ Nat.mul_le_mul_right _ hv
    have hrest := ih hfs
    rw [Nat.add_mul, Nat.one_mul] at hle
    rw [List.map_cons, List.sum_cons]
    exact Nat.lt_of_lt_of_le (Nat.add_lt_add_left hrest _) hle

/-- Bits below bit `lo`, of a number that has a field there. -/
theorem div_mod_below {lo p w : Nat} (h : p + w ≤ lo) (v r : Nat) : (v * 2 ^ lo + r) / 2 ^ p % 2 ^ w = r / 2 ^ p % 2 ^ w := by
  have hsplit : v * 2 ^ lo = 2 ^ p * (v * 2 ^ (lo - p)) := by rw [Nat.mul_left_comm, ← Nat.pow_add, Nat.add_sub_cancel' (by omega)]
  have hdvd : 2 ^ w ∣ v * 2 ^ (lo - p) := Nat.dvd_mul_left_of_dvd (Nat.pow_dvd_pow 2 (by omega)) v
  rw [hsplit, Nat.mul_add_div (Nat.two_pow_pos p), Nat.add_mod, Nat.mod_eq_zero_of_dvd hdvd, Nat.zero_add, Nat.mod_mod]

/-- Bits at or above bit `lo`, of a number whose topmost field begins there. -/
theorem div_above {lo p r : Nat} (h : lo ≤ p) (hr : r < 2 ^ lo) (v : Nat) : (v * 2 ^ lo + r) / 2 ^ p = v / 2 ^ (p - lo) := by
  have hsplit : 2 ^ p = 2 ^ lo * 2 ^ (p - lo) := by rw [← Nat.pow_add, Nat.add_sub_cancel' h]
  rw [hsplit, ← Nat.div_div_eq_div_mul, Nat.mul_comm v, Nat.mul_add_div (Nat.two_pow_pos lo), Nat.div_eq_of_lt hr, Nat.add_zero]

/-- Bits that no field's lowest bit splits are read from one field. -/
theorem fieldOf_fields {fs : List (Nat × Nat)} (h : fieldsFit 64 fs) {p w : Nat} (hsplit : ∀ f ∈ fs, f.1 ≤ p ∨ p + w ≤ f.1) :
    fieldOf (fields fs) p w = readField fs p w := by
  rw [fieldOf_eq, fields, word_toNat _ (sum_lt_of_fieldsFit h)]
  generalize 64 = top at h
  induction fs generalizing top with
  | nil => simp [readField]
  | cons f fs ih =>
    obtain ⟨lo, v⟩ := f
    obtain ⟨-, -, hfs⟩ := h
    rw [List.map_cons, List.sum_cons, readField]
    split
    next hle => rw [div_above hle (sum_lt_of_fieldsFit hfs)]
    next hgt =>
      have hbelow : p + w ≤ lo := (hsplit _ List.mem_cons_self).resolve_left hgt
      rw [div_mod_below hbelow]
      exact ih (fun f hf => hsplit f (List.mem_cons_of_mem _ hf)) lo hfs

/-! ## The fields of each register -/

/-- The device status register (Table 1.8). -/
theorem statusReg_fields (m : Mgmt) :
    fieldOf m.statusReg 40 24 = 0 ∧ fieldOf m.statusReg 32 8 = m.cause.toNat ∧ fieldOf m.statusReg 16 16 = 0 ∧ fieldOf m.statusReg 15 1 = b2n m.therm ∧
      fieldOf m.statusReg 3 12 = 0 ∧ fieldOf m.statusReg 0 3 = m.stage.code := by
  have hcause := m.cause.isLt
  have htherm := b2n_le_one m.therm
  have hstage : m.stage.code ≤ 4 := by cases m.stage <;> decide
  have hfit : fieldsFit 64 [(32, m.cause.toNat), (15, b2n m.therm), (0, m.stage.code)] := by
    simp only [fieldsFit, Nat.reduceSub, Nat.reducePow, and_true]; omega
  rw [Mgmt.statusReg]
  refine ⟨?_, ?_, ?_, ?_, ?_, ?_⟩ <;>
  · rw [fieldOf_fields hfit (by simp)]
    simp only [readField, Nat.reduceLeDiff, ↓reduceIte, Nat.reduceSub, Nat.reducePow]
    omega

/-- The island status registers: two bits for each of 32 islands (R24). -/
theorem islandReg_field (s : State) (n : Nat) {j : Nat} (hj : j < 32) : fieldOf (s.islandReg n) (2 * j) 2 = (s.island (32 * n + j)).st.depth := by
  have hd : ∀ i, (s.island (32 * n + i)).st.depth < 2 ^ 2 := fun i => by cases (s.island (32 * n + i)).st <;> decide
  have hsum := sum_tab_eq_packNat 2 (fun i => (s.island (32 * n + i)).st.depth) hd 32
  rw [State.islandReg, fields, hsum, fieldOf, word_toNat _ (packNat_lt 2 _ 32)]
  exact (packNat_bitsOf 2 _ 32 j hj).trans (Nat.mod_eq_of_lt (hd j))

/-- The mailbox status register (Table 1.15). -/
theorem mailboxReg_fields (m : Mgmt) :
    fieldOf m.mailboxReg 32 32 = 0 ∧ fieldOf m.mailboxReg 16 16 = m.mbLen.toNat ∧ fieldOf m.mailboxReg 8 8 = m.mbDone.toNat ∧
      fieldOf m.mailboxReg 4 4 = m.mbError.toNat ∧ fieldOf m.mailboxReg 1 3 = 0 ∧ fieldOf m.mailboxReg 0 1 = b2n m.mbRun.isSome := by
  have hlen := m.mbLen.isLt
  have hdone := m.mbDone.isLt
  have herror := m.mbError.isLt
  have hbusy := b2n_le_one m.mbRun.isSome
  have hfit : fieldsFit 64 [(16, m.mbLen.toNat), (8, m.mbDone.toNat), (4, m.mbError.toNat), (0, b2n m.mbRun.isSome)] := by
    simp only [fieldsFit, Nat.reduceSub, Nat.reducePow, and_true]; omega
  rw [Mgmt.mailboxReg]
  refine ⟨?_, ?_, ?_, ?_, ?_, ?_⟩ <;>
  · rw [fieldOf_fields hfit (by simp)]
    simp only [readField, Nat.reduceLeDiff, ↓reduceIte, Nat.reduceSub, Nat.reducePow]
    omega

/-- The mailbox buffer, eight bytes at a time. -/
theorem bufferReg_field (m : Mgmt) (o : Nat) {j : Nat} (hj : j < 8) : fieldOf (m.bufferReg o) (8 * j) 8 = (vget m.mbBuf (o + j) 0).toNat := by
  have hlt : leNat (tab 8 fun i => vget m.mbBuf (o + i) 0) < 2 ^ 64 := leNat_lt _
  rw [fieldOf_eq, Mgmt.bufferReg, word_toNat _ hlt, leNat_div_mod]
  simp [tab, hj]

/-- task_ctl: busy while one of the function's requests is queued (Table 4.5). -/
theorem taskCtlReg_eq (s : State) (fn : Fn) : s.taskCtlReg fn = if ∃ r ∈ s.hm.ctl, r.fn = fn then 0x100 else 0 := by
  by_cases h : ∃ r ∈ s.hm.ctl, r.fn = fn
  · have hany : (s.hm.ctl.any fun r => r.fn == fn) = true := by simpa using h
    rw [State.taskCtlReg, hany, if_pos h]
    rfl
  · have hany : (s.hm.ctl.any fun r => r.fn == fn) = false := by simpa using h
    rw [State.taskCtlReg, hany, if_neg h]
    rfl

/-- A queue register of an area: its page and its size (Tables 3.1 and 3.4). -/
theorem queueReg_fields (va : BitVec 40) (size : BitVec 4) :
    let r := fields [(12, va.toNat), (0, size.toNat)]
    fieldOf r 52 12 = 0 ∧ fieldOf r 12 40 = va.toNat ∧ fieldOf r 4 8 = 0 ∧ fieldOf r 0 4 = size.toNat := by
  have hva := va.isLt
  have hsize := size.isLt
  have hfit : fieldsFit 64 [(12, va.toNat), (0, size.toNat)] := by
    simp only [fieldsFit, Nat.reduceSub, Nat.reducePow, and_true]; omega
  refine ⟨?_, ?_, ?_, ?_⟩ <;>
  · rw [fieldOf_fields hfit (by simp)]
    simp only [readField, Nat.reduceLeDiff, ↓reduceIte, Nat.reduceSub, Nat.reducePow]
    omega

/-- The control register of an area (Table 3.3). -/
theorem areaCtl_fields (x : Area) :
    let c := x.reg 0x18
    fieldOf c 41 23 = 0 ∧ fieldOf c 40 1 = b2n x.halted ∧ fieldOf c 32 8 = x.err.toNat ∧ fieldOf c 28 4 = 0 ∧ fieldOf c 16 12 = x.asid.toNat ∧ fieldOf c 14 2 = 0 ∧
      fieldOf c 8 6 = x.vec.toNat ∧ fieldOf c 4 4 = x.pcap.toNat ∧ fieldOf c 2 2 = 0 ∧ fieldOf c 1 1 = b2n x.irq ∧ fieldOf c 0 1 = b2n x.en := by
  have hhalted := b2n_le_one x.halted
  have herr := x.err.isLt
  have hasid := x.asid.isLt
  have hvec := x.vec.isLt
  have hpcap := x.pcap.isLt
  have hirq := b2n_le_one x.irq
  have hen := b2n_le_one x.en
  have hfit : fieldsFit 64 [(40, b2n x.halted), (32, x.err.toNat), (16, x.asid.toNat), (8, x.vec.toNat), (4, x.pcap.toNat), (1, b2n x.irq), (0, b2n x.en)] := by
    simp only [fieldsFit, Nat.reduceSub, Nat.reducePow, and_true]; omega
  simp only [Area.reg]
  refine ⟨?_, ?_, ?_, ?_, ?_, ?_, ?_, ?_, ?_, ?_, ?_⟩ <;>
  · rw [fieldOf_fields hfit (by simp)]
    simp only [readField, Nat.reduceLeDiff, ↓reduceIte, Nat.reduceSub, Nat.reducePow]
    omega

/-- The lease register of an area (Table 3.5). -/
theorem areaLease_fields (x : Area) :
    fieldOf (x.reg 0x38) 52 12 = x.leaseCnt.toNat ∧ fieldOf (x.reg 0x38) 6 46 = x.leaseVa.toNat ∧ fieldOf (x.reg 0x38) 0 6 = 0 := by
  have hcnt := x.leaseCnt.isLt
  have hva := x.leaseVa.isLt
  have hfit : fieldsFit 64 [(52, x.leaseCnt.toNat), (6, x.leaseVa.toNat)] := by
    simp only [fieldsFit, Nat.reduceSub, Nat.reducePow, and_true]; omega
  simp only [Area.reg]
  refine ⟨?_, ?_, ?_⟩ <;>
  · rw [fieldOf_fields hfit (by simp)]
    simp only [readField, Nat.reduceLeDiff, ↓reduceIte, Nat.reduceSub, Nat.reducePow] <;> omega

/-- A word from the number of a narrower one. -/
theorem word_toNat_eq_setWidth {n : Nat} (x : BitVec n) : word x.toNat = x.setWidth 64 := BitVec.ofNat_toNat 64 x

/-! ## Which register an offset names -/

theorem pfRead_islandReg (s : State) {n : Nat} (h : n < 16) : s.pfRead (0x10100 + 8 * n) = s.islandReg n := by
  have hn : (0x10100 + 8 * n - 0x10100) / 8 = n := by omega
  unfold State.pfRead
  rw [if_neg (by omega), if_neg (by omega), if_neg (by omega), if_neg (by omega), if_neg (by omega), if_neg (by omega), if_pos (by omega), hn]

theorem pfRead_bufferReg (s : State) {n : Nat} (h : n < 128) : s.pfRead (0x20100 + 8 * n) = s.mgmt.bufferReg (8 * n) := by
  unfold State.pfRead
  rw [if_neg (by omega), if_neg (by omega), if_neg (by omega), if_neg (by omega), if_pos (by omega), Nat.add_sub_cancel_left]

/-- Where a function finds the registers of an area: the PF its own areas and a mirror of the VFs', a VF its own four. -/
def areaAt (a : Nat) (fn : Fn) (base : Nat) : Prop :=
  (fn = .pf ∧ base = (if a < 16 then 0x40000 + 0x40 * a else 0x41000 + 0x40 * (a - 16))) ∨
    (∃ n, 1 ≤ n ∧ n ≤ 16 ∧ fn = .vf n ∧ a = 16 + 4 * (n - 1) + base / 0x40 ∧ base % 0x40 = 0 ∧ base < 0x100)

theorem regRead_area (s : State) {a : Nat} {fn : Fn} {base : Nat} (ha : a < 80) (h : areaAt a fn base) {r : Nat} (hr : r < 0x40) (h8 : r % 8 = 0) :
    s.regRead fn (base + r) = (s.area a).reg r := by
  rcases h with ⟨rfl, hbase⟩ | ⟨n, hlo, hhi, rfl, harea, halign, hbase⟩
  · by_cases hown : a < 16
    · rw [if_pos hown] at hbase
      have hidx : (base + r - 0x40000) / 0x40 = a := by omega
      have hreg : (base + r - 0x40000) % 0x40 = r := by omega
      change s.pfRead _ = _
      unfold State.pfRead
      rw [if_neg (by omega), if_pos (by omega), hidx, hreg]
    · rw [if_neg hown] at hbase
      have hidx : 16 + (base + r - 0x41000) / 0x40 = a := by omega
      have hreg : (base + r - 0x41000) % 0x40 = r := by omega
      change s.pfRead _ = _
      unfold State.pfRead
      rw [if_neg (by omega), if_neg (by omega), if_pos (by omega), hidx, hreg]
  · have hidx : 16 + 4 * (n - 1) + (base + r) / 0x40 = a := by omega
    have hreg : (base + r) % 0x40 = r := by omega
    change s.vfRead n _ = _
    unfold State.vfRead
    rw [if_neg (by omega), if_pos (by omega), hidx, hreg]

/-- task_ctl of the PF and of a VF. -/
theorem regRead_taskCtl (s : State) {fn : Fn} {off : Nat} (h : (fn = .pf ∧ off = 0x50030) ∨ (∃ n, 1 ≤ n ∧ n ≤ 16 ∧ fn = .vf n ∧ off = 0xf008)) :
    s.regRead fn off = s.taskCtlReg fn := by
  rcases h with ⟨rfl, rfl⟩ | ⟨n, hlo, hhi, rfl, rfl⟩
  · rfl
  · change s.vfRead n _ = _
    unfold State.vfRead
    rw [if_neg (by omega), if_neg (by omega)]
    rfl

/-- A VF's mirror of the status register (R29). -/
theorem vfRead_status (s : State) {n : Nat} (hlo : 1 ≤ n) (hhi : n < 17) : s.vfRead n 0xf010 = s.mgmt.statusReg := by
  unfold State.vfRead
  rw [if_neg (by omega), if_neg (by omega)]
  rfl

theorem regRead_misaligned (s : State) (fn : Fn) {off : Nat} (h : off % 8 ≠ 0) : s.regRead fn off = 0 := by
  cases fn with
  | pf => exact if_pos h
  | vf n => exact if_pos (.inl h)

theorem vfRead_unlisted (s : State) (n : Nat) {off : Nat} (hlo : 0x100 ≤ off) (hctl : off ≠ 0xf008) (hst : off ≠ 0xf010) : s.vfRead n off = 0 := by
  unfold State.vfRead
  split
  · rfl
  · rw [if_neg (by omega)]
    split
    · exact absurd rfl hctl
    · exact absurd rfl hst
    · rfl

theorem pfRead_above (s : State) {off : Nat} (h : 0x71600 ≤ off) : s.pfRead off = 0 := by
  unfold State.pfRead
  split
  · rfl
  · rw [if_neg (by omega), if_neg (by omega), if_neg (by omega), if_neg (by omega), if_neg (by omega), if_neg (by omega)]
    split
    rotate_right
    · rfl
    all_goals omega

/-- The write-only registers of the PF read as zero. -/
theorem pfRead_writeOnly (s : State) {off : Nat} (h : off ∈ [0x20000, 0x4f000, 0x60020, 0x60028]) : s.pfRead off = 0 := by
  simp only [List.mem_cons, List.not_mem_nil, or_false] at h
  rcases h with rfl | rfl | rfl | rfl <;> rfl

end Sys2Proof.Machine
end

section
/-! PROOF. O50: the mailbox commands and the reads of BAR0, from the lemmas on the mailbox and on the registers. -/

namespace Sys2Proof.Machine

/-! ## The commands -/

/-- The commands without arguments, each accepted in a stage of its row. -/
theorem mailbox_plainCommands (s : State) (w : Word) (hidle : s.mgmt.mbRun = none) (hbits : fieldOf w 8 8 = 0) (h0 : mbArg0 w = 0) (h1 : mbArg1 w = 0) :
    (mbCode w = 1 → inStages [.firmware, .running, .recovery] s = true → exec (.readIdentityCertificate w) s = .next (s.mbStart 0 identityCert)) ∧
    (mbCode w = 2 → inStages [.firmware, .running] s = true → ∀ g : RunningImage, s.mgmt.image = some g →
      exec (.readAliasCertificate w) s = .next (s.mbStart 0 g.aliasCert)) ∧
    (mbCode w = 3 → inStages [.firmware, .running] s = true → ∀ g : RunningImage, s.mgmt.image = some g →
      exec (.attest w) s = .next (s.mbStart 0 (s.mgmt.report g (s.mgmt.mbBuf.toList.take 32)))) ∧
    (mbCode w = 4 → inStages [.running] s = true → ∀ g : RunningImage, s.mgmt.image = some g → ∃ t, exec (.raiseFuseSvn w) s = .next t ∧
      t = { s with mgmt := { s.mgmt with minSvn := t.mgmt.minSvn, mbRun := some { error := 0, out := [] } } } ∧
      t.mgmt.minSvn.toNat = max s.mgmt.minSvn.toNat g.svn.toNat) ∧
    (mbCode w = 5 → inStages [.firmware, .running, .recovery] s = true →
      exec (.readConfiguration w) s = .next (s.mbStart 0 (s.mgmt.fuseRecord ++ configTable))) := by
  have accepts : ∀ {code ss}, mbCode w = code → inStages ss s = true → MbAccepts s w code ss :=
    fun hcode hst => ⟨hidle, hcode, hbits, (inStages_iff _ s).mp hst⟩
  refine ⟨fun hc hst => readIdentityCertificate_runs (accepts hc hst) h0 h1, fun hc hst g hg => readAliasCertificate_runs (accepts hc hst) h0 h1 hg,
    fun hc hst g hg => attest_runs (accepts hc hst) h0 h1 hg, fun hc hst g hg => ?_, fun hc hst => readConfiguration_runs (accepts hc hst) h0 h1⟩
  obtain ⟨v, hv, hexec⟩ := raiseFuseSvn_runs (accepts hc hst) h0 h1 hg
  exact ⟨_, hexec, rfl, hv⟩

/-- IMAGE_BEGIN, accepted, for a slot that does not run and an image of a size that a slot can hold. -/
theorem imageBegin_spec {s : State} {w : Word} (h : MbAccepts s w 0x10 [.running, .recovery]) (hslot : mbArg0 w < 2) (hlo : 4352 ≤ mbArg1 w)
    (hhi : mbArg1 w ≤ 50331904) (hrun : s.mgmt.stage = .running → s.mgmt.image.map (·.slot) ≠ some (mbArg0 w)) :
    ∃ t, exec (.imageBegin w) s = .next t ∧ t.mgmt.mbRun = some { error := 0, out := [] } ∧
      t.flash (mbArg0 w) = { st := .loading (mbArg1 w), bytes := [], written := [] } ∧
      t.flash (1 - mbArg0 w) = (if (s.flash (1 - mbArg0 w)).loads = true then FlashSlot.empty else s.flash (1 - mbArg0 w)) ∧
      t = { s with mgmt := { s.mgmt with slots := t.mgmt.slots, mbRun := t.mgmt.mbRun } } :=
  ⟨_, imageBegin_erases h hslot (fun ⟨hst, hsl⟩ => hrun hst hsl) hlo hhi, rfl, s.beganImage_flash _ hslot, s.beganImage_flash_other _ hslot,
    s.beganImage_frame _ _⟩

/-- IMAGE_CHUNK, accepted, within the image that is loading. -/
theorem imageChunk_spec {s : State} {w : Word} {i n : Nat} (h : MbAccepts s w 0x11 [.running, .recovery]) (hlen : mbArg0 w < 1024)
    (hi : s.loadingSlot = some i) (hn : (s.flash i).st = .loading n) (hend : mbArg1 w + (mbArg0 w + 1) ≤ n) :
    ∃ t, exec (.imageChunk w) s = .next t ∧ t.mgmt.mbRun = some { error := 0, out := [] } ∧ (t.flash i).st = .loading n ∧
      ((s.flash i).bytes.Pairwise (fun a b => a.1 < b.1) → ∀ a, readCell (t.flash i).bytes a =
        if mbArg1 w ≤ a ∧ a < mbArg1 w + (mbArg0 w + 1) then vget s.mgmt.mbBuf (a - mbArg1 w) 0 else readCell (s.flash i).bytes a) ∧
      ∀ j, j ≠ i → t.flash j = s.flash j := by
  have hlt : i < 2 := (State.loadingSlot_spec hi).1
  refine ⟨_, imageChunk_writes h hlen hi hn hend, rfl, ?_, fun hrise a => ?_, fun j hj => ?_⟩
  · rw [State.flash_mbStart, State.flash_setFlash_same _ _ _ hlt]
    exact hn
  · rw [State.flash_mbStart, State.flash_setFlash_same _ _ _ hlt]
    exact FlashSlot.readCell_withChunk _ _ _ hlen hrise a
  · exact State.flash_setFlash_other _ _ _ _ hj.symm

/-- IMAGE_COMMIT, accepted, of a whole image: valid when its checks pass, erased when they do not. -/
theorem imageCommit_spec {s : State} {w : Word} {n : Nat} (h : MbAccepts s w 0x12 [.running, .recovery]) (hslot : mbArg0 w < 2) (h1 : mbArg1 w = 0)
    (hn : (s.flash (mbArg0 w)).st = .loading n) (hw : (s.flash (mbArg0 w)).written = [(0, n)]) :
    (∀ m : Measured, s.mgmt.checkImage (s.flash (mbArg0 w)) = .ok m → ∃ t, exec (.imageCommit w) s = .next t ∧ t.mgmt.mbRun = some { error := 0, out := [] } ∧
      t.flash (mbArg0 w) = { s.flash (mbArg0 w) with st := .valid n } ∧ t.flash (1 - mbArg0 w) = s.flash (1 - mbArg0 w)) ∧
    (∀ e : Nat, s.mgmt.checkImage (s.flash (mbArg0 w)) = .error e → ∃ t, exec (.imageCommit w) s = .next t ∧
      t.mgmt.mbRun = some { error := 3, out := leBytes 1 e } ∧ t.flash (mbArg0 w) = FlashSlot.empty ∧ t.flash (1 - mbArg0 w) = s.flash (1 - mbArg0 w)) := by
  have hne : mbArg0 w ≠ 1 - mbArg0 w := by omega
  exact ⟨fun m hm => ⟨_, imageCommit_valid h hslot h1 hn hw hm, rfl, State.flash_setFlash_same _ _ _ hslot, State.flash_setFlash_other _ _ _ _ hne⟩,
    fun e he => ⟨_, imageCommit_erases h hslot h1 hn hw he, rfl, State.flash_setFlash_same _ _ _ hslot, State.flash_setFlash_other _ _ _ _ hne⟩⟩

/-! ## The errors -/

/-- How a command of Table 1.16 ends before its arguments are looked at. -/
theorem mbRow_gate {s : State} {w : Word} {i : Instr} {code : Nat} {ss : List Stage} {unused : Bool} (hrow : mbRow w i code ss unused) (hcode : mbCode w = code) :
    (s.mgmt.stage = .rom ∨ s.mgmt.stage = .stopped → exec i s = .next s) ∧
    (s.mgmt.mbRun ≠ none → s.mgmt.stage ≠ .rom → s.mgmt.stage ≠ .stopped → exec i s = .next { s with mgmt := { s.mgmt with mbError := 2 } }) ∧
    (s.mgmt.mbRun = none → s.mgmt.stage ≠ .rom → s.mgmt.stage ≠ .stopped → s.mgmt.stage ∉ ss → exec i s = .next (s.mbStart 5 [])) ∧
    (s.mgmt.mbRun = none → s.mgmt.stage ∈ ss → fieldOf w 8 8 ≠ 0 ∨ unused = true → exec i s = .next (s.mbStart 4 [])) := by
  obtain ⟨hss, f, hexec⟩ := mbRow_exec s hrow
  rw [hexec]
  exact ⟨mailbox_ignored, fun hbusy hr hs => mailbox_busy hcode hr hs hbusy, fun hidle hr hs hst => mailbox_badStage hcode hr hs hidle hst,
    fun hidle hst hbad => mailbox_badBits hss hcode hidle hst hbad⟩

/-- The row of IMAGE_BEGIN. -/
theorem mbRow_imageBegin {w : Word} {i : Instr} {ss : List Stage} {unused : Bool} (h : mbRow w i 0x10 ss unused) :
    i = .imageBegin w ∧ ss = [.running, .recovery] ∧ (unused = false → mbArg0 w < 2) := by
  have hrow : i = .imageBegin w ∧ ss = [.running, .recovery] ∧ unused = (fieldOf w 17 15 != 0) := by simpa [mbRow] using h
  obtain ⟨hi, hss, rfl⟩ := hrow
  refine ⟨hi, hss, fun hu => ?_⟩
  have hzero : mbArg0 w / 2 = 0 := by simpa [mbArg0_div_two] using hu
  omega

/-- The row of IMAGE_CHUNK. -/
theorem mbRow_imageChunk {w : Word} {i : Instr} {ss : List Stage} {unused : Bool} (h : mbRow w i 0x11 ss unused) :
    i = .imageChunk w ∧ ss = [.running, .recovery] ∧ (unused = false → mbArg0 w < 1024) := by
  have hrow : i = .imageChunk w ∧ ss = [.running, .recovery] ∧ unused = (fieldOf w 26 6 != 0) := by simpa [mbRow] using h
  obtain ⟨hi, hss, rfl⟩ := hrow
  refine ⟨hi, hss, fun hu => ?_⟩
  have hzero : mbArg0 w / 1024 = 0 := by simpa [mbArg0_div_1024] using hu
  omega

/-- The row of IMAGE_COMMIT. -/
theorem mbRow_imageCommit {w : Word} {i : Instr} {ss : List Stage} {unused : Bool} (h : mbRow w i 0x12 ss unused) :
    i = .imageCommit w ∧ ss = [.running, .recovery] ∧ (unused = false → mbArg0 w < 2 ∧ mbArg1 w = 0) := by
  have hrow : i = .imageCommit w ∧ ss = [.running, .recovery] ∧ unused = (fieldOf w 17 47 != 0) := by simpa [mbRow] using h
  obtain ⟨hi, hss, rfl⟩ := hrow
  refine ⟨hi, hss, fun hu => ?_⟩
  have hzero : mbArg0 w / 2 = 0 ∧ mbArg1 w = 0 := by simpa [← mbSlot_unused] using hu
  omega

/-- How the image commands refuse their arguments. -/
theorem mbRow_badArguments {s : State} {w : Word} {i : Instr} {code : Nat} {ss : List Stage} {unused : Bool} (hrow : mbRow w i code ss unused)
    (h : MbAccepts s w code ss) (hu : unused = false) :
    (code = 0x10 → s.mgmt.stage = .running → s.mgmt.image.map (·.slot) = some (mbArg0 w) → exec i s = .next (s.mbStart 5 [])) ∧
    (code = 0x10 → ¬ (s.mgmt.stage = .running ∧ s.mgmt.image.map (·.slot) = some (mbArg0 w)) → mbArg1 w < 4352 ∨ 50331904 < mbArg1 w →
      exec i s = .next (s.mbStart 4 [])) ∧
    (code = 0x11 → (s.loadingSlot = none ∨ ∃ k n, s.loadingSlot = some k ∧ (s.flash k).st = .loading n ∧ n < mbArg1 w + (mbArg0 w + 1)) →
      exec i s = .next (s.mbStart 4 [])) ∧
    (code = 0x12 → (∀ n, (s.flash (mbArg0 w)).st = .loading n → (s.flash (mbArg0 w)).written ≠ [(0, n)]) → exec i s = .next (s.mbStart 4 [])) := by
  refine ⟨?_, ?_, ?_, ?_⟩
  · rintro rfl hst hsl
    obtain ⟨rfl, rfl, hslot⟩ := mbRow_imageBegin hrow
    exact imageBegin_runningSlot h (hslot hu) ⟨hst, hsl⟩
  · rintro rfl hrun hsize
    obtain ⟨rfl, rfl, hslot⟩ := mbRow_imageBegin hrow
    exact imageBegin_badSize h (hslot hu) hrun hsize
  · rintro rfl hbad
    obtain ⟨rfl, rfl, hlen⟩ := mbRow_imageChunk hrow
    rcases hbad with hnone | ⟨k, n, hk, hn, hend⟩
    · exact imageChunk_noSlot h (hlen hu) hnone
    · exact imageChunk_pastEnd h (hlen hu) hk hn hend
  · rintro rfl hpart
    obtain ⟨rfl, rfl, hargs⟩ := mbRow_imageCommit hrow
    obtain ⟨hslot, h1⟩ := hargs hu
    exact imageCommit_notWhole h hslot h1 hpart

/-! ## The reads -/

/-- The registers of an area, read through any of its places. -/
theorem regRead_areaFields (s : State) {a : Nat} {fn : Fn} {base : Nat} (ha : a < 80) (hat : areaAt a fn base) :
    let x := s.area a
    let c := s.regRead fn (base + 0x18)
    (∀ z ∈ [(s.regRead fn base, x.subVa, x.subSize), (s.regRead fn (base + 0x20), x.cplVa, x.cplSize)],
      fieldOf z.1 52 12 = 0 ∧ fieldOf z.1 12 40 = z.2.1.toNat ∧ fieldOf z.1 4 8 = 0 ∧ fieldOf z.1 0 4 = z.2.2.toNat) ∧
    s.regRead fn (base + 0x08) = x.subTail.setWidth 64 ∧ s.regRead fn (base + 0x10) = x.subHead.setWidth 64 ∧
    s.regRead fn (base + 0x28) = x.cplTail.setWidth 64 ∧ s.regRead fn (base + 0x30) = x.cplHead.setWidth 64 ∧
    fieldOf c 41 23 = 0 ∧ fieldOf c 40 1 = b2n x.halted ∧ fieldOf c 32 8 = x.err.toNat ∧ fieldOf c 28 4 = 0 ∧ fieldOf c 16 12 = x.asid.toNat ∧ fieldOf c 14 2 = 0 ∧
      fieldOf c 8 6 = x.vec.toNat ∧ fieldOf c 4 4 = x.pcap.toNat ∧ fieldOf c 2 2 = 0 ∧ fieldOf c 1 1 = b2n x.irq ∧ fieldOf c 0 1 = b2n x.en ∧
    fieldOf (s.regRead fn (base + 0x38)) 52 12 = x.leaseCnt.toNat ∧ fieldOf (s.regRead fn (base + 0x38)) 6 46 = x.leaseVa.toNat ∧
    fieldOf (s.regRead fn (base + 0x38)) 0 6 = 0 := by
  have hreg : ∀ r, r < 0x40 → r % 8 = 0 → s.regRead fn (base + r) = (s.area a).reg r := fun r hr h8 => regRead_area s ha hat hr h8
  have hsub : s.regRead fn base = (s.area a).reg 0 := hreg 0 (by decide) rfl
  rw [hsub, hreg 0x08 (by decide) rfl, hreg 0x10 (by decide) rfl, hreg 0x18 (by decide) rfl, hreg 0x20 (by decide) rfl, hreg 0x28 (by decide) rfl,
    hreg 0x30 (by decide) rfl, hreg 0x38 (by decide) rfl]
  obtain ⟨c41, c40, c32, c28, c16, c14, c8, c4, c2, c1, c0⟩ := areaCtl_fields (s.area a)
  refine ⟨?_, word_toNat_eq_setWidth _, word_toNat_eq_setWidth _, word_toNat_eq_setWidth _, word_toNat_eq_setWidth _, c41, c40, c32, c28, c16, c14, c8, c4, c2, c1, c0,
    areaLease_fields (s.area a)⟩
  intro z hz
  simp only [List.mem_cons, List.not_mem_nil, or_false] at hz
  rcases hz with rfl | rfl
  · exact queueReg_fields _ _
  · exact queueReg_fields _ _

/-- Settles O50: each command by its own lemma, every refusal by the gate of its row or by its command's arguments, every read by its register's fields. -/
theorem mailboxEvents : Obligations.MailboxEvents := by
  intro s w
  refine ⟨mailbox_plainCommands s w, fun hidle hbits hst => ?images, fun hcode hr hs => ⟨mailboxBadCode_idle hcode hr hs, mailboxBadCode_busy hcode hr hs⟩,
    fun i code ss unused hrow hcode => ?rows, fun r hrun => ?done, mailboxCommandDone_idle, ?reads⟩
  case images =>
    have accepts : ∀ {code}, mbCode w = code → MbAccepts s w code [.running, .recovery] := fun hc => ⟨hidle, hc, hbits, (inStages_iff _ s).mp hst⟩
    exact ⟨fun hc => imageBegin_spec (accepts hc), fun hc hlen i n => imageChunk_spec (accepts hc) hlen, fun hc hslot h1 n => imageCommit_spec (accepts hc) hslot h1⟩
  case rows =>
    obtain ⟨hignored, hbusy, hstage, hbad⟩ := mbRow_gate (s := s) hrow hcode
    exact ⟨hignored, hbusy, hstage, hbad, fun hidle hst hbits hu => mbRow_badArguments hrow ⟨hidle, hcode, hbits, hst⟩ hu⟩
  case done =>
    exact ⟨_, mailboxCommandDone_publishes hrun, rfl, rfl, rfl, rfl, fun i hi => s.mbPublished_mbBuf r hi, rfl⟩
  case reads =>
    obtain ⟨hhigh, hcause, hmid, htherm, hlow, hstage⟩ := statusReg_fields s.mgmt
    exact ⟨hhigh, hcause, hmid, htherm, hlow, hstage, fun n hhi hlo => vfRead_status s hlo hhi,
      fun n hn j hj => (congrArg (fieldOf · (2 * j) 2) (pfRead_islandReg s hn)).trans (islandReg_field s n hj),
      mailboxReg_fields s.mgmt,
      fun n hn j hj => (congrArg (fieldOf · (8 * j) 8) (pfRead_bufferReg s hn)).trans (bufferReg_field s.mgmt _ hj),
      fun off hoff => pfRead_writeOnly s hoff,
      fun fn off h => (regRead_taskCtl s h).trans (taskCtlReg_eq s fn),
      fun a ha fn base hat => regRead_areaFields s ha hat,
      fun fn off h => regRead_misaligned s fn h,
      fun n off hlo hctl hst => vfRead_unlisted s n hlo hctl hst,
      fun off h => pfRead_above s h⟩

end Sys2Proof.Machine
end
